-- ==== Sys2Proof/Word.lean ====
section
/-! DEFINITION. The word types of the Clokin P20 and the type of its sparse tables. -/

namespace Sys2Proof

/-- A byte, the unit of memory (R13). -/
abbrev Byte := BitVec 8
/-- A 32-bit register or word. -/
abbrev W32 := BitVec 32
/-- A 64-bit word: an instruction word, a pair, a system register. -/
abbrev W64 := BitVec 64
/-- A lane mask: bit L is lane L of a crew (R185). -/
abbrev Mask := BitVec 32

/-- A sparse table from keys to values. A key that is not listed holds the table's default value.
The keys rise strictly. -/
abbrev Tbl (α : Type) := List (Nat × α)

end Sys2Proof
end

