-- ==== Sys2Proof/Syntax.lean ====
section
/-! DEFINITION. The steps of the Clokin P20: its instructions as decoded operands, and the events and commands of
the table of operations, each a constructor of `Instr`. -/

namespace Sys2Proof

/-- Element types (R221). -/
inductive Ty
  | s8 | s16 | s32 | s64 | n8 | n16 | n32 | n64 | b32 | b64 | i4 | q4 | q8 | fx128
  | f32 | f16 | bf16 | e4m3 | e5m2 | e3m2 | e2m3 | e2m1
  deriving DecidableEq, Repr

/-- A guard: predicate index PI and negation (R217). PI = 7 names pt or qt. -/
structure Guard where
  neg : Bool
  pi : BitVec 3
  deriving DecidableEq, Repr

/-- An operand as its position's space reads the 8-bit field (R219). -/
inductive Opnd
  | none                    -- an unused field
  | v (n : BitVec 8)        -- vector register, v255 the zero register
  | s (n : BitVec 7)        -- scalar register
  | w (n : BitVec 3)        -- walker, read and advanced
  | lit                     -- the instruction's literal word
  | imm (i : BitVec 6)      -- inline constant, sign-extended
  | discard                 -- scalar destination 0xFF
  | p (n : BitVec 3)        -- predicate, 7 is pt or qt
  | tile (n : BitVec 6)     -- accumulator tile
  | num (n : BitVec 8)      -- a plain number (a position, a format-block number, a control code)
  deriving DecidableEq, Repr

/-- Register format (R217): `lit` is the literal word that LIT = 1 consumes; `u` holds UA, UB and UC in bits 0 to 2. -/
structure RI where
  guard : Guard
  ty : Ty
  sub : BitVec 11
  u : BitVec 3
  lit : Option W64
  d : Opnd
  a : Opnd
  b : Opnd
  c : Opnd
  deriving DecidableEq, Repr

/-- Immediate format (R217). -/
structure II where
  guard : Guard
  d : Opnd
  a : Opnd
  imm : W32
  sub : BitVec 4
  deriving DecidableEq, Repr

/-- Memory format (R217). `os` is the offset split: then `x` is the third operand and `ofs` holds 12 signed bits. -/
structure MI where
  guard : Guard
  d : Opnd
  a : Opnd
  os : Bool
  x : Opnd
  ofs : BitVec 20
  wid : BitVec 3
  hint : BitVec 2
  sem : BitVec 2
  scope : BitVec 3
  skw : Bool
  sub : BitVec 3
  deriving DecidableEq, Repr

/-- Branch format (R217). -/
structure BI where
  guard : Guard
  tgt : BitVec 24
  join : BitVec 20
  x : BitVec 8
  deriving DecidableEq, Repr

/-- Matrix and engine format (R217). -/
structure EI where
  guard : Guard
  d : Opnd
  a : Opnd
  b : Opnd
  c : Opnd
  fb : BitVec 3
  sub : BitVec 16
  deriving DecidableEq, Repr

/-- A clause header (R211). -/
structure Header where
  wait : BitVec 12
  seta : BitVec 4
  setb : BitVec 4
  len : BitVec 3
  yield : Bool
  hold : Bool
  deriving DecidableEq, Repr

/-- Who executes an instruction: a fragment by core (island × 128 + core) and berth entry, or a Pilot thread by
cluster (island × 16 + cluster) and thread. -/
inductive Agent
  | frag (core entry : Nat)
  | pilot (cl th : Nat)
  deriving DecidableEq, Repr

/-- Kinds of access (R24, R67). -/
inductive AKind
  | load | store | atomic | fetch | prefetch | cctl
  | remoteRead | remoteWrite | remoteAdd   -- the target of an island operation
  | engineRead | engineWrite               -- a side of a Tender request
  | agentRead | agentWrite                 -- the Harbourmaster's island agent
  deriving DecidableEq, Repr

/-- Operations between islands (R141); the order is that of KIND in R164. -/
inductive OpKind
  | put | puts | get | radd | notify
  deriving DecidableEq, Repr

/-- What the home asks of a holder, or of an agent's network interface (R72, R88, R89, R94, R97, R99). -/
inductive FwdKind
  | take (req a : Nat)   -- send tokens to agent `a`, the requester of `req`
  | recall               -- send every token to the home
  | merge                -- return the partial line
  | downgrade            -- keep one token and send the rest to the home (R72: a walk's recall of an E or M copy)
  | unredirect           -- remove the redirect entry and acknowledge
  deriving DecidableEq, Repr

/-- Where tokens go (R88): a caching agent, the home, or a helper slice. -/
inductive TokDest
  | agent (n : Nat)
  | home
  | helper (slice : Nat)
  deriving DecidableEq, Repr

/-- A host MetaValue of a half line (R103). -/
inductive HS
  | I | S | A
  deriving DecidableEq, Repr

/-- CXL snoop types of a host request (R103). -/
inductive Snp
  | noOp | data | cur | inv
  deriving DecidableEq, Repr

/-- A flit: the header of R398 and its payload of up to 256 bytes. `rsv` gathers the reserved header bits. -/
structure Flit where
  route : BitVec 16
  hops : BitVec 4
  taken : BitVec 4
  dst : BitVec 5
  src : BitVec 5
  cls : BitVec 2
  typ : BitVec 3
  first : Bool
  last : Bool
  seq : BitVec 12
  cmb : Bool
  rsv : BitVec 17
  optag : BitVec 16
  flen : BitVec 9
  crc : W32
  payload : List Byte
  deriving DecidableEq, Repr

/-- The operation descriptor of R399. -/
structure Desc where
  ta : W64
  len : W32
  spn : BitVec 12
  sup : Bool
  kind : OpKind
  rty : BitVec 2
  n : W32
  inc : W32
  emask : BitVec 8
  ncon : BitVec 8
  deriving DecidableEq, Repr

/-- A steering message of R405: the far die is asked to move a colour, or agrees. -/
inductive SteerMsg
  | propose (colour from_ to_ : Nat)
  | agree (colour from_ to_ : Nat)
  deriving DecidableEq, Repr

/-- An Ultra Ethernet packet (R410, R411): packet `k` of operation `op` of far island `src`, with its descriptor. -/
structure UePacket where
  rud : Bool          -- delivery mode Reliable Unordered Delivery
  src : Nat           -- Chart id of the sender, as the receiver names it
  op : Nat
  k : Nat
  npkts : Nat
  ent : Nat := 0      -- entropy (R161)
  trim : Bool := false  -- trimmed: a request to resend packet `k` of operation `op` of the receiving island (R410)
  desc : Desc
  payload : List Byte
  deriving DecidableEq, Repr

/-- How a boot attempt goes (R416): the stage that fails and its reason, or the islands that pass stage 3. -/
structure BootPlan where
  powerOn : Bool
  fail : Option (Nat × Nat)     -- stage, reason code of R418
  healthy : BitVec 20
  recoveryOk : Bool
  deriving DecidableEq, Repr

/-- Every step of the part: one constructor for each row of the table of operations. -/
inductive Instr
  -- scalar class (R243)
  | sadd (x : RI) | ssub (x : RI) | smul (x : RI) | smulh (x : RI) | smad (x : RI) | sdiv (x : RI) | srem (x : RI)
  | sand (x : RI) | sor (x : RI) | sxor (x : RI) | sandn (x : RI) | sshl (x : RI) | sshr (x : RI) | ssar (x : RI)
  | srot (x : RI) | smin (x : RI) | smax (x : RI) | ssel (x : RI) | scmp (x : RI) | smov (x : RI) | sli (x : II)
  | spopc (x : RI) | sclz (x : RI) | sbfe (x : RI) | sbfi (x : RI) | sadd64 (x : RI) | ssub64 (x : RI) | slea (x : RI)
  -- control transfers and walkers (R247-R261)
  | bra (x : BI) | brx (x : BI) | bri (x : RI) | join (x : BI) | call (x : BI) | ret (x : RI) | exit (x : RI)
  | yield (x : RI) | nop (x : RI) | brw (x : BI) | wbind (x : RI) | wset (x : RI) | wget (x : RI)
  -- vector integer class (R265)
  | vadd (x : RI) | vsub (x : RI) | vmul (x : RI) | vmulh (x : RI) | vmad (x : RI) | vmin (x : RI) | vmax (x : RI)
  | vabs (x : RI) | vabsd (x : RI) | vand (x : RI) | vor (x : RI) | vxor (x : RI) | vandn (x : RI) | vshl (x : RI)
  | vshr (x : RI) | vsar (x : RI) | vrot (x : RI) | vpopc (x : RI) | vclz (x : RI) | vbfe (x : RI) | vbfi (x : RI)
  | vsel (x : RI) | vcmp (x : RI) | vmov (x : RI) | vli (x : II) | vdot4 (x : RI) | vadd64 (x : RI) | vlea (x : RI)
  -- floating point and conversion (R267, R274-R278)
  | fadd (x : RI) | fsub (x : RI) | fmul (x : RI) | ffma (x : RI) | fmin (x : RI) | fmax (x : RI) | fcmp (x : RI)
  | frcp (x : RI) | frsq (x : RI) | fsqrt (x : RI) | fexp2 (x : RI) | flog2 (x : RI) | fsin (x : RI) | fcos (x : RI)
  | ftanh (x : RI) | frnd (x : RI) | fclass (x : RI) | fscale (x : RI) | cvt (x : RI) | cvtb (x : RI) | pack (x : RI)
  | unpk (x : RI) | fdot2 (x : RI)
  -- crew instructions (R280)
  | shfl (x : RI) | qswz (x : RI) | vote (x : RI) | matchEq (x : RI) | elect (x : RI) | redx (x : RI) | scanx (x : RI)
  | help (x : RI) | mask (x : RI)
  -- barriers (R333)
  | bara (x : RI) | barw (x : RI) | bars (x : RI) | bard (x : RI) | barj (x : RI) | bart (x : RI)
  -- memory (R285-R302)
  | ld (x : MI) | st (x : MI) | ldf (x : EI) | atomArith (x : MI) | atomBitwise (x : MI) | redArith (x : MI)
  | redBitwise (x : MI) | pref (x : MI) | cctl (x : MI) | fence (x : MI) | twin (x : RI) | setc (x : MI) | waitc (x : MI)
  | testc (x : MI)
  -- island operations (R303-R307)
  | put (x : EI) | puts (x : EI) | get (x : EI) | radd (x : EI) | notify (x : EI) | waitn (x : RI) | testn (x : RI)
  | rfence (x : RI)
  -- matrix and engines (R314-R324)
  | mma (x : EI) | aclr (x : EI) | ald (x : EI) | adrn (x : EI) | setfb (x : RI) | kick (x : RI)
  -- system and Pilot (R337-R346)
  | trap (x : II) | rett (x : RI) | sysrd (x : II) | syswr (x : II) | bkpt (x : II) | poolpop (x : RI) | poolpush (x : RI)
  | evpop (x : RI) | evwait (x : RI) | tlaunch (x : RI) | halt (x : RI) | idle (x : RI)
  -- fragments and clauses
  | clauseHeader (h : Header)
  | handlerEntry (core entry : Nat)
  | fragmentWake (a : Agent)
  | longLatencyComplete (crew op : Nat)
  | gangFree (gang : Nat)
  -- commands, tasks and placement; `q` is precinct × 64 + queue
  | launch (q : Nat) | wait (q : Nat) | notifyCommand (q : Nat) | copy (q : Nat) | mark (q : Nat)
  | queueDoorbell (q : Nat) (v : W64) | queueControlWrite (q : Nat) (v : W64) | queueBaseWrite (q : Nat) (v : W64)
  | taskEnterWindow (isl : Nat) | taskReady (isl task : Nat) | gangPlace (isl task : Nat)
  -- precinct control; `p` is island × 16 + first cluster
  | precinctHalt (p : Nat) | haltComplete (p : Nat) | resume (p : Nat) | exchange (p : Nat) | exchangeComplete (p : Nat)
  | abort (p : Nat) (tag : W32) | abortComplete (p : Nat) (tag : W32) | release (p core slot : Nat)
  | wake (p cl : Nat) (threads : BitVec 4) | armbpClear (p : Nat) | debugHalt (isl : Nat) | debugHaltClear (isl : Nat)
  | precinctCreate (p : Nat) (v : W64) | precinctFree (p : Nat) | poolDoorbell (p : Nat) | pfpoolWrite (p : Nat) (v : W64)
  | contextCreate (p : Nat) | contextUpdate (p : Nat) | contextDestroy (p : Nat) (spn : BitVec 12)
  -- registers
  | hostPageOwnerChange (v : W64) | pwrcapWrite (v : W64) | steerWrite (isl port : Nat) (v : W64)
  | chartWrite (isl e : Nat) (v : W64) | peerEntryWrite (isl off : Nat) (v : W64) | colourFaultClear (isl colour : Nat)
  | counterClear (core k : Nat) | registerWrite (off : Nat) (v : W64)
  -- start-up, power, attestation
  | moduleReset (plan : BootPlan) | bootAttemptFailed (reason : BitVec 8) (plan : BootPlan)
  | thermalLimit (isl deg : Nat) | powerShareAdjust (isl draw : Nat)
  | getCertificate (off len : Nat)
  | challenge (nonce : BitVec 256) | getMeasurements (index : Nat)
  -- translation; TLBs of an island are 0-15 cluster, 16 arrival, 17 agent
  | walk (isl tlb : Nat) (spn : BitVec 12) (va : W64) (k : AKind) (sup : Bool)
  | tinv (isl tlb line : Nat) | tack (isl tlb line : Nat)
  -- coherence
  | homeRequest (req : Nat) | forward (isl line holder : Nat) (k : FwdKind)
  | tokenArrival (isl line : Nat) (dest : TokDest) (n : Nat) (owner : Bool)
  | lineEviction (isl agent line : Nat) | requestRetry (req : Nat) | persistentRequest (req : Nat)
  | persistentDeactivate (req : Nat) | hotLineReplicate (isl line : Nat)
  -- CXL; `off` is an HDM offset
  | hostMemrd (off : Nat) (snp : Snp) | hostMemwr (off : Nat) (mv : HS) (mask : W64) (data : List Byte)
  | hostMeminv (off : Nat) (mv : HS) | hostMemspecrd (off : Nat) | hostM2sUnsupported (opcode : Nat)
  | bisnpResponse (isl line half : Nat) (data : Option (List Byte)) | biConflict (isl line half : Nat)
  | hostSnoop (isl line half : Nat) (inv : Bool) | cxlCacheResponse (lk half : Nat) (own : Bool) (data : List Byte)
  -- Tender, Pilot event queue
  | tenderRequestStart (core : Nat) | tenderGranuleDone (core req k : Nat) | peqPost (cl : Nat)
  -- island operations
  | islandOpLocalComplete (op : Nat) | islandOpArrival (isl n : Nat) | heldArrivalPlace (isl n : Nat)
  | positiveAcknowledgement (op : Nat) | negativeAcknowledgement (op : Nat) (cause : Byte) | getReply (op ofs : Nat) (data : List Byte) (last : Bool)
  -- fabric; port 0 N, 1 E, 2 S, 3 W
  | flitReceive (isl port : Nat) (f : Flit) | repeatRequest (isl port seq : Nat) | linkAcknowledgement (isl port seq : Nat)
  | resendTimeout (isl port seq : Nat) | linkDown (isl port : Nat) | linkUp (isl port : Nat)
  | operationTimeout (isl n : Nat) | creditReturn (isl dst cls : Nat) | steerWindow (isl : Nat)
  | quadratureAlarm (isl colour : Nat) (phase : BitVec 8) | colourRecover (isl colour : Nat) | circuitRetry (isl task : Nat)
  | uePacketReceive (isl ep : Nat) (p : UePacket) | uePacketAbandon (op : Nat)
  | steeringMessage (isl port : Nat) (m : SteerMsg)
  -- attestation, without an argument
  | getVersion | getCapabilities | negotiateAlgorithms | getDigests
  deriving DecidableEq, Repr

end Sys2Proof
end

