-- ==== Sys2Proof/Machine/Encoding.lean ====
section
/-! DEFINITION. The encoding tables of the spec: the space of every operand position and the fields each code admits
(R219-R222, R232-R239 and the tables of the instruction chapters). -/

namespace Sys2Proof

/-- The spaces of R219, with the variants the instruction tables name. -/
inductive Space
  | none      -- unused: zero
  | vec       -- vector only
  | vu        -- vector, or uniform when its U bit is 1
  | uni       -- uniform, U bit reserved
  | uniB      -- uniform, U bit must be 1
  | uniAny    -- uniform, U bit not fixed by the text (DEDUCED, unsafe: log 7)
  | sdst      -- scalar destination
  | sreg      -- a scalar register (block) that is read
  | pred      -- predicate
  | tile      -- accumulator tile
  | num       -- a plain number up to `max`
  deriving DecidableEq, Repr

/-- One operand position: its space, how many registers it names and their alignment, which uniform forms it
admits, whether v255 may stand for a discarded block (R288, R291, log 8), and the largest code of a number. -/
structure Fld where
  sp : Space
  n : Nat := 1
  al : Nat := 1
  lit : Bool := true
  wk : Bool := true
  imm : Bool := true
  zr : Bool := false
  max : Nat := 255
  deriving DecidableEq, Repr

/-- Element width in bits of a type (R166, R169, R171, R172). -/
def Ty.width : Ty → Nat
  | .s8 | .n8 | .q8 | .e4m3 | .e5m2 => 8
  | .s16 | .n16 | .f16 | .bf16 => 16
  | .s32 | .n32 | .b32 | .f32 => 32
  | .s64 | .n64 | .b64 => 64
  | .i4 | .q4 | .e2m1 => 4
  | .e3m2 | .e2m3 => 6
  | .fx128 => 128

/-- The code of a type (R221). -/
def Ty.code : Ty → BitVec 5
  | .s8 => 0 | .s16 => 1 | .s32 => 2 | .s64 => 3 | .n8 => 4 | .n16 => 5 | .n32 => 6 | .n64 => 7 | .b32 => 8
  | .b64 => 9 | .i4 => 10 | .q4 => 11 | .q8 => 12 | .fx128 => 13 | .f32 => 16 | .f16 => 17 | .bf16 => 18
  | .e4m3 => 19 | .e5m2 => 20 | .e3m2 => 21 | .e2m3 => 22 | .e2m1 => 23

/-- The type of a code; 14, 15 and 24 to 31 are reserved (R221). -/
def Ty.ofCode (c : BitVec 5) : Option Ty :=
  match c.toNat with
  | 0 => some .s8 | 1 => some .s16 | 2 => some .s32 | 3 => some .s64 | 4 => some .n8 | 5 => some .n16
  | 6 => some .n32 | 7 => some .n64 | 8 => some .b32 | 9 => some .b64 | 10 => some .i4 | 11 => some .q4
  | 12 => some .q8 | 13 => some .fx128 | 16 => some .f32 | 17 => some .f16 | 18 => some .bf16
  | 19 => some .e4m3 | 20 => some .e5m2 | 21 => some .e3m2 | 22 => some .e2m3 | 23 => some .e2m1
  | _ => none

/-- A 64-bit type names a pair (R243, R265). -/
def Ty.regs (t : Ty) : Nat := if t.width = 64 then 2 else if t.width = 128 then 4 else 1

def Ty.isInt : Ty → Bool
  | .s8 | .s16 | .s32 | .s64 | .n8 | .n16 | .n32 | .n64 | .b32 | .b64 | .i4 => true
  | _ => false

def Ty.isFloat : Ty → Bool
  | .f32 | .f16 | .bf16 | .e4m3 | .e5m2 | .e3m2 | .e2m3 | .e2m1 => true
  | _ => false

def Ty.isFl : Ty → Bool
  | .f32 | .f16 | .bf16 => true
  | _ => false

def Ty.isGroup : Ty → Bool
  | .fx128 | .q4 | .q8 => true
  | _ => false

/-! The SUB field's named parts (R236, R237, R280). -/

def RI.subN (x : RI) : Nat := x.sub.toNat
/-- `.sat` of the integer classes (R236). -/
def RI.sat (x : RI) : Bool := x.sub.getLsbD 0
/-- RND, OVF, FTZ and STY of the floating-point class (R237). -/
def RI.rnd (x : RI) : Nat := (x.sub.extractLsb' 0 3).toNat
def RI.ovf (x : RI) : Nat := (x.sub.extractLsb' 3 2).toNat
def RI.ftz (x : RI) : Bool := x.sub.getLsbD 5
def styOf (sub : BitVec 11) : Option Ty := Ty.ofCode (sub.extractLsb' 6 5)
def RI.sty (x : RI) : Ty := (styOf x.sub).getD .s8
/-- COND of FCMP (R237) and of SCMP and VCMP (R236). -/
def RI.fcond (x : RI) : Nat := (x.sub.extractLsb' 6 4).toNat
def RI.cond (x : RI) : Nat := (x.sub.extractLsb' 0 4).toNat

namespace Fld
def z : Fld := { sp := .none }
def v (n : Nat := 1) : Fld := { sp := .vec, n := n, al := if n ≥ 8 then 8 else n }
def vu (n : Nat := 1) : Fld := { sp := .vu, n := n, al := if n ≥ 8 then 8 else n }
def u (n : Nat := 1) : Fld := { sp := .uni, n := n, al := n }
def ub (n : Nat := 1) : Fld := { sp := .uniB, n := n, al := n }
def sd (n : Nat := 1) : Fld := { sp := .sdst, n := n, al := n }
def p : Fld := { sp := .pred }
end Fld

/-- The positions of a format R word, and whether LIT may or must be 1. -/
structure RShape where
  d : Fld := Fld.z
  a : Fld := Fld.z
  b : Fld := Fld.z
  c : Fld := Fld.z
  litMay : Bool := true
  litMust : Bool := false
  deriving DecidableEq, Repr

/-- `some` when the check of a field holds. -/
def need (b : Bool) (x : RShape) : Option RShape := if b then some x else none

def Ty.isSN (t : Ty) : Bool := t = .s32 || t = .n32
def Ty.isSN64 (t : Ty) : Bool := t = .s32 || t = .n32 || t = .s64 || t = .n64
def Ty.isB (t : Ty) : Bool := t = .b32 || t = .b64

/-- The overflow selectors R177 admits for a result type, as OVF codes (R237). -/
def ovfOk (t : Ty) (ovf : Nat) : Bool :=
  match t with
  | .f32 | .f16 | .bf16 => ovf ≤ 1
  | .e5m2 => ovf = 0 || ovf = 2 || ovf = 3
  | .e4m3 => ovf = 0 || ovf = 2
  | _ => ovf = 0

/-- RND, OVF and FTZ of a conversion from `st` to `dt` (R237, R275). -/
def cvtSubOk (dt st : Ty) (sub : BitVec 11) : Bool :=
  let rnd := (sub.extractLsb' 0 3).toNat
  let ovf := (sub.extractLsb' 3 2).toNat
  (rnd ≤ 3 || (rnd = 4 && dt.width ≤ 16 && dt ≠ .fx128)) && ovfOk dt ovf
    && !(rnd ≠ 0 && dt.isInt && st.isInt) && (!sub.getLsbD 5 || dt.isFl || st.isFl)

/-- RND 0-3, OVF 0-1, FTZ, no STY (R267). -/
def flSubOk (rmax omax : Nat) (sub : BitVec 11) : Bool :=
  (sub.extractLsb' 0 3).toNat ≤ rmax && (sub.extractLsb' 3 2).toNat ≤ omax && (sub.extractLsb' 6 5).toNat = 0

/-- Types by operation of REDX and SCANX (R280). -/
def redTyOk (op : Nat) (t : Ty) : Bool :=
  if op < 3 then t.isSN64 || t = .f32 else op ≤ 5 && t.isB

/-- Registers of a CVTB result without its scale (R277). -/
def cvtbRegs (dt : Ty) (ctl : Nat) : Nat := dt.width * (if ctl % 2 = 1 then 32 else 16) / 32

/-- The index of a barrier is below the count of its level (R239). -/
def barSubOk (sub : BitVec 11) : Bool :=
  let idx := (sub.extractLsb' 2 4).toNat
  (sub.extractLsb' 6 5).toNat = 0 &&
    (match (sub.extractLsb' 0 2).toNat with | 0 => idx < 2 | 1 => idx < 16 | 2 => idx < 8 | _ => idx < 4)

/-- The shape of a format R word by its major code, type and SUB, on a core or on a Pilot; none when check 5 fails
on the type or SUB (R243, R251-R260, R265, R267, R274-R280, R297, R306, R307, R314, R324, R333-R346). `c` is the raw C
field, which gives the control code of CVTB and the position of PACK and UNPK. -/
def rShape (op : Nat) (pilot : Bool) (t : Ty) (sub : BitVec 11) (c : BitVec 8) : Option RShape :=
  let sn := sub.toNat
  let nt := t = .s8      -- no type: code 0
  let r := t.regs
  match op with
  | 0x00 | 0x01 => need (t.isSN && sn ≤ 1) { d := .sd, a := .u, b := .u }
  | 0x02 | 0x03 | 0x05 | 0x06 | 0x0F | 0x10 | 0x17 => need (t.isSN && sn = 0) { d := .sd, a := .u, b := .u }
  | 0x04 => need (t.isSN && sn ≤ 1) { d := .sd, a := .u, b := .u, c := .u }
  | 0x07 | 0x08 | 0x09 | 0x0A | 0x0B | 0x0C | 0x0D | 0x0E => need (t = .b32 && sn = 0) { d := .sd, a := .u, b := .u }
  | 0x11 => need (t.isB && sn = 0) { d := .sd r, a := .u r, b := .u r, c := .p }
  | 0x12 => need (t.isSN64 && sn ≤ 5) { d := .p, a := .u r, b := .u r }
  | 0x13 => need (t.isB && sn = 0) { d := .sd r, a := .u r }
  | 0x15 | 0x16 => need (t.isB && sn = 0) { d := .sd, a := .u r }
  | 0x18 => need (t = .b32 && sn = 0) { d := .sd, a := .u, b := .u, c := .u }
  | 0x19 | 0x1A => need (nt && sn = 0) { d := .sd 2, a := .u 2, b := .u 2 }
  | 0x1B => need (t.isSN && sn ≤ 31) { d := .sd 2, a := .u 2, b := .u }
  | 0x22 => need (nt && sn = 0) { a := .v, b := .u, c := { sp := .uni, wk := false, imm := false, max := 0 },
                                  litMust := true }
  | 0x25 => need (nt && sn = 0)
      { a := if pilot then { sp := .uniAny, n := 2, al := 2, lit := false, wk := false, imm := false }
             else { sp := .vu, n := 2, al := 2, lit := false }, litMay := false }
  | 0x26 => need (nt && sn = 0) { a := .vu }
  | 0x27 | 0x28 | 0xC7 | 0xF3 | 0xF4 => need (nt && sn = 0) { litMay := false }
  | 0x2A => need (nt && sn ≤ 7) { a := { sp := .uniAny, n := 2, al := 2, wk := false } }
  | 0x2B => let f := sn / 8 % 8
      need (nt && sn < 256 && f ≤ 3 && !(f = 0 && sn / 64 ≠ 0))
        { a := if f = 0 then { sp := .uniAny, n := 2, al := 2, wk := false } else { sp := .uniAny, wk := false } }
  | 0x2C => let f := sn / 8 % 8
      need (nt && sn < 256 && f ≤ 5 && ((1 ≤ f && f ≤ 3) || sn / 64 = 0)) { d := if f = 0 || f = 4 then .sd 2 else .sd }
  | 0x40 | 0x41 => need (t.isSN && sn ≤ 1) { d := .v, a := .vu, b := .vu }
  | 0x42 | 0x43 | 0x45 | 0x46 | 0x48 | 0x53 => need (t.isSN && sn = 0) { d := .v, a := .vu, b := .vu }
  | 0x44 => need (t.isSN && sn ≤ 1) { d := .v, a := .vu, b := .vu, c := .vu }
  | 0x47 => need (t = .s32 && sn = 0) { d := .v, a := .vu }
  | 0x49 | 0x4A | 0x4B | 0x4C => need (t.isB && sn = 0) { d := .v r, a := .vu r, b := .vu r }
  | 0x4D | 0x4E | 0x4F | 0x50 => need (t = .b32 && sn = 0) { d := .v, a := .vu, b := .vu }
  | 0x51 | 0x52 => need (t.isB && sn = 0) { d := .v, a := .vu r }
  | 0x54 => need (t = .b32 && sn = 0) { d := .v, a := .vu, b := .vu, c := .vu }
  | 0x55 => need (t.isB && sn = 0) { d := .v r, a := .vu r, b := .vu r, c := .p }
  | 0x56 => need (t.isSN64 && sn ≤ 5) { d := .p, a := .vu r, b := .vu r }
  | 0x57 => need (t.isB && sn = 0) { d := .v r, a := .vu r }
  | 0x59 => need ((t = .s8 || t = .n8) && sn ≤ 3) { d := .v, a := .vu, b := .vu, c := .vu }
  | 0x5A => need (nt && sn = 0) { d := .v 2, a := .vu 2, b := .vu 2 }
  | 0x5B => need (t.isSN && sn ≤ 31) { d := .v 2, a := .vu 2, b := .vu }
  | 0x60 | 0x61 | 0x62 | 0x71 => need (t.isFl && flSubOk 3 1 sub) { d := .v, a := .vu, b := .vu }
  | 0x63 => need (t.isFl && flSubOk 3 1 sub) { d := .v, a := .vu, b := .vu, c := .vu }
  | 0x64 | 0x65 => need (t.isFl && flSubOk 0 0 sub) { d := .v, a := .vu, b := .vu }
  | 0x66 => need (t = .f32 && (sub.extractLsb' 0 5).toNat = 0 && (sub.extractLsb' 6 5).toNat ≤ 7)
      { d := .p, a := .vu, b := .vu }
  | 0x67 | 0x68 | 0x69 | 0x6A | 0x6B | 0x6C | 0x6D | 0x6E => need (t.isFl && flSubOk 3 1 sub) { d := .v, a := .vu }
  | 0x6F => need (t.isFl && flSubOk 3 0 sub) { d := .v, a := .vu }
  | 0x70 => need (t.isFl && sn = 0) { d := .v, a := .vu }
  | 0x72 => match styOf sub with
      | none => none
      | some st => need (!(t.isGroup && st.isGroup) && cvtSubOk t st sub)
          { d := .v t.regs, a := if st.regs = 4 then .v 4 else .vu st.regs,
            b := if t.isGroup || st.isGroup then .vu else .z }
  | 0x73 => match styOf sub with
      | none => none
      | some st =>
        let n := cvtbRegs t c.toNat
        need (t.isFloat && !t.isFl && st.isFl && (sub.extractLsb' 0 3).toNat ≤ 4 && (sub.extractLsb' 3 2).toNat = 0
              && c.toNat ≤ 3 && !(st = .f32 && c.toNat % 2 = 1))
          { d := { sp := .vec, n := n + 1, al := if n = 8 then 8 else 4 },
            a := .v (if st = .f32 || c.toNat % 2 = 1 then 16 else 8), c := { sp := .num, max := 3 } }
  | 0x74 => match styOf sub with
      | none => none
      | some st => need (!t.isGroup && !st.isGroup && t.width ≤ 16 && st.width ≤ 32 && c.toNat + 1 < 32 / t.width
                         && cvtSubOk t st sub)
          { d := .v, a := .vu, b := .vu, c := { sp := .num } }
  | 0x75 => match styOf sub with
      | none => none
      | some st => need (!t.isGroup && !st.isGroup && st.width ≤ 16 && t.width ≤ 32 && c.toNat < 32 / st.width
                         && cvtSubOk t st sub)
          { d := .v, a := .vu, c := { sp := .num } }
  | 0x76 => match styOf sub with
      | none => none
      | some st => need (t = .f32 && (st = .f16 || st = .bf16) && (sub.extractLsb' 0 3).toNat ≤ 3
                         && (sub.extractLsb' 3 2).toNat ≤ 1)
          { d := .v, a := .vu, b := .vu, c := .vu }
  | 0x80 => need (t.isB && sn < 32 && sn / 4 ≤ 5) { d := .v r, a := .vu r, b := .vu, c := .p }
  | 0x81 => need (t.isB && sn < 256) { d := .v r, a := .vu r }
  | 0x82 => need (nt && sn < 16 && sn % 8 ≤ 4) { d := if sn % 8 < 3 then .p else .v, a := .p }
  | 0x83 => need (t.isB && sn = 0) { d := .v, a := .vu r }
  | 0x84 => need (nt && sn ≤ 1) { d := .p }
  | 0x85 => need (sn < 8 && redTyOk sn t) { d := .v r, a := .vu r }
  | 0x86 => need (sn < 16 && redTyOk (sn % 8) t) { d := .v r, a := .vu r }
  | 0x87 => need (nt && sn = 0) { d := .p }
  | 0x88 => need (nt && sn ≤ 3) { d := .v }
  | 0x90 | 0x91 | 0x92 | 0x93 | 0x94 => need (nt && barSubOk sub) { litMay := false }
  | 0x95 => need (nt && barSubOk sub) { d := .p, litMay := false }
  | 0xAA => need (nt && sn ≤ 3) { a := .ub, b := .ub }
  | 0xC5 => need (nt && 3 ≤ sn && sn ≤ 5) { a := .ub, b := .ub }
  | 0xC6 => need (nt && 3 ≤ sn && sn ≤ 5) { d := .p, a := .ub, b := .ub }
  | 0xD4 => need (nt && sn = 0)
      { d := { sp := .num, max := 7 }, a := { sp := .uniB, n := 4, al := 4, lit := false, wk := false, imm := false },
        litMay := false }
  | 0xD5 => need (nt && sn = 0) { a := .ub 2, b := .ub, litMay := false }
  | 0xE1 => need (nt && sn ≤ 1)
      { a := if sn = 1 then { sp := .uni, n := 2, al := 2, lit := false, imm := false } else .z, litMay := false }
  | 0xE5 => need (nt && sn ≤ 1) { d := .sd, c := if sn = 1 then .p else .z }
  | 0xE6 => need (nt && sn = 0) { d := .p, a := .u }
  | 0xF0 => need (nt && sn = 0) { d := { sp := .sreg, n := 8, al := 8 }, c := .p }
  | 0xF1 => need (nt && sn = 0) { d := { sp := .sreg, n := 8, al := 8 } }
  | 0xF2 => need (nt && sn ≤ 1) { d := .sd, a := .u 2, c := if sn = 1 then .p else .z }
  | _ => none

/-- The positions of a format E word (R302, R303, R315, R318-R320). The island block is a base register. -/
def eShape (op : Nat) (pilot : Bool) (fb : BitVec 3) (sub : BitVec 16) : Option RShape :=
  let sn := sub.toNat
  let blk : Fld := { sp := .sreg, n := 8, al := 8 }
  let base : Fld := { sp := .uni, n := 2, al := 2, lit := false, imm := false }
  let addr (u : Bool) : Fld := if u then base else .v 2
  let u32 : Fld := { sp := .uni, lit := false }
  let pathOk : Bool := sn / 16 % 4 ≤ 2
  match op with
  | 0xA2 => need (sn < 32 && sn / 4 ≤ 5 && (sn / 2 % 2 = 1 || sn / 4 = 0))
      { d := { sp := .vec, n := 16, al := 8 }, a := .v, b := { sp := .uni, n := 2, al := 2, lit := false }, c := u32 }
  | 0xC0 | 0xC1 | 0xC2 => need (fb = 0 && sn < 64 && sn / 4 % 4 = 0 && pathOk && (!pilot || sn % 4 = 3))
      { d := addr (sub.getLsbD 0), a := addr (sub.getLsbD 1), b := blk }
  | 0xC3 =>
      let rty := sn / 4 % 4
      let n := if rty = 1 then 2 else if rty = 3 then 4 else 1
      need (fb = 0 && sn < 64 && pathOk && (!pilot || sn % 4 = 3) && !(rty = 3 && sub.getLsbD 1))
        { d := addr (sub.getLsbD 0), b := blk,
          a := if sub.getLsbD 1 then { sp := .uni, n := n, al := n, lit := false, imm := false } else .v n }
  | 0xC4 => let sc := sn / 128
      need (fb = 0 && sn % 16 = 0 && pathOk && (if sn / 64 % 2 = 1 then 3 ≤ sc && sc ≤ 5 else sc = 0)) { b := blk }
  | 0xD0 => need (sn < 16)
      { d := { sp := .tile }, a := { sp := .vec, n := 16, al := 8 }, b := { sp := .vec, n := 16, al := 8 },
        c := if sub.getLsbD 2 then u32 else .z }
  | 0xD1 => need (fb = 0 && sn < 64) { d := { sp := .tile } }
  | 0xD2 =>
      if sn = 0 then need (fb = 0) { d := { sp := .tile }, a := .v 8 }
      else need (fb = 0 && sn % 4 = 1 && sn / 4 % 16 ≤ 4 && sn &&& 0xAFC0 = 0)
        { d := { sp := .tile }, a := base, b := u32, c := if sub.getLsbD 12 then .v else .z }
  | 0xD3 =>
      let dk := sn % 4; let dt := sn / 4 % 16; let rnd := sn / 64 % 8; let ovf := sn / 512 % 4
      let add := sub.getLsbD 11; let scat := sub.getLsbD 12; let skw := sub.getLsbD 14
      let dtOk := dt ≤ 5 || (8 ≤ dt && dt ≤ 10)
      let rndOk := if dt = 8 then rnd = 0 else rnd ≤ 3 || (rnd = 4 && 1 ≤ dt && dt ≤ 4)
      let ovfOkD := match dt with
        | 0 | 1 | 2 => ovf ≤ 1 | 3 => ovf = 0 || ovf = 2 | 4 => ovf ≠ 1 | _ => ovf = 0
      let ok := fb = 0 && dk ≤ 1 && dtOk && rndOk && ovfOkD && !sub.getLsbD 15
      if dk = 0 then
        let n := if dt = 0 || dt = 8 then 8 else if dt = 1 || dt = 2 || dt = 9 then 4 else 2
        need (ok && !add && !scat && !skw && dt ≠ 5) { d := { sp := .tile }, a := { sp := .vec, n := n, al := n } }
      else need (ok && (!add || dt = 0 || dt = 5 || dt = 8) && !(skw && add))
        { d := { sp := .tile }, a := base, b := u32, c := if scat then .v else .z }
  | _ => none

/-- The positions of a format M word: its D, A and X (R238, R285-R301). -/
structure MShape where
  d : Fld
  a : Fld
  x : Fld
  deriving DecidableEq, Repr

/-- The fields of a format M word that check 5 admits (R238 and the chapters it names). -/
def mShape (op : Nat) (pilot ak os : Bool) (wid : BitVec 3) (hint : BitVec 2) (sem : BitVec 2) (scope : BitVec 3)
    (skw : Bool) (sub : BitVec 3) : Option MShape :=
  let w := wid.toNat; let s := sub.toNat; let m := sem.toNat; let sc := scope.toNat
  let reg (n : Nat) : Fld := if pilot then { sp := .sreg, n := n, al := n } else .v n
  let n := if w = 3 then 2 else if w = 4 then 4 else 1
  let dst : Fld := if pilot then reg n else { sp := .vec, n := n, al := n, zr := true }
  let base : Fld := if ak then .v 2 else { sp := .uni, n := 2, al := 2, lit := false, imm := false }
  let idx : Fld := if os then { sp := .uni, lit := false } else .z
  let common := w ≤ 4 && sc ≤ 5 && (m ≠ 0 || sc = 0) && !(pilot && (ak || skw))
  let plain := common && w = 0 && m = 0 && hint = 0 && !skw
  let ok (b : Bool) (x : MShape) : Option MShape := if b then some x else none
  match op with
  | 0xA0 => ok (common && m ≤ 1 && (s = 0 || (s = 1 && w ≤ 1))) { d := dst, a := base, x := idx }
  | 0xA1 => ok (common && (m = 0 || m = 2) && s = 0) { d := reg n, a := base, x := idx }
  | 0xA3 => ok (common && !skw && os && (w = 2 || (w = 3 && s ≠ 1)))
      { d := dst, a := base,
        x := if s = 7 then (if pilot then { sp := .sreg, n := 2 * n, al := if n = 2 then 4 else 1 }
                            else { sp := .vec, n := 2 * n, al := if n = 2 then 4 else 1 }) else reg n }
  | 0xA4 => ok (common && !skw && os && (w = 2 || w = 3) && s ≤ 2) { d := dst, a := base, x := reg n }
  | 0xA5 => ok (common && !skw && (m = 0 || m = 2) && s ≤ 6
                && (if s = 6 then w = 4 else if s = 1 then w = 2 else w = 2 || w = 3)) { d := reg n, a := base, x := idx }
  | 0xA6 => ok (common && !skw && (m = 0 || m = 2) && s ≤ 2 && (w = 2 || w = 3)) { d := reg n, a := base, x := idx }
  | 0xA7 => ok (plain && s ≤ 1) { d := .z, a := base, x := idx }
  | 0xA8 => if s = 2 then ok (plain && !ak && !os) { d := .z, a := .z, x := .z }
            else ok (plain && s ≤ 1) { d := .z, a := base, x := idx }
  | 0xA9 => ok (common && w = 0 && hint = 0 && !skw && !ak && !os
                && (if s = 0 then m ≠ 0 else if s = 1 then m = 3 else s = 2 && m = 0 && sc = 0))
      { d := .z, a := .z, x := .z }
  | 0xAB | 0xAC => ok (plain && s = 0 && !pilot) { d := .v, a := base, x := idx }
  | 0xAD => ok (plain && s = 0 && !pilot) { d := .p, a := base, x := idx }
  | _ => none

/-- An operand of a position with its U bit, as R219 and R220 read the field code. `hasLit` says LIT = 1. -/
def Fld.dec (f : Fld) (u hasLit : Bool) (code : BitVec 8) : Option Opnd :=
  let n := code.toNat
  let vec : Option Opnd := 
    if (n % f.al = 0 && n + f.n ≤ (if f.al = 1 then 256 else 255)) || (f.zr && n = 255) then some (.v code) else none
  let uni : Option Opnd :=
    if n < 0x80 then
      if f.max ≠ 0 && n % f.al = 0 && n + f.n ≤ 128 then some (.s (code.extractLsb' 0 7)) else none
    else if n < 0x88 then if f.wk then some (.w (code.extractLsb' 0 3)) else none
    else if n = 0x90 then if f.lit && hasLit then some .lit else none
    else if 0xC0 ≤ n then if f.imm then some (.imm (code.extractLsb' 0 6)) else none
    else none
  match f.sp with
  | .none => if !u && code = 0 then some .none else none
  | .vec => if u then none else vec
  | .vu => if u then uni else vec
  | .uni => if u then none else uni
  | .uniB => if u then uni else none
  | .uniAny => uni
  | .sdst => if u then none else
      if n < 0x80 then if n % f.al = 0 && n + f.n ≤ 128 then some (.s (code.extractLsb' 0 7)) else none
      else if n = 0xFF then some .discard else none
  | .sreg => if u then none else
      if n < 0x80 && n % f.al = 0 && n + f.n ≤ 128 then some (.s (code.extractLsb' 0 7)) else none
  | .pred => if !u && n ≤ 7 then some (.p (code.extractLsb' 0 3)) else none
  | .tile => if !u && n ≤ 0x3F then some (.tile (code.extractLsb' 0 6)) else none
  | .num => if !u && n ≤ f.max then some (.num code) else none

/-- The field code of an operand (R219). -/
def Opnd.enc : Opnd → BitVec 8
  | .none => 0
  | .v n => n
  | .s n => n.setWidth 8
  | .w n => 0x80#8 ||| n.setWidth 8
  | .lit => 0x90
  | .imm i => 0xC0#8 ||| i.setWidth 8
  | .discard => 0xFF
  | .p n => n.setWidth 8
  | .tile n => n.setWidth 8
  | .num n => n

/-- The operand is one that its position reads back from its own code. -/
def Fld.ok (f : Fld) (u hasLit : Bool) (o : Opnd) : Bool := f.dec u hasLit o.enc = some o

/-- Per-lane system registers: laneid, fpte, faddr (R84, R224, R372). -/
def sysPerLane (i : Nat) : Bool := i = 0x000 || i = 0x068 || i = 0x093

/-- The indices that hold a system register (R34, R42, R84, R164, R173, R224, R347, R367, R372); the Pilot's own
registers exist on a Pilot only (R347). -/
def sysIndexOk (pilot : Bool) (i : Nat) : Bool :=
  i ≤ 0x004 || (0x010 ≤ i && i ≤ 0x013) || (0x040 ≤ i && i ≤ 0x045) || (0x048 ≤ i && i ≤ 0x04C)
    || (0x050 ≤ i && i ≤ 0x053) || (0x060 ≤ i && i ≤ 0x063) || i = 0x068 || (0x070 ≤ i && i ≤ 0x072)
    || i = 0x080 || i = 0x081 || (0x090 ≤ i && i ≤ 0x094) || (0x0C0 ≤ i && i ≤ 0x0C5)
    || (pilot && 0x100 ≤ i && i ≤ 0x103)

/-- The positions of a format I word (R243, R265, R337, R338, R340). -/
def iShape (op : Nat) (pilot : Bool) (imm : BitVec 32) (sub : BitVec 4) : Option (Fld × Fld) :=
  let s := sub.toNat; let i := imm.toNat
  match op with
  | 0x14 => if s ≤ 1 then some (.sd (s + 1), .z) else none
  | 0x58 => if s ≤ 1 then some (.v (s + 1), .z) else none
  | 0xE0 => if s = 0 && i < 64 then some (.z, .z) else none
  | 0xE4 => if s = 0 && i < 65536 then some (.z, .z) else none
  | 0xE2 =>
      let n := if sub.getLsbD 1 then 2 else 1
      if s < 4 && i < 1024 && sysIndexOk pilot i then
        if sub.getLsbD 0 then if pilot then none else some (.v n, .z)
        else if !pilot && sysPerLane i then none else some (.sd n, .z)
      else none
  | 0xE3 =>
      let n := if sub.getLsbD 1 then 2 else 1
      if (s = 0 || s = 2) && i < 1024 && sysIndexOk pilot i then
        some (.z, { sp := .uni, n := n, al := n, lit := false })
      else none
  | _ => none

/-- The fields of a format B word (R249, R250, R252, R253, R261). -/
def bOk (op : Nat) (pilot : Bool) (x : BI) : Bool :=
  match op with
  | 0x20 => x.join = 0 && x.x = 0
  | 0x21 => x.x = 0
  | 0x23 => x.x = 0 && x.guard = ⟨false, 7⟩
  | 0x24 => x.join = 0 && x.x.toNat % 2 = 0 && x.x.toNat ≤ (if pilot then 126 else 252)
  | 0x29 => x.join = 0 && x.x.toNat < 64
  | _ => false

/-- The five formats (R217). -/
inductive Fields
  | r (x : RI) | i (x : II) | m (x : MI) | b (x : BI) | e (x : EI)
  deriving DecidableEq, Repr

/-- Formats of the assigned codes (R232, R233); none for the 108 unassigned codes and for 0xFF. -/
inductive Fmt
  | r | i | m | b | e
  deriving DecidableEq, Repr

def fmtOf (op : Nat) : Option Fmt :=
  if op = 0x14 || op = 0x58 || op = 0xE0 || op = 0xE2 || op = 0xE3 || op = 0xE4 then some .i
  else if op = 0x20 || op = 0x21 || op = 0x23 || op = 0x24 || op = 0x29 then some .b
  else if op = 0xA2 || (0xC0 ≤ op && op ≤ 0xC4) || (0xD0 ≤ op && op ≤ 0xD3) then some .e
  else if op = 0xAA then some .r
  else if 0xA0 ≤ op && op ≤ 0xAD then some .m
  else if op ≤ 0x1B || (0x22 ≤ op && op ≤ 0x2C) || (0x40 ≤ op && op ≤ 0x5B) || (0x60 ≤ op && op ≤ 0x76)
    || (0x80 ≤ op && op ≤ 0x88) || (0x90 ≤ op && op ≤ 0x95) || (0xC5 ≤ op && op ≤ 0xC7) || op = 0xD4 || op = 0xD5
    || op = 0xE1 || op = 0xE5 || op = 0xE6 || (0xF0 ≤ op && op ≤ 0xF4) then some .r
  else none

/-- The codes a Pilot executes, and those only a Pilot executes (R234). -/
def pilotMay (op : Nat) : Bool :=
  op ≤ 0x1B || op = 0x20 || op = 0x24 || op = 0x25 || (0x27 ≤ op && op ≤ 0x2C) || op = 0xA0 || op = 0xA1
    || (0xA3 ≤ op && op ≤ 0xA9) || (0xC0 ≤ op && op ≤ 0xC7) || (0xE0 ≤ op && op ≤ 0xE6) || (0xF0 ≤ op && op ≤ 0xF4)
def pilotOnly (op : Nat) : Bool := 0xF0 ≤ op && op ≤ 0xF4

/-- The walkers an instruction names; naming two different ones is illegal (R209). -/
def oneWalker (os : List Opnd) : Option (BitVec 3) := os.findSome? fun o => match o with | .w n => some n | _ => none
def walkersOk (os : List Opnd) : Bool :=
  os.all fun o => match o with | .w n => oneWalker os = some n | _ => true

end Sys2Proof
end

