-- ==== Sys2Proof/Machine/Opcodes.lean ====
section
/-! DEFINITION. The major code of every instruction (R232, R233), and the instruction of every code. -/

namespace Sys2Proof

/-- The major code and the fields of an instruction word; none for an event, a command and the clause header. -/
def Instr.parts : Instr → Option (BitVec 8 × Fields)
  | .sadd x => some (0x00#8, .r x)
  | .ssub x => some (0x01#8, .r x)
  | .smul x => some (0x02#8, .r x)
  | .smulh x => some (0x03#8, .r x)
  | .smad x => some (0x04#8, .r x)
  | .sdiv x => some (0x05#8, .r x)
  | .srem x => some (0x06#8, .r x)
  | .sand x => some (0x07#8, .r x)
  | .sor x => some (0x08#8, .r x)
  | .sxor x => some (0x09#8, .r x)
  | .sandn x => some (0x0A#8, .r x)
  | .sshl x => some (0x0B#8, .r x)
  | .sshr x => some (0x0C#8, .r x)
  | .ssar x => some (0x0D#8, .r x)
  | .srot x => some (0x0E#8, .r x)
  | .smin x => some (0x0F#8, .r x)
  | .smax x => some (0x10#8, .r x)
  | .ssel x => some (0x11#8, .r x)
  | .scmp x => some (0x12#8, .r x)
  | .smov x => some (0x13#8, .r x)
  | .sli x => some (0x14#8, .i x)
  | .spopc x => some (0x15#8, .r x)
  | .sclz x => some (0x16#8, .r x)
  | .sbfe x => some (0x17#8, .r x)
  | .sbfi x => some (0x18#8, .r x)
  | .sadd64 x => some (0x19#8, .r x)
  | .ssub64 x => some (0x1A#8, .r x)
  | .slea x => some (0x1B#8, .r x)
  | .bra x => some (0x20#8, .b x)
  | .brx x => some (0x21#8, .b x)
  | .bri x => some (0x22#8, .r x)
  | .join x => some (0x23#8, .b x)
  | .call x => some (0x24#8, .b x)
  | .ret x => some (0x25#8, .r x)
  | .exit x => some (0x26#8, .r x)
  | .yield x => some (0x27#8, .r x)
  | .nop x => some (0x28#8, .r x)
  | .brw x => some (0x29#8, .b x)
  | .wbind x => some (0x2A#8, .r x)
  | .wset x => some (0x2B#8, .r x)
  | .wget x => some (0x2C#8, .r x)
  | .vadd x => some (0x40#8, .r x)
  | .vsub x => some (0x41#8, .r x)
  | .vmul x => some (0x42#8, .r x)
  | .vmulh x => some (0x43#8, .r x)
  | .vmad x => some (0x44#8, .r x)
  | .vmin x => some (0x45#8, .r x)
  | .vmax x => some (0x46#8, .r x)
  | .vabs x => some (0x47#8, .r x)
  | .vabsd x => some (0x48#8, .r x)
  | .vand x => some (0x49#8, .r x)
  | .vor x => some (0x4A#8, .r x)
  | .vxor x => some (0x4B#8, .r x)
  | .vandn x => some (0x4C#8, .r x)
  | .vshl x => some (0x4D#8, .r x)
  | .vshr x => some (0x4E#8, .r x)
  | .vsar x => some (0x4F#8, .r x)
  | .vrot x => some (0x50#8, .r x)
  | .vpopc x => some (0x51#8, .r x)
  | .vclz x => some (0x52#8, .r x)
  | .vbfe x => some (0x53#8, .r x)
  | .vbfi x => some (0x54#8, .r x)
  | .vsel x => some (0x55#8, .r x)
  | .vcmp x => some (0x56#8, .r x)
  | .vmov x => some (0x57#8, .r x)
  | .vli x => some (0x58#8, .i x)
  | .vdot4 x => some (0x59#8, .r x)
  | .vadd64 x => some (0x5A#8, .r x)
  | .vlea x => some (0x5B#8, .r x)
  | .fadd x => some (0x60#8, .r x)
  | .fsub x => some (0x61#8, .r x)
  | .fmul x => some (0x62#8, .r x)
  | .ffma x => some (0x63#8, .r x)
  | .fmin x => some (0x64#8, .r x)
  | .fmax x => some (0x65#8, .r x)
  | .fcmp x => some (0x66#8, .r x)
  | .frcp x => some (0x67#8, .r x)
  | .frsq x => some (0x68#8, .r x)
  | .fsqrt x => some (0x69#8, .r x)
  | .fexp2 x => some (0x6A#8, .r x)
  | .flog2 x => some (0x6B#8, .r x)
  | .fsin x => some (0x6C#8, .r x)
  | .fcos x => some (0x6D#8, .r x)
  | .ftanh x => some (0x6E#8, .r x)
  | .frnd x => some (0x6F#8, .r x)
  | .fclass x => some (0x70#8, .r x)
  | .fscale x => some (0x71#8, .r x)
  | .cvt x => some (0x72#8, .r x)
  | .cvtb x => some (0x73#8, .r x)
  | .pack x => some (0x74#8, .r x)
  | .unpk x => some (0x75#8, .r x)
  | .fdot2 x => some (0x76#8, .r x)
  | .shfl x => some (0x80#8, .r x)
  | .qswz x => some (0x81#8, .r x)
  | .vote x => some (0x82#8, .r x)
  | .matchEq x => some (0x83#8, .r x)
  | .elect x => some (0x84#8, .r x)
  | .redx x => some (0x85#8, .r x)
  | .scanx x => some (0x86#8, .r x)
  | .help x => some (0x87#8, .r x)
  | .mask x => some (0x88#8, .r x)
  | .bara x => some (0x90#8, .r x)
  | .barw x => some (0x91#8, .r x)
  | .bars x => some (0x92#8, .r x)
  | .bard x => some (0x93#8, .r x)
  | .barj x => some (0x94#8, .r x)
  | .bart x => some (0x95#8, .r x)
  | .ld x => some (0xA0#8, .m x)
  | .st x => some (0xA1#8, .m x)
  | .ldf x => some (0xA2#8, .e x)
  | .atomArith x => some (0xA3#8, .m x)
  | .atomBitwise x => some (0xA4#8, .m x)
  | .redArith x => some (0xA5#8, .m x)
  | .redBitwise x => some (0xA6#8, .m x)
  | .pref x => some (0xA7#8, .m x)
  | .cctl x => some (0xA8#8, .m x)
  | .fence x => some (0xA9#8, .m x)
  | .twin x => some (0xAA#8, .r x)
  | .setc x => some (0xAB#8, .m x)
  | .waitc x => some (0xAC#8, .m x)
  | .testc x => some (0xAD#8, .m x)
  | .put x => some (0xC0#8, .e x)
  | .puts x => some (0xC1#8, .e x)
  | .get x => some (0xC2#8, .e x)
  | .radd x => some (0xC3#8, .e x)
  | .notify x => some (0xC4#8, .e x)
  | .waitn x => some (0xC5#8, .r x)
  | .testn x => some (0xC6#8, .r x)
  | .rfence x => some (0xC7#8, .r x)
  | .mma x => some (0xD0#8, .e x)
  | .aclr x => some (0xD1#8, .e x)
  | .ald x => some (0xD2#8, .e x)
  | .adrn x => some (0xD3#8, .e x)
  | .setfb x => some (0xD4#8, .r x)
  | .kick x => some (0xD5#8, .r x)
  | .trap x => some (0xE0#8, .i x)
  | .rett x => some (0xE1#8, .r x)
  | .sysrd x => some (0xE2#8, .i x)
  | .syswr x => some (0xE3#8, .i x)
  | .bkpt x => some (0xE4#8, .i x)
  | .poolpop x => some (0xE5#8, .r x)
  | .poolpush x => some (0xE6#8, .r x)
  | .evpop x => some (0xF0#8, .r x)
  | .evwait x => some (0xF1#8, .r x)
  | .tlaunch x => some (0xF2#8, .r x)
  | .halt x => some (0xF3#8, .r x)
  | .idle x => some (0xF4#8, .r x)
  | _ => none

/-- The instruction of a format R code. -/
def Instr.buildR (op : Nat) (x : RI) : Option Instr :=
  match op with
  | 0x00 => some (.sadd x)
  | 0x01 => some (.ssub x)
  | 0x02 => some (.smul x)
  | 0x03 => some (.smulh x)
  | 0x04 => some (.smad x)
  | 0x05 => some (.sdiv x)
  | 0x06 => some (.srem x)
  | 0x07 => some (.sand x)
  | 0x08 => some (.sor x)
  | 0x09 => some (.sxor x)
  | 0x0A => some (.sandn x)
  | 0x0B => some (.sshl x)
  | 0x0C => some (.sshr x)
  | 0x0D => some (.ssar x)
  | 0x0E => some (.srot x)
  | 0x0F => some (.smin x)
  | 0x10 => some (.smax x)
  | 0x11 => some (.ssel x)
  | 0x12 => some (.scmp x)
  | 0x13 => some (.smov x)
  | 0x15 => some (.spopc x)
  | 0x16 => some (.sclz x)
  | 0x17 => some (.sbfe x)
  | 0x18 => some (.sbfi x)
  | 0x19 => some (.sadd64 x)
  | 0x1A => some (.ssub64 x)
  | 0x1B => some (.slea x)
  | 0x22 => some (.bri x)
  | 0x25 => some (.ret x)
  | 0x26 => some (.exit x)
  | 0x27 => some (.yield x)
  | 0x28 => some (.nop x)
  | 0x2A => some (.wbind x)
  | 0x2B => some (.wset x)
  | 0x2C => some (.wget x)
  | 0x40 => some (.vadd x)
  | 0x41 => some (.vsub x)
  | 0x42 => some (.vmul x)
  | 0x43 => some (.vmulh x)
  | 0x44 => some (.vmad x)
  | 0x45 => some (.vmin x)
  | 0x46 => some (.vmax x)
  | 0x47 => some (.vabs x)
  | 0x48 => some (.vabsd x)
  | 0x49 => some (.vand x)
  | 0x4A => some (.vor x)
  | 0x4B => some (.vxor x)
  | 0x4C => some (.vandn x)
  | 0x4D => some (.vshl x)
  | 0x4E => some (.vshr x)
  | 0x4F => some (.vsar x)
  | 0x50 => some (.vrot x)
  | 0x51 => some (.vpopc x)
  | 0x52 => some (.vclz x)
  | 0x53 => some (.vbfe x)
  | 0x54 => some (.vbfi x)
  | 0x55 => some (.vsel x)
  | 0x56 => some (.vcmp x)
  | 0x57 => some (.vmov x)
  | 0x59 => some (.vdot4 x)
  | 0x5A => some (.vadd64 x)
  | 0x5B => some (.vlea x)
  | 0x60 => some (.fadd x)
  | 0x61 => some (.fsub x)
  | 0x62 => some (.fmul x)
  | 0x63 => some (.ffma x)
  | 0x64 => some (.fmin x)
  | 0x65 => some (.fmax x)
  | 0x66 => some (.fcmp x)
  | 0x67 => some (.frcp x)
  | 0x68 => some (.frsq x)
  | 0x69 => some (.fsqrt x)
  | 0x6A => some (.fexp2 x)
  | 0x6B => some (.flog2 x)
  | 0x6C => some (.fsin x)
  | 0x6D => some (.fcos x)
  | 0x6E => some (.ftanh x)
  | 0x6F => some (.frnd x)
  | 0x70 => some (.fclass x)
  | 0x71 => some (.fscale x)
  | 0x72 => some (.cvt x)
  | 0x73 => some (.cvtb x)
  | 0x74 => some (.pack x)
  | 0x75 => some (.unpk x)
  | 0x76 => some (.fdot2 x)
  | 0x80 => some (.shfl x)
  | 0x81 => some (.qswz x)
  | 0x82 => some (.vote x)
  | 0x83 => some (.matchEq x)
  | 0x84 => some (.elect x)
  | 0x85 => some (.redx x)
  | 0x86 => some (.scanx x)
  | 0x87 => some (.help x)
  | 0x88 => some (.mask x)
  | 0x90 => some (.bara x)
  | 0x91 => some (.barw x)
  | 0x92 => some (.bars x)
  | 0x93 => some (.bard x)
  | 0x94 => some (.barj x)
  | 0x95 => some (.bart x)
  | 0xAA => some (.twin x)
  | 0xC5 => some (.waitn x)
  | 0xC6 => some (.testn x)
  | 0xC7 => some (.rfence x)
  | 0xD4 => some (.setfb x)
  | 0xD5 => some (.kick x)
  | 0xE1 => some (.rett x)
  | 0xE5 => some (.poolpop x)
  | 0xE6 => some (.poolpush x)
  | 0xF0 => some (.evpop x)
  | 0xF1 => some (.evwait x)
  | 0xF2 => some (.tlaunch x)
  | 0xF3 => some (.halt x)
  | 0xF4 => some (.idle x)
  | _ => none

/-- The instruction of a format I code. -/
def Instr.buildI (op : Nat) (x : II) : Option Instr :=
  match op with
  | 0x14 => some (.sli x)
  | 0x58 => some (.vli x)
  | 0xE0 => some (.trap x)
  | 0xE2 => some (.sysrd x)
  | 0xE3 => some (.syswr x)
  | 0xE4 => some (.bkpt x)
  | _ => none

/-- The instruction of a format M code. -/
def Instr.buildM (op : Nat) (x : MI) : Option Instr :=
  match op with
  | 0xA0 => some (.ld x)
  | 0xA1 => some (.st x)
  | 0xA3 => some (.atomArith x)
  | 0xA4 => some (.atomBitwise x)
  | 0xA5 => some (.redArith x)
  | 0xA6 => some (.redBitwise x)
  | 0xA7 => some (.pref x)
  | 0xA8 => some (.cctl x)
  | 0xA9 => some (.fence x)
  | 0xAB => some (.setc x)
  | 0xAC => some (.waitc x)
  | 0xAD => some (.testc x)
  | _ => none

/-- The instruction of a format B code. -/
def Instr.buildB (op : Nat) (x : BI) : Option Instr :=
  match op with
  | 0x20 => some (.bra x)
  | 0x21 => some (.brx x)
  | 0x23 => some (.join x)
  | 0x24 => some (.call x)
  | 0x29 => some (.brw x)
  | _ => none

/-- The instruction of a format E code. -/
def Instr.buildE (op : Nat) (x : EI) : Option Instr :=
  match op with
  | 0xA2 => some (.ldf x)
  | 0xC0 => some (.put x)
  | 0xC1 => some (.puts x)
  | 0xC2 => some (.get x)
  | 0xC3 => some (.radd x)
  | 0xC4 => some (.notify x)
  | 0xD0 => some (.mma x)
  | 0xD1 => some (.aclr x)
  | 0xD2 => some (.ald x)
  | 0xD3 => some (.adrn x)
  | _ => none

/-- The instruction of a major code and its fields (R232). -/
def Instr.build (op : Nat) (f : Fields) : Option Instr :=
  match f with
  | .r x => Instr.buildR op x
  | .i x => Instr.buildI op x
  | .m x => Instr.buildM op x
  | .b x => Instr.buildB op x
  | .e x => Instr.buildE op x

end Sys2Proof
end

