-- ==== Sys2Proof/WellFormed.lean ====
section
/-! DEFINITION. Which instructions are well formed: every field admitted by the encoding tables. -/

namespace Sys2Proof

/-- Format R: every operand in its space, LIT as the instruction admits it, at most one walker (R219-R222). -/
def RI.wf (op : Nat) (pilot : Bool) (x : RI) : Bool :=
  match rShape op pilot x.ty x.sub x.c.enc with
  | none => false
  | some sh =>
    let l := x.lit.isSome
    sh.d.ok false l x.d && sh.a.ok (x.u.getLsbD 0) l x.a && sh.b.ok (x.u.getLsbD 1) l x.b
      && sh.c.ok (x.u.getLsbD 2) l x.c && (!l || sh.litMay) && (l || !sh.litMust) && walkersOk [x.a, x.b, x.c]
      && (op ≠ 0x22 || ((x.lit.getD 0).extractLsb' 52 12 = 0 && (x.lit.getD 0).extractLsb' 0 8 = 0))

/-- Format I. -/
def II.wf (op : Nat) (pilot : Bool) (x : II) : Bool :=
  match iShape op pilot x.imm x.sub with
  | none => false
  | some (d, a) => d.ok false false x.d && a.ok false false x.a

/-- Format M: with OS = 1 the offset is 12 bits sign-extended; FENCE and CCTL.ic have no address (R238, R296). -/
def MI.wf (op : Nat) (pilot : Bool) (x : MI) : Bool :=
  let ak := match x.a with | .v _ => true | _ => false
  match mShape op pilot ak x.os x.wid x.hint x.sem x.scope x.skw x.sub with
  | none => false
  | some sh =>
    sh.d.ok false false x.d && sh.a.ok false false x.a && sh.x.ok false false x.x
      && (!x.os || x.ofs = (x.ofs.extractLsb' 0 12).signExtend 20)
      && (sh.a.sp ≠ .none || x.ofs = 0) && walkersOk [x.a, x.x]

/-- Format E. -/
def EI.wf (op : Nat) (pilot : Bool) (x : EI) : Bool :=
  match eShape op pilot x.fb x.sub with
  | none => false
  | some sh =>
    sh.d.ok false false x.d && sh.a.ok false false x.a && sh.b.ok false false x.b && sh.c.ok false false x.c
      && walkersOk [x.d, x.a, x.b, x.c]

/-- The checks of a format, by the major code. -/
def Fields.wf (op : Nat) (pilot : Bool) : Fields → Bool
  | .r x => fmtOf op = some .r && x.wf op pilot
  | .i x => fmtOf op = some .i && x.wf op pilot
  | .m x => fmtOf op = some .m && x.wf op pilot
  | .b x => fmtOf op = some .b && bOk op pilot x
  | .e x => fmtOf op = some .e && x.wf op pilot

/-- A clause header names flags f0-f11 or none (R211). -/
def Header.wf (h : Header) : Bool :=
  (h.seta.toNat < 12 || h.seta = 15) && (h.setb.toNat < 12 || h.setb = 15)

/-- A well-formed instruction word for its unit (checks 3 to 5 of R231, but for the checks that need the crew's
allocation); events and commands have no word. -/
def Instr.wf (pilot : Bool) (i : Instr) : Bool :=
  match i with
  | .clauseHeader h => h.wf
  | _ =>
    match i.parts with
    | none => false
    | some (op, f) => (if pilot then pilotMay op.toNat else !pilotOnly op.toNat) && f.wf op.toNat pilot

end Sys2Proof
end

