-- ==== Sys2Proof/Decode.lean ====
section
/-! DEFINITION. Decoding of instruction words and clause headers (R211, R217-R222, R231-R240), and the encoder. -/

namespace Sys2Proof

/-- Why a word does not decode: the check of R231 that fails first. -/
inductive Reject
  | truncated       -- fewer bytes than the word or its literal needs
  | header          -- check 1: the header rules of R211
  | placement       -- check 2: a header word in instruction position (R216)
  | unassigned      -- check 3 (R233)
  | unit            -- check 4 (R234)
  | fields          -- check 5 (R219-R222, R236-R239)
  deriving DecidableEq, Repr

/-- Bits `lo` to `lo + n - 1` of a word. -/
abbrev bits (w : W64) (lo n : Nat) : BitVec n := w.extractLsb' lo n

def Reject.need (b : Bool) (r : Reject) : Except Reject Unit := if b then .ok () else .error r

/-- An operand of a position, or the failure of check 5. -/
def Fld.get (f : Fld) (u hasLit : Bool) (code : BitVec 8) : Except Reject Opnd :=
  match f.dec u hasLit code with
  | some o => .ok o
  | none => .error .fields

def guardOf (w : W64) : Guard := ⟨(bits w 55 1) = 1, bits w 52 3⟩

/-- Format R (R217, R221, R222). `lit` is the next word of the clause. -/
def decodeR (op : Nat) (pilot : Bool) (w lit : W64) : Except Reject RI :=
  match Ty.ofCode (bits w 11 1 ++ bits w 16 4) with
  | none => .error .fields
  | some ty =>
    let l : Bool := bits w 15 1 = 1
    let u : BitVec 3 := bits w 12 1 ++ bits w 13 1 ++ bits w 14 1
    match rShape op pilot ty (bits w 0 11) (bits w 20 8) with
    | none => .error .fields
    | some sh => do
      let d ← sh.d.get false l (bits w 44 8)
      let a ← sh.a.get (u.getLsbD 0) l (bits w 36 8)
      let b ← sh.b.get (u.getLsbD 1) l (bits w 28 8)
      let c ← sh.c.get (u.getLsbD 2) l (bits w 20 8)
      let x : RI := { guard := guardOf w, ty := ty, sub := bits w 0 11, u := u, lit := if l then some lit else none,
                      d := d, a := a, b := b, c := c }
      if x.wf op pilot then .ok x else .error .fields

/-- Format I. -/
def decodeI (op : Nat) (pilot : Bool) (w : W64) : Except Reject II :=
  match iShape op pilot (bits w 4 32) (bits w 0 4) with
  | none => .error .fields
  | some sh => do
    let d ← sh.1.get false false (bits w 44 8)
    let a ← sh.2.get false false (bits w 36 8)
    .ok { guard := guardOf w, d := d, a := a, imm := bits w 4 32, sub := bits w 0 4 }

/-- Format M: with OS = 1, [35:28] is the third operand and [27:16] a 12-bit signed offset. -/
def decodeM (op : Nat) (pilot : Bool) (w : W64) : Except Reject MI :=
  let ak : Bool := bits w 15 1 = 1
  let os : Bool := bits w 3 1 = 1
  match mShape op pilot ak os (bits w 12 3) (bits w 10 2) (bits w 8 2) (bits w 5 3) (bits w 4 1 = 1) (bits w 0 3) with
  | none => .error .fields
  | some sh => do
    let d ← sh.d.get false false (bits w 44 8)
    let a ← sh.a.get false false (bits w 36 8)
    let x ← if os then sh.x.get false false (bits w 28 8) else sh.x.get false false 0
    let y : MI := { guard := guardOf w, d := d, a := a, os := os, x := x,
                    ofs := if os then (bits w 16 12).signExtend 20 else bits w 16 20, wid := bits w 12 3,
                    hint := bits w 10 2, sem := bits w 8 2, scope := bits w 5 3, skw := bits w 4 1 = 1, sub := bits w 0 3 }
    if y.wf op pilot then .ok y else .error .fields

/-- Format B. -/
def decodeB (w : W64) : BI := { guard := guardOf w, tgt := bits w 28 24, join := bits w 8 20, x := bits w 0 8 }

/-- Format E; bit 19 is reserved. -/
def decodeE (op : Nat) (pilot : Bool) (w : W64) : Except Reject EI :=
  match eShape op pilot (bits w 16 3) (bits w 0 16) with
  | none => .error .fields
  | some sh => do
    Reject.need (bits w 19 1 = 0) .fields
    let d ← sh.d.get false false (bits w 44 8)
    let a ← sh.a.get false false (bits w 36 8)
    let b ← sh.b.get false false (bits w 28 8)
    let c ← sh.c.get false false (bits w 20 8)
    let x : EI := { guard := guardOf w, d := d, a := a, b := b, c := c, fb := bits w 16 3, sub := bits w 0 16 }
    if x.wf op pilot then .ok x else .error .fields

/-- The fields of a word in the format of its code. -/
def decodeFields (op : Nat) (pilot : Bool) (w lit : W64) : Fmt → Except Reject Fields
  | .r => (decodeR op pilot w lit).map .r
  | .i => (decodeI op pilot w).map .i
  | .m => (decodeM op pilot w).map .m
  | .b => if bOk op pilot (decodeB w) then .ok (.b (decodeB w)) else .error .fields
  | .e => (decodeE op pilot w).map .e

/-- The unit check of R234. -/
def unitOk (op : Nat) (pilot : Bool) : Bool := if pilot then pilotMay op else !pilotOnly op

/-- A word in instruction position with the word after it, on a core or on a Pilot: checks 2 to 5 of R231, but for the
allocation of registers, which the crew decides. -/
def decodeWord (pilot : Bool) (w lit : W64) : Except Reject Instr :=
  let op := (bits w 56 8).toNat
  if op = 0xFF then .error .placement
  else
    match fmtOf op with
    | none => .error .unassigned
    | some f =>
      if unitOk op pilot then
        match decodeFields op pilot w lit f with
        | .error r => .error r
        | .ok fs => match Instr.build op fs with
          | some i => .ok i
          | none => .error .unassigned
      else .error .unit

/-- A word in header position: check 1 (R211). -/
def decodeHeader (w : W64) : Except Reject Header :=
  let h : Header := { wait := bits w 44 12, seta := bits w 40 4, setb := bits w 36 4, len := bits w 33 3,
                      yield := bits w 32 1 = 1, hold := bits w 31 1 = 1 }
  if bits w 56 8 = 0xFF#8 ∧ bits w 0 31 = 0 ∧ h.wf then .ok h else .error .header

/-- The instruction consumes a literal word (R222). -/
def Instr.hasLit (i : Instr) : Bool :=
  match i.parts with
  | some (_, .r x) => x.lit.isSome
  | _ => false

/-- Words of a clause the instruction takes: one, or two with its literal. -/
def Instr.words (i : Instr) : Nat := if i.hasLit then 2 else 1

/-- The next 64-bit word, little-endian (R13). -/
def wordOf : List Byte → Option (W64 × List Byte)
  | b0 :: b1 :: b2 :: b3 :: b4 :: b5 :: b6 :: b7 :: r => some (b7 ++ b6 ++ b5 ++ b4 ++ b3 ++ b2 ++ b1 ++ b0, r)
  | _ => none

/-- The bytes of a word, lowest address first. -/
def bytesOf (w : W64) : List Byte :=
  [bits w 0 8, bits w 8 8, bits w 16 8, bits w 24 8, bits w 32 8, bits w 40 8, bits w 48 8, bits w 56 8]

/-- Decoding of bytes: a word that holds 0xFF in [63:56] stands in header position, any other in instruction position. -/
def decode (pilot : Bool) (bs : List Byte) : Except Reject (Instr × List Byte) :=
  match wordOf bs with
  | none => .error .truncated
  | some (w, rest) =>
    if bits w 56 8 = 0xFF#8 then
      match decodeHeader w with
      | .ok h => .ok (.clauseHeader h, rest)
      | .error r => .error r
    else
      match wordOf rest with
      | none =>
        match decodeWord pilot w 0 with
        | .ok i => if i.hasLit then .error .truncated else .ok (i, rest)
        | .error r => .error r
      | some (lit, rest') =>
        match decodeWord pilot w lit with
        | .ok i => .ok (i, if i.hasLit then rest' else rest)
        | .error r => .error r

/-! The encoder, from the same tables. -/

def Guard.enc (g : Guard) : BitVec 4 := BitVec.ofBool g.neg ++ g.pi

def encodeR (op : BitVec 8) (x : RI) : W64 :=
  op ++ x.guard.enc ++ x.d.enc ++ x.a.enc ++ x.b.enc ++ x.c.enc ++ x.ty.code.extractLsb' 0 4 ++ BitVec.ofBool x.lit.isSome
    ++ x.u.extractLsb' 0 1 ++ x.u.extractLsb' 1 1 ++ x.u.extractLsb' 2 1 ++ x.ty.code.extractLsb' 4 1 ++ x.sub

def encodeI (op : BitVec 8) (x : II) : W64 := op ++ x.guard.enc ++ x.d.enc ++ x.a.enc ++ x.imm ++ x.sub

/-- AK of format M: a vector pair is the per-lane base. -/
def MI.ak (x : MI) : Bool := match x.a with | .v _ => true | _ => false

def encodeM (op : BitVec 8) (x : MI) : W64 :=
  op ++ x.guard.enc ++ x.d.enc ++ x.a.enc ++ (if x.os then x.x.enc ++ x.ofs.extractLsb' 0 12 else x.ofs)
    ++ BitVec.ofBool x.ak ++ x.wid ++ x.hint ++ x.sem ++ x.scope ++ BitVec.ofBool x.skw ++ BitVec.ofBool x.os ++ x.sub

def encodeB (op : BitVec 8) (x : BI) : W64 := op ++ x.guard.enc ++ x.tgt ++ x.join ++ x.x

def encodeE (op : BitVec 8) (x : EI) : W64 :=
  op ++ x.guard.enc ++ x.d.enc ++ x.a.enc ++ x.b.enc ++ x.c.enc ++ 0#1 ++ x.fb ++ x.sub

def encodeHeader (h : Header) : W64 :=
  0xFF#8 ++ h.wait ++ h.seta ++ h.setb ++ h.len ++ BitVec.ofBool h.yield ++ BitVec.ofBool h.hold ++ 0#31

/-- The words of an instruction: one, or two when it consumes a literal; none for an event or a command. -/
def encodeWords (i : Instr) : List W64 :=
  match i with
  | .clauseHeader h => [encodeHeader h]
  | _ =>
    match i.parts with
    | none => []
    | some (op, .r x) => match x.lit with | some l => [encodeR op x, l] | none => [encodeR op x]
    | some (op, .i x) => [encodeI op x]
    | some (op, .m x) => [encodeM op x]
    | some (op, .b x) => [encodeB op x]
    | some (op, .e x) => [encodeE op x]

/-- The bytes of an instruction, in the order in which memory holds them. -/
def encode (i : Instr) : List Byte := (encodeWords i).flatMap bytesOf

/-- The bytes of a word numbered from its least significant bit, lowest address first. -/
def natBytes (w : Nat) : Nat → List Byte
  | 0 => []
  | k + 1 => BitVec.ofNat 8 w :: natBytes (w / 256) k

/-- The instruction the decoder reads from an instruction whose bits are `w`: on a core, or on a Pilot for the words that
only a Pilot executes. The longest instruction is 16 bytes (an instruction and its literal). -/
def decodeTableWord (nbits w : Nat) : Option Instr :=
  let bs := natBytes (w % 2 ^ max nbits 64) 16
  match decode false bs with
  | .ok (i, _) => some i
  | .error _ => match decode true bs with
    | .ok (i, _) => some i
    | .error _ => none

end Sys2Proof
end

