-- ==== Sys2Proof/Config.lean ====
section
/-! DEFINITION. What the spec leaves open, as opaque constants: nothing can evaluate them or prove a value of them. -/

namespace Sys2Proof.Config

/-- A free choice: which of several steps that the spec leaves unordered comes next, or which of two allowed
outcomes happens (R146, R242, R365 leave the choice open). Applied to the counter `State.choices`. -/
opaque freeChoice : Nat → Nat
/-- A free 64-bit value, for a register whose value the spec calls undefined (`sys.fpte`, R84). -/
opaque freeWord : Nat → BitVec 64
/-- Core clocks that pass at a step beyond the one the model counts (timing is not modelled). -/
opaque freeClocks : Nat → Nat
/-- The digest of a measured thing (R420): the spec gives what is measured, not the values. 0 to 4 are the images, 5 and above
the record of MODE, POP and HEALTHY. -/
opaque measurement : Nat → BitVec 512
/-- The KIND byte of a module event, by its sort: 0 fabric event, 1 draw over the share, 2 island stopped (R408 and R421 post
these events and give no kind). -/
opaque moduleKind : Nat → BitVec 8
/-- The ARG of a module event, by its sort and what it carries (the layout is not given). -/
opaque moduleArg : Nat → Nat → Nat → BitVec 64
/-- The detail word of a boot-log record (R419 names the field and not its content). -/
opaque bootDetail : Nat → BitVec 64

end Sys2Proof.Config
end

