-- ==== Sys2Proof/Machine/Tbl.lean ====
section
/-! DEFINITION. Sparse tables and byte memory: lists of pairs whose keys rise strictly. -/

namespace Sys2Proof

/-- The entry of a key. -/
def Tbl.find {α : Type} : Tbl α → Nat → Option α
  | [], _ => none
  | (k, v) :: t, j => if j = k then some v else Tbl.find t j

/-- The value of a key, `d` where none is listed. -/
def Tbl.get {α : Type} (d : α) : Tbl α → Nat → α
  | [], _ => d
  | (k, v) :: t, j => if j = k then v else Tbl.get d t j

/-- The table with one key's value replaced. -/
def Tbl.put {α : Type} : Tbl α → Nat → α → Tbl α
  | [], j, x => [(j, x)]
  | (k, v) :: t, j, x => if j < k then (j, x) :: (k, v) :: t else if j = k then (j, x) :: t else (k, v) :: Tbl.put t j x

/-- The table without one key. -/
def Tbl.del {α : Type} : Tbl α → Nat → Tbl α
  | [], _ => []
  | (k, v) :: t, j => if j = k then t else (k, v) :: Tbl.del t j

/-- The table with one key's value changed. -/
def Tbl.upd {α : Type} (d : α) (t : Tbl α) (k : Nat) (f : α → α) : Tbl α := t.put k (f (t.get d k))

/-- Keys rise strictly. -/
def Tbl.wf {α : Type} : Tbl α → Bool
  | [] => true
  | [_] => true
  | (j, _) :: (k, v) :: t => j < k && Tbl.wf ((k, v) :: t)

/-! Memory: a byte that nothing lists reads as zero (DESIGN CHOICE, unsafe: log 4). -/

namespace Memory

/-- A byte of memory. -/
def read : List Host.Cell → Nat → Byte
  | [], _ => 0
  | (k, v) :: t, a => if a = k then v else read t a

/-- Memory with one byte removed from the list, which then reads as zero. -/
def drop : List Host.Cell → Nat → List Host.Cell
  | [], _ => []
  | (k, v) :: t, a => if a < k then (k, v) :: t else if a = k then t else (k, v) :: drop t a

/-- Memory with one nonzero byte listed. -/
def list : List Host.Cell → Nat → Byte → List Host.Cell
  | [], a, b => [(a, b)]
  | (k, v) :: t, a, b => if a < k then (a, b) :: (k, v) :: t else if a = k then (a, b) :: t else (k, v) :: list t a b

/-- Memory with one byte written, in canonical form. -/
def write (m : List Host.Cell) (a : Nat) (b : Byte) : List Host.Cell := if b = 0 then drop m a else list m a b

/-- The keys rise strictly above a bound and no entry is zero. -/
def wfFrom (lo : Nat) : List Host.Cell → Bool
  | [] => true
  | (k, v) :: t => lo ≤ k && v ≠ 0 && wfFrom (k + 1) t

/-- The canonical form: strictly rising addresses, no entry equal to what an unlisted address reads as. -/
def wf (m : List Host.Cell) : Bool := wfFrom 0 m

/-- `n` bytes from an address, as a number, little-endian (R13). -/
def readN (m : List Host.Cell) (a : Nat) : Nat → Nat
  | 0 => 0
  | n + 1 => (read m a).toNat + 256 * readN m (a + 1) n

/-- `n` bytes of a number stored at an address, little-endian. -/
def writeN (m : List Host.Cell) (a v : Nat) : Nat → List Host.Cell
  | 0 => m
  | n + 1 => writeN (write m a (BitVec.ofNat 8 v)) (a + 1) (v / 256) n

/-- A list of bytes stored from an address. -/
def writeBytes (m : List Host.Cell) (a : Nat) : List Byte → List Host.Cell
  | [] => m
  | b :: bs => writeBytes (write m a b) (a + 1) bs

/-- Bytes stored at addresses of their own, in order. -/
def writeAll (m : List Host.Cell) : List Host.Cell → List Host.Cell
  | [] => m
  | c :: cs => writeAll (write m c.1 c.2) cs

/-- `n` bytes from an address. -/
def readBytes (m : List Host.Cell) (a : Nat) : Nat → List Byte
  | 0 => []
  | n + 1 => read m a :: readBytes m (a + 1) n

end Memory

end Sys2Proof
end

