-- ==== Sys2Proof/Machine/ExecState.lean ====
section
/-! DEFINITION. The state of execution: crews, fragments, joins, barriers, gangs, tiles and Pilots. -/

namespace Sys2Proof.Machine

open Sys2Proof

/-- One dimension of a walker (R208, R209). -/
structure WDim where
  count : BitVec 16 := 0
  stride : W32 := 0
  idx : BitVec 16 := 0
  e : Bool := false
  deriving DecidableEq, Repr

/-- A walker (R208). -/
structure Walker where
  base : W64 := 0
  d0 : WDim := {}
  d1 : WDim := {}
  d2 : WDim := {}
  d3 : WDim := {}
  deriving DecidableEq, Repr

/-- What a crew and a Pilot thread both hold: scalar registers (s112-s127 of supervisor mode as 240-255, R193),
q predicates, walkers and the handler registers. -/
structure Uni where
  sregs : Tbl W32 := []
  q : BitVec 7 := 0
  walkers : Tbl Walker := []
  rerr : W64 := 0
  rerra : W64 := 0
  fpc : W64 := 0
  fcause : W64 := 0
  fmask : W64 := 0
  deriving DecidableEq, Repr

/-- Where a stream of instructions stands: clause, position, mode, the header of the clause, the walker replay record
(R185, R210). `code` holds the words of the clause as they were fetched at its header; empty, they are fetched again (R33, R48). `past`: the
clause that would follow lies past the end of the virtual space, where `pc` has come round to 0 (R32; DESIGN CHOICE, unsafe: log 129). -/
structure Ctl where
  pc : BitVec 52 := 0
  past : Bool := false
  cpos : Nat := 0
  sup : Bool := false
  hdr : Header := ⟨0, 15, 15, 0, false, false⟩
  wrv : Option (BitVec 3 × W64) := none
  code : List W64 := []
  deriving DecidableEq, Repr

/-- A register as the scoreboard and the speculative window name it: v240-v254 and s112-s127 of supervisor mode have
numbers of their own. -/
inductive RegId
  | v (n : Nat) | s (n : Nat) | p (n : Nat) | q (n : Nat) | w (n : Nat) | astat
  deriving DecidableEq, Repr

/-- A lane fault (R369): cause, address, and the entry a translation met. -/
structure LFault where
  lane : Nat
  cause : Byte
  addr : Option W64 := none
  fpte : Option W64 := none
  deriving DecidableEq, Repr

/-- The access of a lane: the pieces of storage it touches, location, length and virtual address, in ascending order; or
a parked access, still to be translated (R78). -/
structure Acc where
  lane : Nat := 0
  va : W64 := 0
  locs : List (Nat × Nat × Nat) := []
  parked : Bool := false
  pseq : Nat := 0                 -- the order in which it was parked, and the address that met H = 1
  pva : Nat := 0
  ca : Nat := 0
  fault : Option LFault := none   -- parked, translated again, and met this fault, which is still to be taken (R78, R380)
  replay : Bool := false          -- reissued from a replay record and not yet performed, parked again or faulted (R380, R387)
  deriving DecidableEq, Repr

/-- A release that later writes wait for (R118, R120): its scope, its number, and whether it is a fence, which waits for source bytes of
island operations too (R123). -/
structure Rel where
  scope : Nat
  upto : Nat
  fence : Bool := false
  deriving DecidableEq, Repr

/-- Long-latency operations (R213), and stores and REDs of which lanes are parked (R78). -/
inductive LKind
  | ld (m : MI)
  | atom (bitwise : Bool) (m : MI)
  | ldf
  | st (m : MI)
  | red (bitwise : Bool) (m : MI)
  | mma | ald
  | adrn (x : EI)
  | pref (l2 : Bool)              -- lanes of a prefetch that are parked
  deriving DecidableEq, Repr

/-- A long-latency operation in flight: who issued it, the lanes and registers it will write, the registers it has yet
to read, and what is left to perform. -/
structure LOp where
  kind : LKind := .mma
  entry : Nat := 0
  owners : List Nat := []         -- entries of the fragments it comes before: its issuer's and those split or fused from it (R109)
  run : Nat := 0
  lanes : Mask := 0
  sup : Bool := false
  dests : List RegId := []
  srcs : List RegId := []
  accs : List Acc := []
  operands : List (Nat × Nat × Nat) := []     -- lane, operand, second operand of an atomic
  values : List (Nat × Nat × W32) := []       -- register, lane, value written at completion
  stat : BitVec 6 := 0
  ctl : Ctl := {}                             -- at its instruction
  after : Nat := 0                            -- accesses of its owners numbered up to here come first (R109)
  rel : List Rel := []                        -- releases that its writes wait for (R118, R120)
  deriving DecidableEq, Repr

/-- What a load has returned from its core's write buffer (R112, R114, R121): the load, the entries of its fragments, and a bound: a store
of its own crew, when `own`, or else the number below which stores of the core stood in the buffer when it was performed. -/
structure Seen where
  load : Nat
  owners : List Nat := []
  bound : Nat
  own : Bool := false
  deriving DecidableEq, Repr

/-- One pass of a fragment through a clause: the flags its header raised and the operations still owed (R212). -/
structure ClauseRun where
  entry : Nat := 0
  fa : Option Nat := none
  fb : Option Nat := none
  leftA : Nat := 0
  leftB : Nat := 0
  deriving DecidableEq, Repr

/-- A spill record (R197, R198): `slot` is none for the base spill slot, otherwise `locs` are the location, virtual address and attribute
of its eight words. Lanes that a RETT spills go on within a clause (R195). -/
structure Spill where
  pend : Mask
  done : Mask
  target : BitVec 52
  owner : Nat
  jaddr : BitVec 52
  seq : Nat
  slot : Option Nat
  locs : List (Nat × Nat × Nat) := []
  past : Bool := false             -- the target lies past the end of the virtual space (R32)
  cpos : Nat := 0
  hdr : Header := ⟨0, 15, 15, 0, false, false⟩
  code : List W64 := []            -- the words of the clause that the branch goes on within, as they were fetched (R33)
  token : BitVec 12 := 0           -- the owner's token, which the branch goes on with (DEDUCED, unsafe: log 20)
  fork : Nat := 0                  -- accesses numbered so far when the split was made, which the branch comes after (R109)
  deriving DecidableEq, Repr

/-- A crew slot (R184, R223). Vector registers are lists of 32 lanes; v240-v254 of supervisor mode are 496-510. -/
structure Crew where
  used : Bool := false
  uid : Nat := 0                   -- tells the crews that a slot holds one after the other apart (R35)
  live : Mask := 0
  helpers : Mask := 0
  gang : Nat := 0
  idx : Nat := 0
  base : Nat := 0
  granules : Nat := 0
  uni : Uni := {}
  vregs : Tbl (List W32) := []
  preds : Tbl Mask := []
  flags : Tbl Nat := []
  fbs : Tbl (List W32) := []
  astat : BitVec 6 := 0
  firm : BitVec 6 := 0             -- its flags that no open window has raised (R127, R173)
  srseed : W32 := 0
  faddr : Tbl W64 := []
  fpte : Tbl W64 := []
  handling : Option (BitVec 12) := none
  saved : Ctl := {}
  ops : Tbl LOp := []
  runs : Tbl ClauseRun := []
  spills : List Spill := []
  spillSeq : Nat := 0
  seen : List Seen := []
  deriving DecidableEq, Repr

/-- Fragment states (R185). -/
inductive FState
  | ready | waiting | moored | handling
  deriving DecidableEq, Repr

/-- What a waiting fragment or thread waits for; it becomes ready when that holds (R188). -/
inductive WaitFor
  | none
  | join
  | barrier (key : Nat) (ph : BitVec 16)     -- registered as a waiter of the phase
  | arrival (key : Nat)                       -- a refused arrival tries again
  | flags (m : BitVec 12)                     -- completion flags of a WAIT mask
  | fits (ks : List Nat)                      -- flag counts below their limit
  | regs (rd wr : List RegId)                 -- registers of operations in flight
  | op (id : Nat)                             -- an operation of the crew completes
  | fence (scope : Nat)                       -- earlier accesses, and earlier writes at a scope
  | window                                    -- its speculative window closes
  | rfence                                    -- its island operations end
  | counter (loc : Nat)                       -- a landing counter reaches zero
  | notify (key : Nat) (t : W32)              -- a notify counter reaches a threshold
  | room                                      -- room in a buffer or for operations
  | berth                                     -- an entry, a join entry or a place for a spill record
  | retry                                     -- a translation or a line in use
  | breakpoint
  | doorbell                                  -- POOLPOP on an empty pool
  deriving DecidableEq, Repr

/-- A speculative window (R126-R128). `snap` is the shadow copy: each register that the window writes, as it was before the window
first wrote it. -/
structure Window where
  scope : BitVec 3
  sc : Bool := false          -- of a FENCE.sc
  fence : Ctl                 -- at the fence
  after : Ctl                 -- at the instruction after it
  count : Nat := 0
  tried : Bool := false       -- its next word has been counted, and waits to issue again
  lines : List Nat := []
  written : List RegId := []
  raised : BitVec 6 := 0      -- flags of `sys.astat` raised in it
  first : Nat := 0            -- operations and runs from this number on belong to the window
  run : Nat := 0              -- the run after the fence, and what of it had not issued
  runAt : ClauseRun := {}
  hold : Bool := false        -- of the fragment at the fence: its last clause carried HOLD (R215)
  snap : Crew
  deferred : List LFault := []
  deriving DecidableEq, Repr

/-- A berth entry (R185) with what the core keeps beside it. AGE is the whole clock, and ages compare as such: the spec gives a 32-bit timestamp
and does not say how one that has wrapped compares (DESIGN CHOICE, safe: log 144). -/
structure Frag where
  mask : Mask := 0
  token : BitVec 12 := 0
  crew : Nat := 0
  state : FState := .ready
  wait : Nat := 0
  ctl : Ctl := {}
  cause : Byte := 0
  xmask : Mask := 0
  age : Nat := 0
  whole : Bool := false
  spec : Bool := false
  waitFor : WaitFor := .none
  run : Nat := 0
  lastHold : Bool := false
  lastYield : Bool := false
  passed : Nat := 0
  order : Nat := 0
  acquire : Option Nat := none          -- an acquire load in flight: nothing later issues before it
  window : Option Window := none
  errs : List (BitVec 8 × W64) := []    -- pending ADRN errors (R323)
  stop : Bool := false                  -- stopped at its place by a halt or an abort, though it does not wait (R129, R379)
  parked : Option (Nat × Nat) := none   -- an access of its instruction is parked: order, address (R78)
  tested : Bool := false                -- its header's WAIT test has passed, and it waits for its flag counts (R212)
  fork : Nat := 0                       -- accesses numbered up to here were made before its last split or fusion (R109)
  rel : List Rel := []                  -- release fences its later writes wait for (R118, R120)
  deriving DecidableEq, Repr

/-- A join table entry (R187); `jaddr` is none for a handler root token. -/
structure Join where
  used : Bool := false
  gen : BitVec 4 := 0
  jaddr : Option (BitVec 52) := none
  ptoken : BitVec 12 := 0
  pend : Nat := 0
  crew : Nat := 0
  deriving DecidableEq, Repr

/-- A unit at a barrier: a lane or a crew (R204). -/
structure BUnit where
  member : Bool := false
  joined : Bool := false           -- joined with BARJ in the phase
  ph : Option (BitVec 16) := none  -- PH of its last arrival
  bard : Bool := false             -- that arrival was BARD
  lanes : Mask := 0                -- lanes that have arrived in the phase (crew units)
  deriving DecidableEq, Repr

/-- A barrier (R204). -/
structure Barrier where
  ph : BitVec 16 := 0
  arr : Nat := 0
  exp : Nat := 0
  delta : Int := 0
  obs : Nat := 0
  units : Tbl BUnit := []
  waiters : List Nat := []         -- fragments registered and not yet awake
  owed : Nat := 0                  -- exits still to count as BARD (R205)
  deriving DecidableEq, Repr

/-- The value of a tile window that a TWIN replaced (R45): the window, the crew that wrote it, whether that crew has made a release since,
and the crews that have made an acquire since then. -/
structure TwinOld where
  n : Nat
  writer : Nat
  old : W64
  released : Bool := false
  ordered : List Nat := []
  deriving DecidableEq, Repr

/-- A gang (R184, R206, R207). -/
structure Gang where
  used : Bool := false
  task : Nat := 0
  id : Nat := 0
  group : Nat := 0
  lanes : Nat := 0
  crews : List Nat := []
  spBase : Nat := 0
  spSize : Nat := 0
  tileBase : Nat := 0
  tiles : Nat := 0
  twin : Tbl W64 := []
  twinOld : List TwinOld := []     -- values that other crews' accesses may still use, oldest first (R45)
  left : Nat := 0                  -- ordinary lanes that have left
  leftAt : Nat := 0                -- clock at which the last of them left, and the accesses numbered until then (R206)
  leftIds : Nat := 0
  maxst : Nat := 0
  nz : Nat := 0
  maxlane : Nat := 0
  written : Bool := false          -- the completion record is written or lost
  engineOps : Nat := 0             -- engine operations not yet joined
  aborted : Bool := false
  deriving DecidableEq, Repr

/-- A cluster group (R207). -/
structure Group where
  used : Bool := false
  task : Nat := 0
  cluster : Nat := 0
  cmBase : Nat := 0
  cmSize : Nat := 0
  size : Nat := 0
  placed : Nat := 0
  freed : Nat := 0
  deriving DecidableEq, Repr

/-- The operands that a bay's last MMA latched (R317). -/
structure Latch where
  crew : Nat := 0
  a : Nat := 0
  b : Nat := 0
  lanes : Mask := 0
  deriving DecidableEq, Repr

/-- States of a Pilot thread (R346, R359). -/
inductive PState
  | unstarted | running | halted
  | evwait (order dest len : Nat)      -- waiting at EVWAIT, its destination and its words
  | idle | wait
  deriving DecidableEq, Repr

/-- A Pilot hardware thread (R224, R343-R347, R377). -/
structure PThread where
  state : PState := .unstarted
  uid : Nat := 0
  ctl : Ctl := {}
  uni : Uni := {}
  spn : Nat := 0
  args : W64 := 0
  launchtag : W32 := 0
  taskid : W32 := 0
  ptask : W32 := 0
  faddr : W64 := 0
  fpte : W64 := 0
  lastHold : Bool := false
  waitFor : WaitFor := .none
  saved : Ctl := {}
  idleDone : Bool := false
  seen : List Seen := []
  rel : List Rel := []
  parked : Option (Nat × Nat) := none   -- its access is parked: order, address (R78)
  stop : Bool := false                  -- stopped at its place by a halt or an abort, though it does not wait (R379)
  deriving DecidableEq, Repr

/-- A Pilot: its event queue of 32-byte records, oldest first (R343). -/
structure PilotQ where
  peq : List (List Byte) := []
  deriving DecidableEq, Repr

/-- The execution state of every island. -/
structure Exec where
  crews : Tbl Crew := []           -- core × 64 + slot
  frags : Tbl Frag := []           -- core × 320 + entry
  joins : Tbl Join := []           -- core × 256 + index
  barriers : Tbl Barrier := []     -- level + 4 × (index + 16 × unit owner)
  gangs : Tbl Gang := []           -- core × 16 + slot
  groups : Tbl Group := []
  tiles : Tbl (Tbl W32) := []      -- core × 64 + tile, then element
  latches : Tbl Latch := []        -- core × 4 + bay
  threads : Tbl PThread := []      -- cluster × 4 + thread
  pilots : Tbl PilotQ := []        -- cluster
  bays : Tbl Nat := []             -- core × 4 + bay: 1 + the entry whose clause is issuing
  yielded : Tbl Nat := []          -- core × 4 + bay: 1 + the entry whose last clause carried YIELD
  orders : Nat := 0                -- mooring and waiting orders handed out
  ids : Nat := 0                   -- operation and run numbers handed out
  deriving DecidableEq, Repr

end Sys2Proof.Machine
end

