-- ==== Sys2Proof/Machine/MemState.lean ====
section
/-! DEFINITION. The state of contexts, translation, caches and coherence. -/

namespace Sys2Proof.Machine

open Sys2Proof

/-- A context on an island (R34, R84, R372). -/
structure Ctx where
  live : Bool := false
  precinct : Nat := 0
  ptroot : W64 := 0
  ptarena : W64 := 0
  ptview : W64 := 0
  tvec : W64 := 0
  aps : Tbl W64 := []         -- 0 LP, 1 SP, 2 CM, 3 BSN, 4 XSP, 5 XCM
  bsnwin : W64 := 0
  older : Tbl (List (Nat × W64)) := []  -- writers and the values they replaced, oldest first, that other crews may still use until
                                     -- the writer's FENCE.T (R35)
  deriving DecidableEq, Repr

/-- A translation of a TLB: page, entry, and the lines its walk read (R68). -/
structure TlbE where
  isl : Nat
  tlb : Nat                   -- 0-15 cluster, 16 arrival, 17 agent
  spn : Nat
  precinct : Nat
  page : Nat                  -- virtual address of the page
  size : Nat                  -- bytes
  pte : W64
  addr : Nat                  -- physical address of the entry
  level : Nat
  lines : List Nat
  deriving DecidableEq, Repr

/-- A directory or region entry of a cluster's walk cache, with the lines its walk read (R68). -/
structure WalkE where
  isl : Nat
  tlb : Nat
  spn : Nat
  precinct : Nat
  addr : Nat                  -- physical address of the entry
  entry : W64
  lines : List Nat
  deriving DecidableEq, Repr

/-- A translation invalidation received and not yet acknowledged, with the pages whose entries it removed: SPN, page,
size (R73). -/
structure TackDue where
  isl : Nat
  tlb : Nat
  line : Nat
  pages : List (Nat × Nat × Nat)
  deriving DecidableEq, Repr

/-- A page whose parked accesses a TLB has released, numbered below a bound: they are replayed in the order in which they
were parked (R73, R78). -/
structure Release where
  isl : Nat
  tlb : Nat
  spn : Nat
  page : Nat
  size : Nat
  below : Nat
  deriving DecidableEq, Repr

structure Translation where
  ctxs : Tbl Ctx := []              -- island × 4096 + SPN
  tlb : List TlbE := []
  wcache : List WalkE := []         -- oldest first; 1,024 of a cluster
  tinvs : List (Nat × Nat × Nat) := []   -- island, TLB, line: sent and not yet received
  tacks : List TackDue := []
  released : List Release := []
  evicted : List TlbE := []         -- entries that left a TLB but for an invalidation: accesses that used them may be under way (R74)
  replies : List (Nat × Nat × Nat × W64) := []  -- entries read at their homes for walks that waited there: island, TLB, address, value (R72)
  deriving DecidableEq, Repr

/-- Line marks (R52). -/
inductive CMark
  | none | first | last
  deriving DecidableEq, Repr

/-- The place of a touch in the order of issue of its crew (R54). -/
structure IssueNo where
  crew : Nat := 0             -- 1 + the crew (or 2^40 + the Pilot thread); 0: no crew
  po : Nat := 0               -- the place of its access in program order
  deriving DecidableEq, Repr

/-- A line of an L1 or Pilot data cache (R47, R52, R88). `touches` are those, with their hints, that an access issued before them may still
come behind (R54). -/
structure CLine where
  tokens : Nat := 0
  owner : Bool := false
  dirty : Bool := false
  mark : CMark := .none
  used : Nat := 0             -- recency
  spn : Nat := 0
  va : Nat := 0               -- virtual address of the line
  touches : List (IssueNo × Nat) := []
  deriving DecidableEq, Repr

/-- Keys of the commutative-update state (R95): operation and element width in bytes. -/
structure UKey where
  op : BitVec 4               -- 0 add, 2 min s, 3 max s, 4 min n, 5 max n, 6 fx128, 8 and, 9 or, 10 xor
  width : Nat
  deriving DecidableEq, Repr

/-- A partial line (R96): its elements as numbers, lowest address first. -/
structure ULine where
  key : UKey
  elems : List Nat
  spn : Nat := 0
  va : Nat := 0
  mark : CMark := .none
  used : Nat := 0
  touches : List (IssueNo × Nat) := []
  deriving DecidableEq, Repr

/-- MESI as the home sees it (R86, R87). -/
inductive Mesi
  | I | S | E | U
  deriving DecidableEq, Repr

/-- Sharer record (R86): exact pointers while at most four agents hold the line, else one bit for each cluster. -/
inductive Sharers
  | ptr (agents : List Nat)
  | coarse (clusters : BitVec 16)
  deriving DecidableEq, Repr

/-- Transient states of a line at its home (R94). -/
inductive Transient
  | none | recall | merge | unrepl | qf | biw
  deriving DecidableEq, Repr

/-- A replica of a hot line in a way of a helper slice (R53, R98). `live` falls when the helper gives the replica up, and with it
the redirect entries that name it go; its place in the list stays, for the entries that name the others. -/
structure Replica where
  slice : Nat
  tokens : Nat := 0
  way : Nat := 0
  mark : CMark := .none
  used : Nat := 0
  touches : List (IssueNo × Nat) := []
  live : Bool := true
  deriving DecidableEq, Repr

/-- A message of the home to an agent (R100): what it asks, and its number among the messages sent. -/
structure Fwd where
  to_ : Nat
  kind : FwdKind
  seq : Nat := 0
  deriving DecidableEq, Repr

/-- Tokens in flight (R88, R100): where to, how many, with the owner token or not, from where, and their number among the
messages sent. -/
structure Flight where
  dest : TokDest
  n : Nat
  owner : Bool
  src : TokDest := .home
  seq : Nat := 0
  deriving DecidableEq, Repr

/-- What waits in the queue of a blocked line, in order of arrival (R94, R101, R105): a request, a host's request, the read of an entry by a walk
of a TLB, an access of the Harbourmaster's island agent, and other accesses that are performed at the home: an entry of a write buffer, an operation of
a crew, an arrival, the landing of a GET's reply, a granule of a Tender. -/
inductive Held
  | req (rid : Nat)
  | host (i : Instr)
  | walk (tlb a : Nat)
  | entry (id : Nat)
  | agent
  | op (ck id : Nat)
  | arr (n : Nat)
  | land (op ofs : Nat)
  | gran (core id k : Nat)
  deriving DecidableEq, Repr

/-- A directory entry (R72, R86-R99, R104). The default is a line whose tokens are all at its home. -/
structure Line where
  mesi : Mesi := .I
  owntag : Nat := 0                -- 0 none, 1 + precinct
  sharers : Sharers := .ptr []
  tokens : Nat := 144
  owner : Bool := true
  trSharers : BitVec 18 := 0
  tx : Bool := false
  tacksDue : Nat := 0
  trans : Transient := .none
  held : List Held := []           -- what waits behind the blocked line, in order of arrival
  fwds : List Fwd := []            -- forwards and recalls sent to holders and not yet received, in the order sent
  flight : List Flight := []       -- tokens in flight, in the order sent
  ukey : Option UKey := none
  uholders : List Nat := []
  replicas : List Replica := []
  redirects : List (Nat × Nat) := [] -- agents whose interface holds a redirect entry, and when each last used it
  qf : List Nat := []                -- queued forwards, in the order of R91
  hs0 : HS := .I
  hs1 : HS := .I
  bisnp : List (Nat × Bool) := []    -- back-invalidations awaiting the host: half, BISnpInv
  filling : Option Nat := none     -- the victim line whose way the line's fill waits for (R53)
  making : List (Nat × Nat) := []  -- helper slices that wait for a way for a replica: slice, victim line (R53, R98)
  inL2 : Bool := false             -- L2 residence: way, mark and recency
  way : Nat := 0
  mark : CMark := .none
  used : Nat := 0
  touches : List (IssueNo × Nat) := []
  l2dirty : Bool := false
  owned : Option Bool := .none       -- host-coherent line: ownership over CXL.cache (R106)
  hostOwn : List (Nat × Bool) := []  -- CXL.cache requests in flight: half, RdOwn
  deriving DecidableEq, Repr

/-- Coherence requests (R89). -/
inductive ReqKind
  | read | own | upd (k : UKey)
  deriving DecidableEq, Repr

/-- A coherence request in flight (R90-R93). -/
structure Req where
  isl : Nat
  agent : Nat                 -- 0-143
  line : Nat
  kind : ReqKind
  tag : Nat                   -- 1 + precinct of the requester
  spn : Nat
  va : Nat
  born : Nat
  sent : Nat
  seq : Nat := 0              -- number of its message among those sent (R100)
  retries : Nat := 0
  state : Nat := 0            -- 0 on its way, 1 held or being answered, 2 starved, 3 active persistent, 4 queued forward, 5 to be
                              -- deactivated
  hint : Nat := 0
  turn : IssueNo := {}           -- of the access that asks
  ways : BitVec 16 := 0xFFFF   -- L2 ways the requester may fill (R354)
  deriving DecidableEq, Repr

/-- An entry of a write buffer (R114). -/
structure WEnt where
  id : Nat := 0               -- the order in which stores entered the buffer
  core : Nat                  -- agent of the buffer: island × 144 + agent
  line : Nat                  -- island × 2^41 + line
  bytes : List (Nat × Byte)
  po : Nat := 0               -- its place in program order: what was issued before it is numbered below (R118)
  owners : List Nat := []     -- entries of the fragments whose program order it stands in (R109)
  unc : Bool := false
  red : Option UKey := none    -- a RED: the bytes are its operands, lane by lane
  flt : Bool := false          -- that RED adds in FP32
  hint : Nat := 0
  ways : BitVec 16 := 0xFFFF
  crew : Nat := 0             -- its crew, or 2^40 + its Pilot thread
  spn : Nat := 0
  va : Nat := 0
  vas : List Nat := []        -- virtual addresses of the pieces of it
  deriving DecidableEq, Repr

/-- Reads of a line counted towards its becoming hot (R98). -/
structure Hot where
  slice : Nat
  line : Nat
  count : Nat
  first : Nat
  used : Nat
  deriving DecidableEq, Repr

/-- A line of an instruction cache: its eight-byte words as they were fetched, the number of the fetch, recency (R48). -/
structure ILine where
  words : List W64
  fill : Nat := 0
  used : Nat := 0
  deriving DecidableEq, Repr

/-- A write of uncached host memory that the bridge has accepted and the host has not completed: the agent, the half line, its
place in program order, and the operation of an engine that made it (R113, R132). -/
structure Wow where
  core : Nat
  half : Nat                  -- host address div 64
  po : Nat
  own : Nat := 0              -- 0 none
  deriving DecidableEq, Repr

structure Coherence where
  lines : Tbl Line := []              -- island × 2^41 + line
  l1 : Tbl CLine := []                -- (island × 144 + agent) × 2^41 + line
  partials : Tbl ULine := []          -- the same key
  icache : Tbl ILine := []            -- ((island × 144 + agent) × 4096 + SPN) × 2^45 + line of the virtual space
  wbuf : List WEnt := []              -- oldest first
  reqs : Tbl Req := []
  msgs : Nat := 0                     -- messages sent on the Street and the Avenue (R100)
  prt : Tbl (List Nat) := []          -- island × 96 + slice: active requests, at most 32
  hot : List Hot := []
  bad : Tbl W32 := []                 -- uncorrectable lines of memory: stored sector CRC xor the CRC of the data, 0 where the code fails (R57-R59)
  badWords : List Nat := []           -- uncorrectable 4-byte words of scratchpads and cluster memories: location div 4 (R57)
  soft : List Nat := []               -- correctable errors: location div 4 of on-chip words, location div 128 + 2^60 of lines (R57)
  wow : List Wow := []                -- oldest first
  hostOwner : Tbl Nat := []           -- host page of 64 KiB: 1 + island allowed to cache it (R106)
  permits : Tbl Nat := []             -- ((island × 96 + slice) × 35 + privileged agent): permits in use (R101)
  heldM2S : List (Nat × Nat × Bool) := []  -- line, half: a host request has met a back-invalidation; true: the handshake is over and
                                           -- newer requests are held (R105)
  bridge : List Instr := []           -- host requests that the bridge holds, in order of arrival (R105)
  deriving DecidableEq, Repr

end Sys2Proof.Machine
end

