-- ==== Sys2Proof/Machine/EngState.lean ====
section
/-! DEFINITION. The state of engines, island operations, the panel fabric and the Ultra Ethernet endpoints. -/

namespace Sys2Proof.Machine

open Sys2Proof

/-- A stretch of a granule with its storage: linear index of its first byte and length, its row and place there, source (none for a fill) and
destination address, and the pieces of each with their page attributes (R326). One that is not `ready` is still to be resolved; its addresses are
`known` once its index has been read. It may be parked (order, address), and is then its own replay record at a halt (R78, R380). -/
structure Row where
  t : Nat
  n : Nat
  row : Nat := 0
  x0 : Nat := 0
  ready : Bool := true
  known : Bool := true
  replay : Bool := false           -- reissued and not yet resolved or parked again (R387)
  parked : Option (Nat × Nat) := none
  sa : Nat
  src : List (Nat × Nat)
  sca : Nat
  da : W64
  dst : List (Nat × Nat)
  dca : Nat
  deriving DecidableEq, Repr

/-- A granule under way (R73, R326, R329): what is still to be moved, the first fault met, and, of a REMOTE request, the bytes read and not yet
sent, with the linear index of the first of them. -/
structure GRes where
  k : Nat
  todo : List Row
  fault : Option Byte := none
  out : List (Nat × W64 × List Byte) := []
  deriving DecidableEq, Repr

/-- A request in a Tender's queue (R324-R331). -/
structure TReq where
  id : Nat
  loc : Nat                        -- flat location of its record
  gang : Nat
  crew : Nat
  sup : Bool
  spn : Nat
  pred : Nat                       -- the request before it in the queue
  owners : List Nat                -- berth entry of the fragment that issued it: what came before it there comes first (R131)
  started : Bool := false
  words : List Byte := []          -- the record as read when started
  next : Nat := 0                  -- next granule to start
  flight : List Nat := []          -- granules started and not counted
  open_ : Nat := 0                 -- PUTs that have not ended
  fault : Option Byte := none
  failedBytes : Nat := 0           -- bytes of failing granules, counted last (R328)
  counted : Bool := false          -- every byte is counted and STATUS written
  status : Byte := 0               -- its result (R328)
  granules : List GRes := []       -- granules of its flight that are under way
  deriving DecidableEq, Repr

/-- A packet of an operation to a far island, as its endpoint keeps it (R161, R411): its number, entropy, endpoint, bytes, how often it has
been resent, the clock at which it was first sent. -/
structure UeSent where
  k : Nat
  ent : Nat
  ep : Nat
  payload : List Byte
  resends : Nat := 0
  first : Nat
  deriving DecidableEq, Repr

/-- What an endpoint sends a far source (R160-R162): an acknowledgement, or a packet of a GET's reply. -/
structure UeReply where
  isl : Nat
  ep : Nat
  to_ : Nat                        -- Chart id
  op : Nat
  cause : Option Byte := none
  reply : Option (Nat × Nat × List Byte) := none  -- packet, entropy, bytes
  deriving DecidableEq, Repr

/-- An island operation at its source (R141). -/
structure IslOp where
  isl : Nat
  who : Agent                      -- the issuing fragment or thread
  crew : Nat                       -- crew or thread whose sys.rerr records failures
  pilot : Bool
  owners : List Nat := []          -- entries of the fragments whose RFENCE waits for it (R145)
  gang : Nat
  fork : Nat := 0                  -- accesses and stores numbered below come before it (R131)
  kind : OpKind
  spn : Nat
  sup : Bool
  dest : Nat                       -- Chart id
  entry : W64                      -- the Chart entry read at issue
  la : W64 := 0
  ta : W64 := 0
  len : Nat := 0
  n : W32 := 0
  inc : W32 := 0
  rty : Nat := 0
  value : Nat := 0                 -- contribution of a RADD
  lc : Option Nat := none          -- landing counter
  ent : Nat := 0                   -- E and w of R161
  pin : Bool := false
  rel : Nat := 0                   -- scope of NOTIFY.rel
  lane : Nat := 0                  -- the lane that issued it, whose slice a lane-private local address names (R26)
  data : Option (List Byte) := none  -- source bytes already read (a Tender's PUT)
  sent : Nat := 0                  -- bytes read and sent; of a GET, bytes asked for
  begun : Bool := false            -- its first flit has been sent
  localDone : Bool := false
  got : Nat := 0                   -- GET reply bytes placed
  req : Option (Nat × Nat × Nat) := none  -- Tender: core, request, granule
  lastSeen : Nat := 0
  packets : List UeSent := []      -- far: its packets, kept by the endpoint
  lost : Bool := false             -- a flit of it was lost with its link (R400)
  edges : List (Nat × List Byte) := []  -- GET: bytes that have come of lines of which others are still to come (R143)
  res : Option (Nat × List (Nat × Nat) × Nat) := none  -- the storage that a GET's landing has resolved to: offset, pieces, attribute (R73)
  parked : Option (Nat × Nat) := none  -- its local access is parked: order, address (R78)
  seen : List Nat := []            -- far GET: offsets of the replies that have come (R162)
  deriving DecidableEq, Repr

/-- A piece of an operation at its target, not yet performed (R158). -/
structure Arr where
  isl : Nat
  src : Nat                        -- source island, or a far Chart id
  op : Nat                         -- operation at its source
  far : Bool := false
  desc : Desc
  ofs : Nat
  len : Nat
  data : List Byte
  last : Bool
  credit : Option Nat := none      -- class of the credit its flit holds at its source
  cons : List Nat := []            -- operations combined into it (R409)
  held : Bool := false
  ent : Nat := 0                   -- entropy of its packet (R161)
  res : Option (List (Nat × Nat) × Nat) := none  -- the storage it has resolved to, and its page attribute (R73)
  parked : Option (Nat × Nat) := none  -- parked: order, address (R78)
  done : Bool := false             -- performed, but for writes that the host is still to complete (R113, R144)
  deriving DecidableEq, Repr

/-- Progress of an operation at its target (R143-R149): its descriptor, bytes received, whether its last piece
has come, a failure met, and the Chart entry its reply travels by; the message number of a far one, the packets that have come of it, and whether
it is over, so that a packet that comes again is known (R162); bytes that have come of
lines of which others are still to come, and 16-byte units that a GET has read for its next piece (R143, R146). -/
structure Prog where
  desc : Desc
  mid : Option Nat := none
  ended : Bool := false
  rx : Nat := 0
  ks : List Nat := []
  edges : List (Nat × List Byte) := []
  units : List (Nat × List Byte) := []
  lastRx : Bool := false
  failed : Bool := false
  entry : Option W64 := none
  lastSeen : Nat := 0
  deriving DecidableEq, Repr

/-- What waits for the source of an operation: acknowledgements and replies. -/
structure Ack where
  op : Nat
  cause : Option Byte              -- none: positive
  reply : Option (Nat × List Byte × Bool) := none  -- offset, data, last
  deriving DecidableEq, Repr

/-- A flit kept by its sender until it is acknowledged (R400). -/
structure Sent where
  flit : Flit
  resends : Nat := 0
  at_ : Nat := 0
  deriving DecidableEq, Repr

/-- An egress port with its link (R392, R400-R404, R412). -/
structure Port where
  link : Nat := 0                  -- 0 none, 1 training, 2 up, 3 down
  queue : List (Nat × Nat × Flit) := []  -- channel (0 request, 1 data, 2 notify, 4 × sub-lane + input port), clock of arrival; the next to leave first
  unacked : List Sent := []
  wire : List Flit := []           -- sent and not yet received
  acks : List Nat := []            -- acknowledgements on their way to the sender
  repeats : List Nat := []         -- repeat requests on their way to the sender
  seq : BitVec 12 := 0             -- next sequence number to send
  expect : BitVec 12 := 0          -- next to pass on at the receiver
  reorder : List Flit := []
  progress : Nat := 0              -- clock of the last acknowledgement progress, or at which sending began on an idle link
  dem : Nat := 0
  demLast : W32 := 0
  res : Nat := 0
  ceil : Nat := 160
  floor : Nat := 16
  tgt : Option Nat := none         -- steering's target of the current window (R404)
  resent : Nat := 0
  crcf : Nat := 0
  corr : Nat := 0                  -- corrected codewords
  steer : List SteerMsg := []      -- steering messages on their way to the far die
  deriving DecidableEq, Repr

/-- A transmit colour (R393, R408, R412). -/
structure Colour where
  port : Nat := 7
  phase : BitVec 8 := 0
  alarm : Bool := false
  fault : Bool := false
  cleared : Option Nat := none     -- clock at which the host cleared FAULT
  deriving DecidableEq, Repr

/-- A circuit reservation of a grid (R406). -/
structure Circuit where
  isl : Nat
  task : Nat
  dest : Nat
  w : Nat
  route : BitVec 16
  hops : Nat
  expl : Bool := false             -- the route is the entry's own, and the grid's flits to DEST take it (R398)
  granted : Bool := false
  asked : Nat := 0
  deriving DecidableEq, Repr

structure Fabric where
  chart : Tbl W64 := []            -- island × 4096 + id
  peers : Tbl W64 := []            -- (island × 4096 + id) × 4 + word
  ports : Tbl Port := []           -- island × 4 + port
  colours : Tbl Colour := []       -- island × 256 + colour
  credits : Tbl Nat := []          -- ((island × 20 + destination) × 2 + class): credits in use
  returns : Tbl Nat := []          -- the same key: flits moved into the arrival path, credit not yet returned
  fstat : Tbl (BitVec 2) := []     -- island: CHERR, STERR
  circuits : List Circuit := []
  windows : Tbl Nat := []          -- island: start of the current window
  skips : Tbl (List (Nat × Nat)) := []  -- island: pairs skipped for the window, from (4 the free colours) and to (R404)
  move : Tbl (Nat × Nat × Nat) := []  -- island: colour being moved, to port, clock at which it switches
  uedrop : Tbl Nat := []           -- island × 2 + endpoint: packets dropped and counted
  ueOut : List UeReply := []       -- what the endpoints have sent to far sources, in order
  deriving DecidableEq, Repr

structure Engines where
  tenders : Tbl (List TReq) := []  -- core: queue in order
  lastReq : Tbl Nat := []          -- core: the request queued last
  peqDue : List (Nat × List Byte) := []  -- cluster, record: posts that wait for room or for their step
  ops : Tbl IslOp := []            -- island × 65536 + tag
  arrivals : Tbl Arr := []
  progs : Tbl Prog := []           -- island × 2^40 + source operation
  acks : List Ack := []
  hmacks : List Ack := []          -- carried by the Harbourmaster (R400)
  notify : Tbl W32 := []           -- island × 16384 + counter
  replays : Tbl (List (Nat × Nat × LOp)) := []   -- core: replay records: crew, number, operation (R380)
  fab : Fabric := {}
  deriving DecidableEq, Repr

end Sys2Proof.Machine
end

