-- ==== Sys2Proof/Machine/MgtState.lean ====
section
/-! DEFINITION. The state of the Harbourmaster, the precincts, start-up and the host's registers. -/

namespace Sys2Proof.Machine

open Sys2Proof

/-- A command of a queue that has started and not completed (R352): its bytes, the tasks of a LAUNCH that have not ended,
and how many bytes a COPY has copied. -/
structure Cmd where
  idx : W32
  op : Nat
  body : List Byte := []
  tag : W32 := 0
  tasks : List Nat := []
  copied : Nat := 0
  deriving DecidableEq, Repr

/-- A command queue (R348, R349). -/
structure Queue where
  base : BitVec 52 := 0
  log : Nat := 0
  prio : Nat := 0
  home : Nat := 0
  spn : Nat := 0
  en : Bool := false
  err : Bool := false
  cause : Byte := 0
  head : W32 := 0
  tail : W32 := 0
  started : List Cmd := []         -- oldest first
  ahead : List W32 := []           -- indices from HEAD on of commands that have started: HEAD stands at a COPY that failed (R350)
  deriving DecidableEq, Repr

/-- States of a task in the window (R358-R362). -/
inductive TState
  | entering | held | ready | placed | done
  deriving DecidableEq, Repr

/-- A task of an island's window. -/
structure Task where
  isl : Nat
  id : W32
  tag : W32
  spn : Nat
  precinct : Nat
  sup : Bool                       -- mode of the launch (R206)
  prio : Nat
  origin : Option (Nat × W32)      -- queue and command index, for a LAUNCH
  pilot : Option Nat               -- cluster whose Pilot launched it
  record : List Byte
  kdesc : List Byte
  deps : List Byte
  circ : List Byte
  malformed : Bool := false
  order : Nat
  state : TState := .held
  next : Nat := 0                  -- next gang to place, or number placed
  searched : Bool := false         -- no core had room for that gang when it was searched for
  rooms : List (Nat × Nat) := []   -- cores on which room for it has appeared since, with the clock (R362)
  prev : Option Nat := none        -- core of the previous gang
  freed : Nat := 0
  stopped : Bool := false          -- ABORT: no further gang is placed
  status : Byte := 0
  groups : List (Nat × Nat) := []  -- group number, key in the group table
  deriving DecidableEq, Repr

/-- Precinct states (R391). -/
inductive PrState
  | running | halting | halted | exchanging | swapped | failed
  deriving DecidableEq, Repr

/-- A precinct block (R391, R422, R423). -/
structure Precinct where
  size : Nat := 0
  tag : Nat := 0
  nbase : Nat := 0
  ncount : Nat := 0
  valid : Bool := false
  ovf : W64 := 0
  arg : W32 := 0
  df : Bool := false
  err : Bool := false
  armbp : Bool := false
  state : PrState := .running
  evbase : W64 := 0
  evlog : Nat := 0
  dropped : Nat := 0
  evhead : W32 := 0
  evtail : W32 := 0
  pway : Tbl (BitVec 16) := []
  ctxaddr : W64 := 0
  ctxbusy : Bool := false
  ctxresult : Byte := 0
  ctxcmd : Nat := 0
  ctxspn : Nat := 0
  fpool : W64 := 0
  door : Bool := false             -- a pool doorbell recorded while not running (R382)
  served : Nat := 63               -- queue served last; the first turn is queue 0's
  aborts : List W32 := []          -- ABORTs in progress
  image : Nat := 0                 -- 0 none, 1 in the slots, 2 in the overflow area
  badImage : Bool := false         -- its image holds an uncorrectable error (R386)
  deriving DecidableEq, Repr

/-- The saved state of a precinct (R225, R384). -/
structure Image where
  exec : Exec := {}
  tenders : Tbl (List TReq) := []
  replays : Tbl (List (Nat × Nat × LOp)) := []
  ops : Tbl IslOp := []            -- island operations with a parked access
  peqDue : List (Nat × List Byte) := []
  mem : List Host.Cell := []
  deriving DecidableEq, Repr

/-- A boot-log record (R419). -/
structure BootRec where
  attempt : Nat
  stage : Nat
  reason : Nat
  island : Nat
  detail : W64
  time : Nat
  deriving DecidableEq, Repr

/-- A record ring of the host (R422): the precincts' are in their blocks, this is the module's. -/
structure Ring where
  base : W64 := 0
  log : Nat := 0
  dropped : Nat := 0
  head : W32 := 0
  tail : W32 := 0
  deriving DecidableEq, Repr

/-- Answers over the DOE mailbox (R420). -/
inductive Spdm
  | version | capabilities | algorithms | digests
  | certificate (off len : Nat)
  | challengeAuth (nonce : BitVec 256)
  | measurements (index : Nat) (blocks : List (BitVec 512))
  | error
  deriving DecidableEq, Repr

/-- How a request of the host for a half line is answered (R59, R103). -/
inductive HostAns
  | data (bs : List Byte)
  | poison
  | unsupported                    -- the error completion of an opcode that the bridge does not support
  deriving DecidableEq, Repr

/-- What the bridge sends to the host for host memory (R106): the snooped half of a line, a half that is given up, dirty or clean,
a dirty half that is written back and kept. -/
inductive CxlMsg
  | snoopData (line half : Nat) (bs : List Byte)
  | dirtyEvict (line half : Nat) (bs : List Byte)
  | cleanEvict (line half : Nat)
  | writeBack (line half : Nat) (bs : List Byte)
  deriving DecidableEq, Repr

/-- The module block and the PCD (R413-R421). -/
structure Module where
  sites : BitVec 20 := 0xFFFFF     -- populated sites, fixed at assembly (R2, log 2)
  pop : BitVec 20 := 0             -- POP of BOOTSTAT: the populated sites, once stage 3 brings them up (R418, log 2)
  healthy : BitVec 20 := 0
  reason : BitVec 8 := 0
  attempts : Nat := 0
  mode : Nat := 0
  stage : Nat := 0
  pwrcap : Nat := 30100
  therm : Nat := 2000              -- clock in MHz; one value, that of the island it was last read for
  clocks : Tbl Nat := []           -- island: clock in MHz where below nominal
  temp : Nat := 0
  throttle : Bool := false
  excess : Bool := false
  ratio : Tbl Nat := []            -- island: issue in 1 clock of this many
  hpoPage : Nat := 0
  hpoIsl : Nat := 0
  hpoBusy : Bool := false
  ml : Ring := {}
  log : List BootRec := []         -- oldest first, at most 128
  digests : List (BitVec 512) := []
  spdm : List Spdm := []
  irqs : List (BitVec 11) := []
  m2sLog : List Nat := []          -- unsupported opcodes and unpopulated offsets, logged (R103)
  m2sData : List (Nat × HostAns) := []   -- answers to the host: HDM offset or opcode, and the answer
  cxlOut : List CxlMsg := []       -- what the bridge has sent about host memory
  deriving DecidableEq, Repr

structure Mgmt where
  queues : Tbl Queue := []         -- precinct × 64 + queue
  tasks : Tbl Task := []
  precincts : Tbl Precinct := []   -- island × 16 + first cluster
  images : Tbl Image := []         -- precinct
  nextTag : W32 := 1
  nextTask : Tbl W32 := []         -- island: last id given
  taskKeys : Nat := 0
  dhalt : Tbl Bool := []           -- island: IDBG.HALT (R389)
  counters : Tbl Nat := []         -- core × 8 + counter (R424)
  stoppedIsl : List Nat := []      -- islands stopped under R421
  mod : Module := {}
  deriving DecidableEq, Repr

end Sys2Proof.Machine
end

