-- ==== Sys2Proof/Machine/State.lean ====
section
/-! DEFINITION. The state of the machine, the reasons a step can stop, and the state right after reset. -/

namespace Sys2Proof.Machine

open Sys2Proof

/-- Reasons a step stops with a fault. The part's own faults moor lanes or threads (R192, R377) and are next states. -/
inductive Fault
  /-- Nobody raises it: every access the spec calls faulting moors the lanes that make it. Safe: it shuts nothing out. -/
  | none
  deriving DecidableEq, Repr

/-- Reasons a step is refused. -/
inductive Refusal
  /-- Raised by `exec` for an instruction that has no meaning yet. Safe: nothing is claimed of it. -/
  | notModelled (mnemonic : String)
  /-- Raised by no meaning: a word that fails a decoding check moors its fragment (R231). Safe. -/
  | undecoded
  deriving DecidableEq, Repr

/-- The machine (INVENTORY.md, State). -/
structure State where
  /-- The fragment or thread whose instruction executes. -/
  cur : Agent := .frag 0 0
  /-- Who issues at the next step; none leaves the choice to the machine (DESIGN CHOICE, safe: log 5). -/
  turn : Option Agent := none
  /-- External events not yet delivered, oldest first (DESIGN CHOICE, safe: log 5). -/
  inbox : List Instr := []
  /-- Free choices taken so far (DESIGN CHOICE, safe: log 5). -/
  choices : Nat := 0
  /-- Core clocks, one count for the module (DESIGN CHOICE, safe: log 6). -/
  clock : Nat := 0
  /-- HBM, host memory, scratchpads, cluster memories and Basins (DESIGN CHOICE, unsafe: log 4). -/
  mem : List Host.Cell := []
  exe : Exec := {}
  trn : Translation := {}
  coh : Coherence := {}
  eng : Engines := {}
  mgt : Mgmt := {}
  deriving DecidableEq, Repr

/-- The machine right after reset: every register at its reset value, memory with nothing listed, and module reset as
the event that comes next (R416, log 2). -/
def State.reset : State :=
  { inbox := [.moduleReset { powerOn := true, fail := none, healthy := 0xFFFFF, recoveryOk := true }] }

end Sys2Proof.Machine
end

