-- ==== Sys2Proof/Machine/Regs.lean ====
section
/-! DEFINITION. The current agent's registers, guards, walkers and position (R185, R193, R209, R217, R219, R223). -/

namespace Sys2Proof.Machine

open Sys2Proof

/-- The 32 lanes of a crew. -/
def lanes32 : List Nat := [0, 1, 2, 3, 4, 5, 6, 7, 8, 9, 10, 11, 12, 13, 14, 15, 16, 17, 18, 19, 20, 21, 22, 23, 24, 25,
  26, 27, 28, 29, 30, 31]

/-- Lanes of a mask, ascending. -/
def lanesOf (m : Mask) : List Nat := lanes32.filter (m.getLsbD ·)
/-- The mask of a set of lanes. -/
def maskOf (ls : List Nat) : Mask := ls.foldl (fun m L => m ||| (1#32 <<< L)) 0
/-- The mask of the lanes for which a test holds. -/
def maskBy (f : Nat → Bool) : Mask := maskOf (lanes32.filter f)

/-- The index of a scalar register: s112-s127 are banked in supervisor mode (R193). -/
def six (sup : Bool) (n : Nat) : Nat := if sup && 112 ≤ n then n + 128 else n
/-- The index of a vector register: v240-v254 are banked in supervisor mode (R193). -/
def vix (sup : Bool) (n : Nat) : Nat := if sup && 240 ≤ n && n ≤ 254 then n + 256 else n

/-! Numbering of cores (island × 128 + core), clusters (island × 16 + cluster), bays, agents of the directory. -/

def islOfCore (c : Nat) : Nat := c / 128
def clusterOfCore (c : Nat) : Nat := c / 8
def islOfCluster (k : Nat) : Nat := k / 16

namespace State

def pilot (s : State) : Bool := match s.cur with | .pilot _ _ => true | .frag _ _ => false
/-- The core of the current fragment. -/
def core (s : State) : Nat := match s.cur with | .frag c _ => c | .pilot _ _ => 0
/-- The cluster of the current agent. -/
def cluster (s : State) : Nat := match s.cur with | .frag c _ => clusterOfCore c | .pilot k _ => k
def isl (s : State) : Nat := s.cluster / 16
def entry (s : State) : Nat := match s.cur with | .frag _ e => e | .pilot _ _ => 0
def fkey (s : State) : Nat := s.core * 320 + s.entry
def tkey (s : State) : Nat := match s.cur with | .pilot k t => k * 4 + t | .frag _ _ => 0
def frag (s : State) : Frag := s.exe.frags.get {} s.fkey
def setFrag (s : State) (f : Frag) : State := { s with exe.frags := s.exe.frags.put s.fkey f }
def ckey (s : State) : Nat := s.core * 64 + s.frag.crew
def crew (s : State) : Crew := s.exe.crews.get {} s.ckey
def setCrew (s : State) (c : Crew) : State := { s with exe.crews := s.exe.crews.put s.ckey c }
def thread (s : State) : PThread := s.exe.threads.get {} s.tkey
def setThread (s : State) (t : PThread) : State := { s with exe.threads := s.exe.threads.put s.tkey t }
def uni (s : State) : Uni := if s.pilot then s.thread.uni else s.crew.uni
def setUni (s : State) (u : Uni) : State :=
  if s.pilot then s.setThread { s.thread with uni := u } else s.setCrew { s.crew with uni := u }
def ctl (s : State) : Ctl := if s.pilot then s.thread.ctl else s.frag.ctl
def setCtl (s : State) (c : Ctl) : State :=
  if s.pilot then s.setThread { s.thread with ctl := c } else s.setFrag { s.frag with ctl := c }
def sup (s : State) : Bool := s.ctl.sup

/-! Scalar registers and q predicates. -/

def rdS (s : State) (n : Nat) : W32 := s.uni.sregs.get 0 (six s.sup n)
def rdS64 (s : State) (n : Nat) : W64 := s.rdS (n + 1) ++ s.rdS n
def putS (s : State) (n : Nat) (v : W32) : State := s.setUni { s.uni with sregs := s.uni.sregs.put (six s.sup n) v }
/-- Write of a scalar destination; 0xFF discards (R219). -/
def wrS (s : State) (o : Opnd) (v : W32) : State := match o with | .s n => s.putS n.toNat v | _ => s
/-- Write of a scalar pair (R220). -/
def wrS64 (s : State) (o : Opnd) (v : W64) : State :=
  match o with
  | .s n => (s.putS n.toNat (v.extractLsb' 0 32)).putS (n.toNat + 1) (v.extractLsb' 32 32)
  | _ => s
/-- A q predicate; index 7 is qt and reads true (R219). -/
def rdQ (s : State) (k : Nat) : Bool := k = 7 || s.uni.q.getLsbD k
def putQ (s : State) (k : Nat) (b : Bool) : State :=
  if k = 7 then s
  else s.setUni { s.uni with q := if b then s.uni.q ||| (1#7 <<< k) else s.uni.q &&& ~~~(1#7 <<< k) }
def wrQ (s : State) (o : Opnd) (b : Bool) : State := match o with | .p n => s.putQ n.toNat b | _ => s

/-! Vector registers and p predicates of the current crew. -/

/-- One lane of a vector register; v255 reads as zero (R219). -/
def rdV (s : State) (n L : Nat) : W32 :=
  if n = 255 then 0 else (s.crew.vregs.get [] (vix s.sup n)).getD L 0
def rdV64 (s : State) (n L : Nat) : W64 := s.rdV (n + 1) L ++ s.rdV n L
/-- Write of a vector register in the lanes of a mask; v255 discards (R219). -/
def wrV (s : State) (n : Nat) (m : Mask) (f : Nat → W32) : State :=
  if n = 255 then s
  else
    let old := s.crew.vregs.get [] (vix s.sup n)
    s.setCrew { s.crew with
      vregs := s.crew.vregs.put (vix s.sup n) (lanes32.map fun L => if m.getLsbD L then f L else old.getD L 0) }
def wrV64 (s : State) (n : Nat) (m : Mask) (f : Nat → W64) : State :=
  (s.wrV n m fun L => (f L).extractLsb' 0 32).wrV (n + 1) m fun L => (f L).extractLsb' 32 32
/-- A p predicate of a lane; index 7 is pt and reads true. -/
def rdP (s : State) (k L : Nat) : Bool := k = 7 || (s.crew.preds.get 0 k).getLsbD L
def wrP (s : State) (o : Opnd) (m : Mask) (f : Nat → Bool) : State :=
  match o with
  | .p k => if k = 7 then s else
      s.setCrew { s.crew with
        preds := s.crew.preds.put k.toNat ((s.crew.preds.get 0 k.toNat &&& ~~~m) ||| (maskBy f &&& m)) }
  | _ => s

/-! Guards (R217). -/

/-- The lanes of the fragment that execute: those of MASK that do not wait with it (R193, R199). -/
def lanes (s : State) : Mask := s.frag.mask &&& ~~~s.frag.xmask
/-- A q guard. -/
def qguard (s : State) (g : Guard) : Bool := s.rdQ g.pi.toNat != g.neg
/-- Lanes of the crew for which a p guard is true. -/
def guardMask (s : State) (g : Guard) : Mask :=
  let p := if g.pi = 7 then BitVec.allOnes 32 else s.crew.preds.get 0 g.pi.toNat
  if g.neg then ~~~p else p
/-- The active lanes under a p guard (R189, R217). -/
def act (s : State) (g : Guard) : Mask := s.lanes &&& s.guardMask g
/-- The helper lanes of the crew (R10, R184). -/
def helpers (s : State) : Mask := s.crew.helpers

end State

/-! Walkers (R208-R210). -/

/-- The dimensions in use: the leading ones whose COUNT is nonzero. -/
def Walker.dims (w : Walker) : List WDim := [w.d0, w.d1, w.d2, w.d3].takeWhile fun d => d.count ≠ 0

/-- The value a walker supplies (R209). -/
def Walker.value (w : Walker) : W64 :=
  w.dims.foldl (fun v d => v + d.idx.setWidth 64 * d.stride.signExtend 64) w.base

/-- The carry of R209 through the dimensions. -/
def stepDims : List WDim → List WDim
  | [] => []
  | d :: ds =>
    if d.idx.toNat + 1 < d.count.toNat then { d with idx := d.idx + 1 } :: ds
    else { d with idx := 0, e := true } :: stepDims ds

/-- The walker after a read: flags of the latest read only, indices advanced (R209). -/
def Walker.step (w : Walker) : Walker :=
  let c := [w.d0, w.d1, w.d2, w.d3].map fun d => { d with e := false }
  let n := w.dims.length
  match stepDims (c.take n) ++ c.drop n with
  | [a, b, c, d] => { w with d0 := a, d1 := b, d2 := c, d3 := d }
  | _ => w

namespace State

def walker (s : State) (n : Nat) : Walker := s.uni.walkers.get {} n
def setWalker (s : State) (n : Nat) (w : Walker) : State := s.setUni { s.uni with walkers := s.uni.walkers.put n w }

/-- A walker read and advanced, its value kept in the replay record until the instruction is done (R209, R210). -/
def readWalker (s : State) (n : BitVec 3) : W64 × State :=
  let v := (s.walker n.toNat).value
  (v, (s.setWalker n.toNat (s.walker n.toNat).step).setCtl { s.ctl with wrv := some (n, v) })

/-- The walker operand of an instruction, read once at issue, or the value its replay record holds (R209, R210). -/
def walk (s : State) (os : List Opnd) : W64 × State :=
  match oneWalker os with
  | none => (0, s)
  | some n =>
    match s.ctl.wrv with
    | some (m, v) => if m = n then (v, s) else s.readWalker n
    | none => s.readWalker n

/-! Operands (R219, R220, R222). `w` is the walker value of the instruction, `lit` its literal. -/

/-- A 32-bit uniform source. -/
def u32 (s : State) (w : W64) (lit : Option W64) : Opnd → W32
  | .s n => s.rdS n.toNat
  | .w _ => w.extractLsb' 0 32
  | .lit => (lit.getD 0).extractLsb' 0 32
  | .imm i => i.signExtend 32
  | _ => 0

/-- A 64-bit uniform source: a pair, a walker, an inline constant or the whole literal. -/
def u64 (s : State) (w : W64) (lit : Option W64) : Opnd → W64
  | .s n => s.rdS64 n.toNat
  | .w _ => w
  | .lit => lit.getD 0
  | .imm i => i.signExtend 64
  | _ => 0

/-- A 32-bit source of a lane: a vector register or a uniform operand. -/
def v32 (s : State) (w : W64) (lit : Option W64) (o : Opnd) (L : Nat) : W32 :=
  match o with
  | .v n => s.rdV n.toNat L
  | _ => s.u32 w lit o

def v64 (s : State) (w : W64) (lit : Option W64) (o : Opnd) (L : Nat) : W64 :=
  match o with
  | .v n => s.rdV64 n.toNat L
  | _ => s.u64 w lit o

end State

end Sys2Proof.Machine
end

