-- ==== Sys2Proof/Machine/Float.lean ====
section
/-! DEFINITION. Number formats: values, rounding, conversions, exact sums, elementary functions (R165-R180, R268-R273). -/

namespace Sys2Proof.Machine

open Sys2Proof

/-! Flags of `sys.astat` (R173). -/
def fNV : BitVec 6 := 1
def fOF : BitVec 6 := 2
def fUF : BitVec 6 := 4
def fNX : BitVec 6 := 8
def fDZ : BitVec 6 := 16
def fRC : BitVec 6 := 32

/-- A floating-point format (R166): exponent and fraction widths, bias, infinities, the canonical NaN, the largest finite
code. -/
structure Fmt where
  e : Nat
  m : Nat
  bias : Nat
  inf : Bool
  nan : Option Nat
  maxc : Nat
  deriving DecidableEq, Repr

/-- The format of a floating-point type. -/
def fmtOfTy : Ty → Fmt
  | .f32 => ⟨8, 23, 127, true, some 0x7FC00000, 0x7F7FFFFF⟩
  | .f16 => ⟨5, 10, 15, true, some 0x7E00, 0x7BFF⟩
  | .bf16 => ⟨8, 7, 127, true, some 0x7FC0, 0x7F7F⟩
  | .e5m2 => ⟨5, 2, 15, true, some 0x7E, 0x7B⟩
  | .e4m3 => ⟨4, 3, 7, false, some 0x7F, 0x7E⟩
  | .e3m2 => ⟨3, 2, 3, false, none, 0x1F⟩
  | .e2m3 => ⟨2, 3, 1, false, none, 0x1F⟩
  | _ => ⟨2, 1, 1, false, none, 7⟩

/-- A value: a sign and an exact magnitude n / d × 2^e. With `st` the magnitude lies strictly between n / d × 2^e and
(n + 1) / d × 2^e (an irrational value). n = 0 is a signed zero. -/
inductive Num
  | nan
  | inf (s : Bool)
  | fin (s : Bool) (n d : Nat) (e : Int) (st : Bool)
  deriving DecidableEq, Repr

def Num.dy (s : Bool) (n : Nat) (e : Int) : Num := .fin s n 1 e false
def Num.zero (s : Bool) : Num := .dy s 0 0
def Num.int (x : Int) : Num := .dy (x < 0) x.natAbs 0
def Num.isNan : Num → Bool | .nan => true | _ => false
def Num.isInf : Num → Bool | .inf _ => true | _ => false
def Num.isZero : Num → Bool | .fin _ n _ _ st => n = 0 && !st | _ => false
def Num.sign : Num → Bool | .nan => false | .inf s => s | .fin s _ _ _ _ => s
def Num.neg : Num → Num | .nan => .nan | .inf s => .inf !s | .fin s n d e st => .fin (!s) n d e st

/-- The value of a code in a format (R166). -/
def decodeF (f : Fmt) (v : Nat) : Num :=
  let s := v / 2 ^ (f.e + f.m) % 2 = 1
  let ex := v / 2 ^ f.m % 2 ^ f.e
  let fr := v % 2 ^ f.m
  let top := ex = 2 ^ f.e - 1
  if f.inf && top then (if fr = 0 then .inf s else .nan)
  else if !f.inf && f.nan.isSome && top && fr = 2 ^ f.m - 1 then .nan
  else if ex = 0 then .dy s fr (1 - f.bias - f.m)
  else .dy s (2 ^ f.m + fr) ((ex : Int) - f.bias - f.m)

/-! Rounding (R174, R175). -/

/-- n / d × 2^e as a fraction. -/
def fracOf (n d : Nat) (e : Int) : Nat × Nat := if 0 ≤ e then (n * 2 ^ e.toNat, d) else (n, d * 2 ^ (-e).toNat)

/-- The integer chosen for a magnitude N / D (`st`: a little more), with its sign, and whether it is exact. `sr` are the
16 random bits. -/
def roundInt (nd : Nat × Nat) (st : Bool) (r : Nat) (neg : Bool) (sr : Nat) : Nat × Bool :=
  let q := nd.1 / nd.2
  let rem := nd.1 % nd.2
  let exact := rem = 0 && !st
  let up : Bool :=
    match r with
    | 0 => nd.2 < 2 * rem || (2 * rem = nd.2 && (st || q % 2 = 1))
    | 1 => false
    | 2 => neg && !exact
    | 3 => !neg && !exact
    | _ => sr < rem * 2 ^ 16 / nd.2
  (if up then q + 1 else q, exact)

/-- sr_bits of R175. -/
def srBits (seed : W32) (L k : Nat) : Nat :=
  let x := seed ^^^ (BitVec.ofNat 32 L * 0x9E3779B9) ^^^ (BitVec.ofNat 32 k * 0x85EBCA6B)
  let x := x ^^^ (x >>> 16)
  let x := x * 0x7FEB352D
  let x := x ^^^ (x >>> 15)
  let x := x * 0x846CA68B
  let x := x ^^^ (x >>> 16)
  x.toNat % 2 ^ 16

/-- floor(log2(n / d)) for n, d > 0. -/
def floorLog2 (n d : Nat) : Int :=
  let l : Int := (Nat.log2 n : Int) - Nat.log2 d
  let nd := fracOf n d (-l)
  if nd.1 < nd.2 then l - 1 else l

/-- Conversion context: rounding mode, overflow selector, `.ftz`, random bits. -/
structure Cv where
  rnd : Nat := 0
  ovf : Nat := 0
  ftz : Bool := false
  sr : Nat := 0

/-- The result of an overflow (R177). Selectors: 0 none, 1 sat, 2 nan, 3 inf. -/
def overflowF (f : Fmt) (s : Bool) (c : Cv) : Nat × BitVec 6 :=
  let sb := if s then 2 ^ (f.e + f.m) else 0
  let infc := (2 ^ f.e - 1) * 2 ^ f.m
  let byMode := match c.rnd with
    | 1 => sb + f.maxc
    | 2 => if s then sb + infc else f.maxc
    | 3 => if s then sb + f.maxc else infc
    | _ => sb + infc
  let wide := 10 ≤ f.m || f.m = 7
  (if c.ovf = 2 then f.nan.getD 0
   else if c.ovf = 3 || (c.ovf = 0 && wide) then byMode
   else sb + f.maxc, fOF ||| fNX)

/-- Conversion of a value to a floating-point format, with its flags (R168, R176, R177). An infinity goes to E5M2 as an infinity under `.nan` and
`.inf`, and as the largest value by default (R176, R177). -/
def cvtFloat (f : Fmt) (c : Cv) (x : Num) : Nat × BitVec 6 :=
  let sgn (s : Bool) : Nat := if s then 2 ^ (f.e + f.m) else 0
  match x with
  | .nan => match f.nan with | some n => (n, 0) | none => (0, fNV)
  | .inf s => if 10 ≤ f.m || f.m = 7 || 2 ≤ c.ovf && f.e = 5 then (sgn s + (2 ^ f.e - 1) * 2 ^ f.m, 0) else overflowF f s c
  | .fin s n d e st =>
    if n = 0 && !st then (sgn s, 0)
    else
      let emin : Int := 1 - f.bias
      let l := if n = 0 then emin else floorLog2 n d + e
      let ex := max l emin
      let (k, exact) := roundInt (fracOf n d (e - (ex - f.m))) st c.rnd s c.sr
      let code := (ex - emin).toNat * 2 ^ f.m + k
      if f.maxc < code then overflowF f s c
      else if code < 2 ^ f.m && code ≠ 0 && c.ftz then (sgn s, fUF ||| fNX)
      else if code = 0 then (sgn s, if exact then 0 else fNX)
      else (sgn s + code, (if exact then 0 else fNX) ||| (if !exact && code < 2 ^ f.m then fUF else 0))

/-- A subnormal read as zero under `.ftz` (R168). -/
def flushIn (f : Fmt) (ftz : Bool) (v : Nat) : Nat :=
  if ftz && v / 2 ^ f.m % 2 ^ f.e = 0 then v / 2 ^ (f.e + f.m) * 2 ^ (f.e + f.m) else v

def readF (f : Fmt) (ftz : Bool) (v : Nat) : Num := decodeF f (flushIn f ftz v)

/-- A rounded integer in a range (R178): NaN gives 0, values outside give the end. -/
def cvtInt (lo hi : Int) (c : Cv) (x : Num) : Int × BitVec 6 :=
  match x with
  | .nan => (0, fNV)
  | .inf s => (if s then lo else hi, fOF)
  | .fin s n d e st =>
    let (k, exact) := roundInt (fracOf n d e) st c.rnd s c.sr
    let v : Int := if s then -(k : Int) else k
    if v < lo then (lo, fOF ||| fNX) else if hi < v then (hi, fOF ||| fNX) else (v, if exact then 0 else fNX)

/-! Exact arithmetic. Products and sums carry the flag of an invalid operation. -/

def mulN (x y : Num) : Num × BitVec 6 :=
  match x, y with
  | .fin s n d e st, .fin s' n' d' e' st' => (.fin (s != s') (n * n') (d * d') (e + e') (st || st'), 0)
  | .nan, .inf _ | .nan, .nan | .nan, .fin .. | .inf _, .nan | .fin .., .nan => (.nan, 0)
  | .inf s, y => if y.isZero then (.nan, fNV) else (.inf (s != y.sign), 0)
  | x, .inf s => if x.isZero then (.nan, fNV) else (.inf (s != x.sign), 0)

/-- The least exponent of the dyadic terms. -/
def minExp (xs : List Num) : Int :=
  xs.foldl (fun m x => match x with | .fin _ n _ e _ => if n = 0 then m else min m e | _ => m) 0

/-- The exact sum of dyadic terms at a common exponent. -/
def sumAt (e0 : Int) (xs : List Num) : Int :=
  xs.foldl (fun a x => match x with
    | .fin s n _ e _ => let v : Int := n * 2 ^ (e - e0).toNat
                        if s then a - v else a + v
    | _ => a) 0

/-- The exact sum of dyadic values; `rd` is the mode that makes a cancelled zero negative (R268). -/
def sumN (rd : Bool) (xs : List Num) : Num × BitVec 6 :=
  if xs.any (·.isNan) then (.nan, 0)
  else
    let is := xs.filter (·.isInf)
    match is with
    | i :: _ => if is.any (·.sign != i.sign) then (.nan, fNV) else (i, 0)
    | [] =>
      let e0 := minExp xs
      let t := sumAt e0 xs
      if t ≠ 0 then (.dy (t < 0) t.natAbs e0, 0)
      else if xs.all fun x => x.isZero && x.sign = (xs.headD .nan).sign then (.zero (xs.headD .nan).sign, 0)
      else (.zero rd, 0)

/-- One element of FP32 added to another with RNE, as atomics and REDs do (R291, R293). -/
def fadd32 (a b : Nat) : Nat :=
  (cvtFloat (fmtOfTy .f32) {} (sumN false [decodeF (fmtOfTy .f32) a, decodeF (fmtOfTy .f32) b]).1).1

/-! Elementary functions in fixed point: 768 fraction bits, of which 640 are kept and a rest is implied (R271). -/

def fxW : Nat := 768
def fxOne : Nat := 2 ^ fxW
def fxPi : Nat := 0x3243f6a8885a308d313198a2e03707344a4093822299f31d0082efa98ec4e6c89452821e638d01377be5466cf34e90c6cc0ac29b7c97c50dd3f84d5b5b54709179216d5d98979fb1bd1310ba698dfb5ac2ffd72dbd01adfb7b8e1afed6a267e96
def fxLn2 : Nat := 0xb17217f7d1cf79abc9e3b39803f2f6af40f343267298b62d8a0d175b8baafa2be7b876206debac98559552fb4afa1b10ed2eae35c138214427573b291169b8253e96ca16224ae8c51acbda11317c387eb9ea9bc3b136603b256fa0ec7657f74b

/-- The sum of x^k / k! from k on, given its first term. -/
def expGo (x : Nat) : Nat → Nat → Nat → Nat → Nat
  | 0, _, _, acc => acc
  | fuel + 1, k, t, acc => expGo x fuel (k + 1) (t * x / fxOne / (k + 1)) (acc + t)

/-- e^x for 0 ≤ x < 1 in fixed point. -/
def fxExp (x : Nat) : Nat := expGo x 200 0 fxOne 0

/-- The terms of the sine series two at a time: positive and negative sums. -/
def sinGo (x2 : Nat) : Nat → Nat → Nat → Nat → Nat → Nat
  | 0, _, _, p, n => p - n
  | fuel + 1, k, t, p, n =>
    let t1 := t * x2 / fxOne / ((k + 1) * (k + 2))
    sinGo x2 fuel (k + 4) (t1 * x2 / fxOne / ((k + 3) * (k + 4))) (p + t) (n + t1)

/-- sin x for 0 ≤ x ≤ 2 in fixed point. -/
def fxSin (x : Nat) : Nat := sinGo (x * x / fxOne) 60 1 x 0 0

/-- cos x for 0 ≤ x ≤ 1 in fixed point. -/
def fxCos (x : Nat) : Nat := sinGo (x * x / fxOne) 60 0 fxOne 0 0

/-- The series of atanh. -/
def atanhGo (z2 : Nat) : Nat → Nat → Nat → Nat → Nat
  | 0, _, _, acc => acc
  | fuel + 1, k, t, acc => atanhGo z2 fuel (k + 2) (t * z2 / fxOne) (acc + t / k)

/-- log2 m for 1 ≤ m < 2 in fixed point. -/
def fxLog2 (m : Nat) : Nat :=
  let z := (m - fxOne) * fxOne / (m + fxOne)
  2 * atanhGo (z * z / fxOne) 260 1 z 0 * fxOne / fxLn2

/-- A fixed-point magnitude as an irrational value with an exponent. -/
def fxNum (s : Bool) (v : Nat) (e : Int) : Num := .fin s (v / 2 ^ 128) 1 (e - 640) true

/-- A dyadic magnitude in fixed point. -/
def fxOf (n : Nat) (e : Int) : Nat := (fracOf (n * fxOne) 1 e).1 / (fracOf (n * fxOne) 1 e).2

/-- The integer square root by bisection from the top bit. -/
def isqrtGo (n : Nat) : Nat → Nat → Nat
  | 0, r => r
  | b + 1, r => let r' := r + 2 ^ b
                isqrtGo n b (if r' * r' ≤ n then r' else r)
def isqrt (n : Nat) : Nat := isqrtGo n (Nat.log2 n / 2 + 1) 0

/-- squareRoot of n / d × 2^e, with a rest. -/
def sqrtN (n d : Nat) (e : Int) : Num :=
  -- n/d · 2^e = (n · 2^k / d) · 2^(e-k) with e - k even
  let k : Nat := if e % 2 = 0 then 256 else 257
  let q := n * 2 ^ k / d
  let r := isqrt q
  .fin false r 1 ((e - k) / 2) (!(r * r = q && n * 2 ^ k % d = 0))

/-- 2^x for a dyadic x = ± n × 2^e. -/
def exp2N (s : Bool) (n : Nat) (e : Int) : Num :=
  if n = 0 then .dy false 1 0
  else if 20 ≤ floorLog2 n 1 + e then .fin false 1 1 (if s then -1000000 else 1000000) true
  else
    let nd := fracOf n 1 e
    let i : Int := if s then -((nd.1 / nd.2 : Nat) : Int) else (nd.1 / nd.2 : Nat)
    let rem := nd.1 % nd.2
    if rem = 0 then .dy false 1 i
    else
      let f := rem * fxOne / nd.2
      if s then fxNum false (fxExp ((fxOne - f) * fxLn2 / fxOne)) (i - 1) else fxNum false (fxExp (f * fxLn2 / fxOne)) i

/-- sin(π x) for x = n × 2^e > 0 not an integer: sign and magnitude. -/
def sinPiN (n : Nat) (e : Int) : Num :=
  let nd := fracOf n 1 e
  let r := nd.1 % (2 * nd.2)                 -- modulo 2
  let neg := nd.2 < r
  let r := if neg then r - nd.2 else r       -- modulo 1
  let r := if nd.2 < 2 * r then nd.2 - r else r
  if 2 * r = nd.2 then .dy neg 1 0
  else fxNum neg (fxSin (r * fxPi / nd.2)) 0

/-- cos(π x) for x = n × 2^e, x ≥ 0. -/
def cosPiN (n : Nat) (e : Int) : Num :=
  let nd := fracOf n 1 e
  let r := nd.1 % (2 * nd.2)
  let r := if nd.2 < r then 2 * nd.2 - r else r     -- 0 .. 1, even
  let neg := nd.2 < 2 * r
  let r := if neg then nd.2 - r else r              -- 0 .. 1/2
  if r = 0 then .dy neg 1 0
  else if 2 * r = nd.2 then .zero false
  else if 4 * r ≤ nd.2 then fxNum neg (fxCos (r * fxPi / nd.2)) 0
  else fxNum neg (fxSin ((nd.2 - 2 * r) * fxPi / (2 * nd.2))) 0

/-- tanh of a magnitude n × 2^e > 0. -/
def tanhN (s : Bool) (n : Nat) (e : Int) : Num :=
  if 8 ≤ floorLog2 n 1 + e then .fin s (2 ^ 640 - 1) 1 (-640) true
  else
    let y := fxOf (2 * n) e * fxOne / fxLn2          -- 2x / ln 2
    let i := y / fxOne
    let t := fxExp ((fxOne - y % fxOne) * fxLn2 / fxOne) / 2 ^ (i + 1)   -- e^(-2x)
    fxNum s ((fxOne - t) * fxOne / (fxOne + t)) 0

/-- The functions of R271 by code: 0x67 FRCP, 0x68 FRSQ, 0x69 FSQRT, 0x6A FEXP2, 0x6B FLOG2, 0x6C FSIN, 0x6D FCOS,
0x6E FTANH. -/
def funcN (op : Nat) (x : Num) : Num × BitVec 6 :=
  match x with
  | .nan => (.nan, 0)
  | .inf s =>
    match op with
    | 0x67 => (.zero s, 0)
    | 0x68 => if s then (.nan, fNV) else (.zero false, 0)
    | 0x69 => if s then (.nan, fNV) else (.inf false, 0)
    | 0x6A => (if s then .zero false else .inf false, 0)
    | 0x6B => if s then (.nan, fNV) else (.inf false, 0)
    | 0x6C | 0x6D => (.nan, fNV)
    | _ => (.dy s 1 0, 0)
  | .fin s n d e st =>
    if n = 0 then
      match op with
      | 0x67 | 0x68 => (.inf s, fDZ)
      | 0x69 | 0x6C => (.zero s, 0)
      | 0x6A | 0x6D => (.dy false 1 0, 0)
      | 0x6B => (.inf true, fDZ)
      | _ => (.zero s, 0)
    else
      match op with
      | 0x67 => (.fin s d n (-e) st, 0)
      | 0x68 => if s then (.nan, fNV) else (sqrtN d n (-e), 0)
      | 0x69 => if s then (.nan, fNV) else (sqrtN n d e, 0)
      | 0x6A => (exp2N s n e, 0)
      | 0x6B =>
        if s then (.nan, fNV)
        else
          let l := floorLog2 n 1
          let i := l + e
          if n = 2 ^ l.toNat then (.int i, 0)
          else
            let f := fxLog2 (fxOf n (-l))
            if 0 ≤ i then (fxNum false (i.toNat * fxOne + f) 0, 0) else (fxNum true ((-i).toNat * fxOne - f) 0, 0)
      | 0x6C =>
        let nd := fracOf n 1 e
        if nd.1 % nd.2 = 0 then (.zero s, 0)
        else (match sinPiN n e with | .fin s' a b c t => .fin (s != s') a b c t | y => y, 0)
      | 0x6D => (cosPiN n e, 0)
      | _ => (tanhN s n e, 0)

end Sys2Proof.Machine
end

