-- ==== Sys2Proof/Machine/Coh.lean ====
section
/-! DEFINITION. Locations of memory, caches, tokens, the directory and the write buffers (R19, R38, R39, R47-R55, R85-R106,
R113, R114). -/

namespace Sys2Proof.Machine

open Sys2Proof

/-! Flat locations of bytes (DESIGN CHOICE, unsafe: log 4): island HBM, host memory, scratchpads, cluster memories, Basins. -/

def locHost (h : Nat) : Nat := 2 ^ 48 + h
def locScratch (core b : Nat) : Nat := 2 ^ 50 + core * 2 ^ 18 + b
def locCluster (k b : Nat) : Nat := 2 ^ 51 + k * 2 ^ 19 + b
def locBasin (isl b : Nat) : Nat := 2 ^ 52 + isl * 2 ^ 26 + b
/-- A physical address of an island (R55): HBM, or host memory from 2^47 on. -/
def locPA (isl pa : Nat) : Nat := if pa < 2 ^ 47 then isl * 2 ^ 39 + pa else locHost (pa - 2 ^ 47)
def isHost (l : Nat) : Bool := 2 ^ 48 ≤ l && l < 2 ^ 50
/-- Global memory, cached and coherent, as against on-chip storage. -/
def isGlobal (l : Nat) : Bool := l < 2 ^ 50
/-- The physical address of a global location, as its islands number it. -/
def paOf (l : Nat) : Nat := if isHost l then l - 2 ^ 48 + 2 ^ 47 else l % 2 ^ 39
/-- The directory key of the line of a location of an island. -/
def lineKey (isl l : Nat) : Nat := isl * 2 ^ 41 + paOf l / 128
def lineIsl (lk : Nat) : Nat := lk / 2 ^ 41
def lineNo (lk : Nat) : Nat := lk % 2 ^ 41
/-- The location of the first byte of a line. -/
def lineLoc (lk : Nat) : Nat := locPA (lineIsl lk) (lineNo lk * 128)
/-- The key of a line in a caching agent: agent 0-127 a core, 128-143 a Pilot (R85). -/
def cacheKey (isl a ln : Nat) : Nat := (isl * 144 + a) * 2 ^ 41 + ln
/-- Home slice and set of a line (R49). -/
def sliceOf (ln : Nat) : Nat := ln % 96
def setOf (ln : Nat) : Nat := ln / 96 % 1024

/-! Host requests for a half line of island memory (R103). -/

/-- The line and the half of an HDM offset. -/
def hdmLine (off : Nat) : Nat := off / 2 ^ 39 * 2 ^ 41 + off % 2 ^ 39 / 128
def hdmHalf (off : Nat) : Nat := off / 64 % 2

/-- The offset that an event of the host names, when it is a request for a half line. -/
def hostOff : Instr → Option Nat
  | .hostMemrd off _ => some off
  | .hostMemwr off _ _ _ => some off
  | .hostMeminv off _ => some off
  | _ => none

/-! Operations of atomics and REDs on `w`-byte elements (R95, R292): 0 add, 1 FP32 add, 2 min s, 3 max s, 4 min n, 5 max n,
6 exchange (FX128 add in a RED), 8 and, 9 or, 10 xor. -/

def toS (bits v : Nat) : Int := if v < 2 ^ (bits - 1) then (v : Int) else (v : Int) - 2 ^ bits

def elemOp (op w old v : Nat) : Nat :=
  let m := 2 ^ (8 * w)
  match op with
  | 0 => (old + v) % m
  | 1 => fadd32 old v
  | 2 => if toS (8 * w) v < toS (8 * w) old then v else old
  | 3 => if toS (8 * w) old < toS (8 * w) v then v else old
  | 4 => min old v
  | 5 => max old v
  | 6 => if w = 16 then (old + v) % m else v
  | 8 => old &&& v
  | 9 => old ||| v
  | 10 => old ^^^ v
  | _ => v

/-- The identity a partial sum starts from (R95). -/
def identity (k : UKey) : Nat :=
  match k.op.toNat with
  | 2 => 2 ^ (8 * k.width - 1) - 1
  | 3 => 2 ^ (8 * k.width - 1)
  | 4 | 8 => 2 ^ (8 * k.width) - 1
  | _ => 0

/-! The sector CRC (R57): CRC-32C, polynomial 0x1EDC6F41 reflected. -/

def crc32cBits : Nat → W32 → W32
  | 0, c => c
  | n + 1, c => crc32cBits n (if c.getLsbD 0 then (c >>> 1) ^^^ 0x82F63B78 else c >>> 1)
def crc32c (bs : List Byte) : W32 := ~~~(bs.foldl (fun c b => crc32cBits 8 (c ^^^ b.setWidth 32)) 0xFFFFFFFF)

namespace State

/-! The directory. -/

def line (s : State) (lk : Nat) : Line := s.coh.lines.get {} lk
def setLine (s : State) (lk : Nat) (x : Line) : State := { s with coh.lines := s.coh.lines.put lk x }
def cline (s : State) (isl a ln : Nat) : CLine := s.coh.l1.get {} (cacheKey isl a ln)
def setCline (s : State) (isl a ln : Nat) (x : CLine) : State :=
  { s with coh.l1 := if x.tokens = 0 then s.coh.l1.del (cacheKey isl a ln) else s.coh.l1.put (cacheKey isl a ln) x }

/-- Agents the sharer record names (R86): a coarse bit stands for the cluster's eight cores and its Pilot. -/
def sharersOf : Sharers → List Nat
  | .ptr l => l
  | .coarse m => ((List.range 16).filter (m.getLsbD ·)).flatMap fun k => (List.range 8).map (k * 8 + ·) ++ [128 + k]

def clusterOfAgent (a : Nat) : Nat := if a < 128 then a / 8 else a - 128

/-- The record with one more holder: pointer mode up to four agents, coarse mode beyond (R86). -/
def addSharer (r : Sharers) (a : Nat) : Sharers :=
  match r with
  | .ptr l =>
    if l.contains a then .ptr l
    else if l.length < 4 then .ptr (l ++ [a])
    else .coarse ((a :: l).foldl (fun m b => m ||| (1#16 <<< clusterOfAgent b)) 0)
  | .coarse m => .coarse (m ||| (1#16 <<< clusterOfAgent a))

/-- Agents of an island that hold tokens of a line. -/
def holders (s : State) (isl ln : Nat) : List Nat :=
  (List.range 144).filter fun a => (s.cline isl a ln).tokens ≠ 0

/-- Agents that hold tokens of a line or to which tokens of it are on their way. -/
def holdersNow (s : State) (lk : Nat) : List Nat :=
  (List.range 144).filter fun a => (s.cline (lineIsl lk) a (lineNo lk)).tokens ≠ 0 || (s.line lk).flight.any fun f => f.dest = .agent a

/-- In pointer mode the record names exactly the agents that hold the line (R86). -/
def refreshSharers (s : State) (lk : Nat) : State :=
  let x := s.line lk
  match x.sharers with
  | .ptr l => s.setLine lk { x with sharers := .ptr (l.filter fun a => (s.holdersNow lk).contains a) }
  | .coarse _ => s

/-- An agent has answered a forward, recall or probe (R86, R102): a cluster bit falls when all nine agents of the cluster have answered
and none holds the line, and the record is exact again when every answer is in and at most four holders are known. -/
def probed (s : State) (lk a : Nat) : State :=
  let x := s.line lk
  match x.sharers with
  | .ptr _ => s.refreshSharers lk
  | .coarse m =>
    let h := s.holdersNow lk
    let k := clusterOfAgent a
    if x.fwds.isEmpty && h.length ≤ 4 then s.setLine lk { x with sharers := .ptr h }
    else if x.fwds.any (fun f => clusterOfAgent f.to_ = k) || h.any (fun b => clusterOfAgent b = k) then s
    else s.setLine lk { x with sharers := .coarse (m &&& ~~~(1#16 <<< k)) }

/-- MESI as the home sees it (R86, R87): E when the one recorded holder has every token. -/
def refreshMesi (s : State) (lk : Nat) : State :=
  let x := s.line lk
  let one : Bool := match x.sharers with | .ptr [_] => true | _ => false
  let m := if x.ukey.isSome then Mesi.U else if x.tokens = 144 then .I else if x.tokens = 0 && one && x.replicas.isEmpty then .E else .S
  s.setLine lk { x with mesi := m }

/-! Speculative windows (R126-R129). -/

def ownsFlag (r : ClauseRun) (k : Nat) : Nat :=
  (if r.leftA ≠ 0 && r.fa = some k then 1 else 0) + (if r.leftB ≠ 0 && r.fb = some k then 1 else 0)

/-- The class of an operation in flight (R213): none for a parked store or prefetch. -/
def opClassB (o : LOp) : Option Bool :=
  match o.kind with
  | .ld _ | .atom _ _ | .ldf => some false
  | .mma | .ald | .adrn _ => some true
  | .st _ | .red _ _ | .pref _ => none

/-- One register taken from a shadow copy, in the lanes of a mask. -/
def restoreReg (snap : Crew) (m : Mask) (c : Crew) : RegId → Crew
  | .v n =>
    let old := snap.vregs.get [] n
    let new := c.vregs.get [] n
    { c with vregs := c.vregs.put n (lanes32.map fun L => (if m.getLsbD L then old else new).getD L 0) }
  | .s n => { c with uni.sregs := c.uni.sregs.put n (snap.uni.sregs.get 0 n) }
  | .p n => { c with preds := c.preds.put n ((c.preds.get 0 n &&& ~~~m) ||| (snap.preds.get 0 n &&& m)) }
  | .q n => { c with uni.q := (c.uni.q &&& ~~~(1#7 <<< n)) ||| (snap.uni.q &&& (1#7 <<< n)) }
  | .w n => { c with uni.walkers := c.uni.walkers.put n (snap.uni.walkers.get {} n) }
  | .astat => c

/-- The crew with a window's work undone: registers, operations and clause runs begun in it, flag counts (R127). -/
def undoWindow (c : Crew) (entry : Nat) (m : Mask) (w : Window) : Crew :=
  let c1 := w.written.foldl (restoreReg w.snap m) c
  let gone := c1.runs.filter fun r => r.2.entry = entry && (w.first ≤ r.1 || r.1 = w.run)
  let before (clsB : Bool) : Nat := (c.ops.filter fun o => o.2.run = w.run && o.1 < w.first && opClassB o.2 = some clsB).length
  let back : ClauseRun := if w.run = 0 then {} else
    { w.runAt with leftA := w.runAt.leftA + before false, leftB := w.runAt.leftB + before true }
  let flags := (List.range 12).foldl (fun (t : Tbl Nat) k =>
    t.put k (t.get 0 k - (gone.map fun r => ownsFlag r.2 k).sum + ownsFlag back k)) c1.flags
  let runs := (gone.foldl (fun (t : Tbl ClauseRun) r => t.del r.1) c1.runs)
  { c1 with flags := flags
            runs := if back.leftA = 0 && back.leftB = 0 then runs else runs.put w.run back
            ops := c1.ops.filter fun o => !(o.2.entry = entry && w.first ≤ o.1) }

def bumpCounter (s : State) (core k : Nat) : State :=
  { s with mgt.counters := s.mgt.counters.upd 0 (core * 8 + k) fun n => min (n + 1) (2 ^ 64 - 1) }

/-- The flags of `sys.astat` that the open windows of a crew have raised, but for one fragment's (R127, R173). -/
def windowFlags (s : State) (ck but : Nat) : BitVec 6 :=
  s.exe.frags.foldl (fun m f => if f.1 / 320 = ck / 64 && f.2.crew = ck % 64 && f.1 ≠ but
    then m ||| (match f.2.window with | some w => w.raised | none => 0) else m) 0

/-- Rollback of the fragment in one berth entry: it resumes at the instruction after its fence (R127). -/
def rollback (s : State) (key : Nat) : State :=
  let f := s.exe.frags.get {} key
  match f.window with
  | none => s
  | some w =>
    let ck := key / 320 * 64 + f.crew
    let c := undoWindow (s.exe.crews.get {} ck) (key % 320) f.mask w
    let c := { c with astat := c.firm ||| s.windowFlags ck key }
    let f' := { f with ctl := w.after, run := w.run, acquire := none, lastHold := w.hold, tested := false, passed := 0, parked := none,
                       state := if w.after.sup then .handling else .ready, wait := 0, waitFor := .none,
                       window := some { w with count := 0, tried := false, lines := [], written := [], raised := 0, snap := {}, deferred := [] } }
    let s1 := { s with exe.crews := s.exe.crews.put ck c, exe.frags := s.exe.frags.put key f' }
    s1.bumpCounter (key / 320) 2

/-- Rollback of every fragment of a core whose window read a line, but for the crew that writes it (R127). -/
def rollbackLine (s : State) (core lk : Nat) (writer : Option Nat) : State :=
  (s.exe.frags.filter fun f => f.1 / 320 = core && f.2.window.any (·.lines.contains lk)
      && writer ≠ some (core * 64 + f.2.crew)).foldl (fun s f => s.rollback f.1) s

/-- The core of an agent number, if it is one. -/
def coreOfAgent (isl a : Nat) : Option Nat := if a < 128 then some (isl * 128 + a) else none

def rollbackAgent (s : State) (isl a lk : Nat) : State :=
  match coreOfAgent isl a with | some c => s.rollbackLine c lk none | none => s

/-! Messages and tokens (R88, R100). -/

/-- The home sends a message to each of some agents. -/
def sendFwds (s : State) (lk : Nat) (hs : List Nat) (k : FwdKind) : State :=
  let x := s.line lk
  { s.setLine lk { x with fwds := x.fwds ++ hs.zipIdx.map fun h => { to_ := h.1, kind := k, seq := s.coh.msgs + h.2 } } with
    coh.msgs := s.coh.msgs + hs.length }

/-- Tokens set on their way. -/
def fly (s : State) (lk : Nat) (src dest : TokDest) (n : Nat) (owner : Bool) : State :=
  let x := s.line lk
  if n = 0 then s
  else { s.setLine lk { x with flight := x.flight ++ [{ dest := dest, n := n, owner := owner, src := src, seq := s.coh.msgs }] } with
         coh.msgs := s.coh.msgs + 1 }

/-- Tokens of an agent leave it for `dest`; a dirty owner's data goes with them (R88). -/
def sendTokens (s : State) (isl a ln : Nat) (dest : TokDest) : State :=
  let lk := isl * 2 ^ 41 + ln
  let c := s.cline isl a ln
  if c.tokens = 0 then s
  else
    let s1 := (s.setCline isl a ln { c with tokens := 0 }).rollbackAgent isl a lk
    let x := s1.line lk
    let r := match dest with | .agent b => addSharer x.sharers b | _ => x.sharers
    ((s1.setLine lk { x with l2dirty := x.l2dirty || c.dirty, sharers := r }).fly lk (.agent a) dest c.tokens c.owner).refreshSharers lk

/-- A holder keeps one token, as S, and sends the rest to the home (R72): its copy is downgraded. -/
def keepOne (s : State) (isl a ln : Nat) : State :=
  let lk := isl * 2 ^ 41 + ln
  let c := s.cline isl a ln
  if c.tokens ≤ 1 then s
  else
    let s1 := (s.setCline isl a ln { c with tokens := 1, owner := false, dirty := false }).rollbackAgent isl a lk
    let x := s1.line lk
    (s1.setLine lk { x with l2dirty := x.l2dirty || c.dirty }).fly lk (.agent a) .home (c.tokens - 1) c.owner

/-- A partial line is combined at its home and dropped by its holder (R97). -/
def combine (s : State) (isl a ln : Nat) : State :=
  let lk := isl * 2 ^ 41 + ln
  match s.coh.partials.find (cacheKey isl a ln) with
  | none => s
  | some u =>
    let base := lineLoc lk
    let m := (u.elems.zipIdx).foldl (fun m e =>
      let at_ := base + e.2 * u.key.width
      Memory.writeN m at_ (elemOp u.key.op.toNat u.key.width (Memory.readN m at_ u.key.width) e.1) u.key.width) s.mem
    let x := s.line lk
    let hs := x.uholders.filter (· ≠ a)
    let x' := { x with uholders := hs, ukey := if hs.isEmpty then none else x.ukey, l2dirty := true }
    { s with mem := m, coh.partials := s.coh.partials.del (cacheKey isl a ln) }.setLine lk x'

/-- An agent gives up a line: its partial line is combined, its tokens go home (R69, R88, R97). -/
def evictL1 (s : State) (isl a ln : Nat) : State := (s.combine isl a ln).sendTokens isl a ln .home

/-! Transient states of the home (R94): each is entered here and left when its condition holds. -/

/-- Recall of every copy (R88, R94). A holder of another precinct answers "not present" (R102). -/
def startRecall (s : State) (lk : Nat) : State :=
  let x := s.line lk
  if x.trans ≠ .none then s
  else (s.setLine lk { x with trans := .recall }).sendFwds lk (sharersOf x.sharers) .recall

/-- Merge recall to every U holder (R97). -/
def startMerge (s : State) (lk : Nat) : State :=
  let x := s.line lk
  if x.trans ≠ .none then s
  else (s.setLine lk { x with trans := .merge }).sendFwds lk x.uholders .merge

/-- The line has replicas, redirect entries, or replicas on their way to helper slices (R95, R98). -/
def replicated (x : Line) : Bool :=
  !x.replicas.isEmpty || !x.redirects.isEmpty || x.flight.any fun f => match f.dest with | .helper _ => true | _ => false

/-- Recall of the replicas and removal of the redirect entries, which every interface acknowledges (R99). -/
def startUnrepl (s : State) (lk : Nat) : State :=
  let x := s.line lk
  if x.trans ≠ .none then s
  else
    let s1 := s.setLine lk { x with trans := .unrepl, replicas := [] }
    let s2 := x.replicas.foldl (fun (s : State) (r : Replica) => s.fly lk (.helper r.slice) .home r.tokens false) s1
    s2.sendFwds lk (List.range 144) .unredirect

/-- Translation invalidation of every sharer (R72). -/
def startTx (s : State) (lk : Nat) : State :=
  let x := s.line lk
  if x.tx then s
  else
    let ts := (List.range 18).filter (x.trSharers.getLsbD ·)
    { s with trn.tinvs := s.trn.tinvs ++ ts.map fun t => (lineIsl lk, t, lk) }.setLine lk
      { x with tx := true, tacksDue := ts.length }

/-- A host request for a half line that waits in the line's queue. -/
def heldHost (h : Nat) : Held → Option Instr
  | .host i => match hostOff i with | some off => if hdmHalf off = h then some i else none | none => none
  | _ => none

/-- Requests of the host for a half that is to be back-invalidated and that wait in the line's queue go to the bridge: they have met the
back-invalidation, and come first (R105). -/
def meetHeld (s : State) (lk h : Nat) : State :=
  let x := s.line lk
  match x.held.filterMap (heldHost h) with
  | [] => s
  | is => { s.setLine lk { x with held := x.held.filter fun g => (heldHost h g).isNone } with
            coh.bridge := s.coh.bridge ++ is, coh.heldM2S := s.coh.heldM2S ++ [(lk, h, false)] }

/-- Back-invalidation of the host's halves (R104): BISnpData for a read, BISnpInv for a write. -/
def startBi (s : State) (lk : Nat) (inv : Bool) : State :=
  let x := s.line lk
  if x.trans ≠ .none then s
  else
    let need (h : HS) : Bool := if inv then h ≠ .I else h = .A
    let hs := (if need x.hs0 then [(0, inv)] else []) ++ (if need x.hs1 then [(1, inv)] else [])
    hs.foldl (fun s h => s.meetHeld lk h.1) (s.setLine lk { x with trans := .biw, bisnp := hs })

/-- Something waits behind a blocked line, in order of arrival (R94). -/
def holdFor (s : State) (lk : Nat) (h : Held) : State :=
  let x := s.line lk
  if x.held.contains h then s else s.setLine lk { x with held := x.held ++ [h] }

/-- No transient state, and no invalidation of translations, blocks the line (R94). -/
def settled (x : Line) : Bool := x.trans = .none && !x.tx

/-- Nothing blocks the line; nor does a walk at the head of its queue wait for a copy in E or M to be downgraded (R72, R77, R94). -/
def unblocked (x : Line) : Bool := settled x && !x.held.any fun h => match h with | .walk _ _ => true | _ => false

/-- A home-performed access to some lines waits behind those of them that are blocked (R94). -/
def holdLines (s : State) (h : Held) (lks : List Nat) : State :=
  lks.foldl (fun s lk => if unblocked (s.line lk) then s else s.holdFor lk h) s

/-- A request waits behind a blocked line, with a wait notice (R90, R94). -/
def hold (s : State) (lk rid : Nat) : State :=
  let s1 := s.holdFor lk (.req rid)
  match s1.coh.reqs.find rid with
  | some r => { s1 with coh.reqs := s1.coh.reqs.put rid { r with sent := s1.clock, state := if r.state = 0 then 1 else r.state } }
  | none => s1

/-- The home keeps a token of its own: while a TLB or the host shares the line, or the host has given it in S only, no agent may come to hold
it in E or M (R72, R104, R106). -/
def keepsToken (x : Line) : Bool := x.trSharers ≠ 0 || x.hs0 ≠ .I || x.hs1 ≠ .I || x.owned = some false

/-- The home may read the line's data now: no partial sums, no half in A, nothing in progress (R97, R104). -/
def homeReadable (x : Line) : Bool := unblocked x && x.ukey.isNone && x.hs0 ≠ .A && x.hs1 ≠ .A

/-- The home may perform a write to the line now: every token at home, no partial sum, replica, translation sharer or
host copy (R72, R85, R99, R104). -/
def homeWritable (x : Line) : Bool :=
  unblocked x && x.ukey.isNone && x.tokens = 144 && !replicated x && x.trSharers = 0 && x.hs0 = .I && x.hs1 = .I

/-- The host page of a host-coherent frame may be cached by its owner island only (R106). -/
def hostAllowed (s : State) (isl pa : Nat) : Bool := s.coh.hostOwner.get 0 ((pa - 2 ^ 47) / 65536) = isl + 1

/-- What the home needs of the host before it may serve a line of host memory (R106): the line, or a request for it. -/
inductive HostFill
  | ok
  | wait
  | refused
  deriving DecidableEq, Repr

def hostFill (s : State) (lk : Nat) (own : Bool) : State × HostFill :=
  let x := s.line lk
  let pa := lineNo lk * 128
  if !isHost (lineLoc lk) then (s, .ok)
  else if s.mgt.mod.hpoBusy && (pa - 2 ^ 47) / 65536 = s.mgt.mod.hpoPage then (s, .wait)
  else if !s.hostAllowed (lineIsl lk) pa then (s, .refused)
  else if !x.hostOwn.isEmpty then (s, .wait)
  else if x.owned = some true || (x.owned = some false && !own) then (s, .ok)
  else (s.setLine lk { x with hostOwn := [(0, own), (1, own)], owned := none }, .wait)

/-- The host has given the home what an access to the line needs (R106). -/
def hostGives (s : State) (lk : Nat) (own : Bool) : State × Bool :=
  match s.hostFill lk own with
  | (s1, .ok) => (s1, true)
  | (s1, _) => (s1, false)

/-- Makes a line readable at its home, a step at a time; true when it is. -/
def gatherRead (s : State) (lk : Nat) : State × Bool :=
  let x := s.line lk
  if homeReadable x then s.hostGives lk false
  else if !unblocked x then (s, false)
  else if x.ukey.isSome then (s.startMerge lk, false)
  else (s.startBi lk false, false)

/-- Makes a line writable at its home, a step at a time; true when it is. -/
def gatherWrite (s : State) (lk : Nat) : State × Bool :=
  let x := s.line lk
  if homeWritable x then s.hostGives lk true
  else if !unblocked x then (s, false)
  else if x.ukey.isSome then (s.startMerge lk, false)
  else if replicated x then (s.startUnrepl lk, false)
  else if x.hs0 ≠ .I || x.hs1 ≠ .I then (s.startBi lk true, false)
  else if x.trSharers ≠ 0 then (s.startTx lk, false)
  else (s.startRecall lk, false)

/-- Every copy of the line at its home, a step at a time: partial sums merged, replicas recalled, translation sharers invalidated if
`tr`, every token recalled; true when it is. The host's halves stay. -/
def gatherHome (s : State) (lk : Nat) (tr : Bool) : State × Bool :=
  let x := s.line lk
  if !unblocked x then (s, false)
  else if x.ukey.isSome then (s.startMerge lk, false)
  else if replicated x then (s.startUnrepl lk, false)
  else if tr && x.trSharers ≠ 0 then (s.startTx lk, false)
  else if x.tokens = 144 then (s, true)
  else (s.startRecall lk, false)

/-- OWNTAG becomes the requester's, once every copy of another precinct is recalled and the host's given up (R102, R104). -/
def ownTag (s : State) (lk tag : Nat) : State × Bool :=
  let x := s.line lk
  if x.owntag = tag then (s, true)
  else if x.owntag = 0 then (s.setLine lk { x with owntag := tag }, true)
  else match s.gatherHome lk false with
    | (s1, false) => (s1, false)
    | (s1, true) =>
      if x.hs0 ≠ .I || x.hs1 ≠ .I then (s1.startBi lk true, false)
      else (s1.setLine lk { s1.line lk with owntag := tag, sharers := .ptr [] }, true)

/-- The lines a range of global memory covers. -/
def linesOfRange (isl loc n : Nat) : List Nat :=
  if n = 0 then [] else
    (List.range ((loc % 128 + n - 1) / 128 + 1)).map fun k => lineKey isl (loc / 128 * 128 + 128 * k)

/-- Gathers every line of a range for an access through a page of attribute `ca`; on-chip storage needs nothing, and an uncached host
page passes each access to the host (R50, R106). -/
def gatherRange (s : State) (isl loc n ca : Nat) (wr : Bool) : State × Bool :=
  if !isGlobal loc || (isHost loc && ca = 3) then (s, true)
  else (linesOfRange isl loc n).foldl (fun r lk =>
    let t := if wr then r.1.gatherWrite lk else r.1.gatherRead lk
    (t.1, r.2 && t.2)) (s, true)

/-! Uncorrectable and correctable errors (R57-R59). -/

/-- Storage of 4-byte words with a code of their own: scratchpads and cluster memories (R57). -/
def isWords (loc : Nat) : Bool := 2 ^ 50 ≤ loc && loc < 2 ^ 52

/-- A line of memory is uncorrectable: its sector CRC does not match, or its code fails (R59). -/
def badLine (s : State) (loc : Nat) : Bool := (s.coh.bad.find (loc / 128)).isSome

/-- The 4-byte words, or the 128-byte lines, that a range touches. -/
def unitsOf (u loc n : Nat) : List Nat := if n = 0 then [] else (List.range ((loc % u + n - 1) / u + 1)).map (loc / u + ·)

/-- The sector CRC that a line carries (R58): that of its data, but for the error it holds. It is born with the data, changed by a partial
store by that store's contribution, and replaced by a write of the whole line, so that the error alone need be kept. -/
def sectorCrc (s : State) (l : Nat) : W32 := crc32c (Memory.readBytes s.mem (l * 128) 128) ^^^ s.coh.bad.get 0 l

/-- A read of a range meets an uncorrectable word or line (R57, R59). -/
def badRead (s : State) (loc n : Nat) : Bool :=
  if isWords loc then (unitsOf 4 loc n).any fun w => s.coh.badWords.contains w
  else (unitsOf 128 loc n).any fun l => (s.coh.bad.find l).isSome

/-- A word or line that a store does not replace whole is uncorrectable, so that the store fails (R57, R59). `whole` are lines that its
instruction writes wholly. -/
def badWrite (s : State) (whole : List Nat) (loc n : Nat) : Bool :=
  if isWords loc then (unitsOf 4 loc n).any fun w => s.coh.badWords.contains w && !(loc ≤ 4 * w && 4 * w + 4 ≤ loc + n)
  else (unitsOf 128 loc n).any fun l => (s.coh.bad.find l).isSome && !whole.contains l && !(loc ≤ 128 * l && 128 * l + 128 ≤ loc + n)

/-- Correctable errors that a read of a range corrects (R57). -/
def softIn (s : State) (loc n : Nat) : Nat :=
  if s.coh.soft.isEmpty then 0
  else if isWords loc then ((unitsOf 4 loc n).filter fun w => s.coh.soft.contains w).length
  else ((unitsOf 128 loc n).filter fun l => s.coh.soft.contains (l + 2 ^ 60)).length

/-- Every byte of a unit lies in one of the ranges. -/
def coveredBy (ps : List (Nat × Nat)) (lo n : Nat) : Bool :=
  (List.range n).all fun i => ps.any fun p => p.1 ≤ lo + i && lo + i < p.1 + p.2

/-- Words and lines that a write replaces whole have a fresh code and sector CRC (R57-R59). -/
def cleanCovered (s : State) (ps : List (Nat × Nat)) : State :=
  { s with
    coh.bad := s.coh.bad.filter fun e => !coveredBy ps (e.1 * 128) 128
    coh.badWords := s.coh.badWords.filter fun w => !coveredBy ps (w * 4) 4
    coh.soft := s.coh.soft.filter fun u => !(if u < 2 ^ 60 then coveredBy ps (u * 4) 4 else coveredBy ps ((u - 2 ^ 60) * 128) 128) }

/-- Bytes written to memory. A write of part of a line changes its stored sector CRC by its own contribution only, so that an error
stays; one of a whole line replaces it (R58). -/
def store (s : State) (loc : Nat) (bs : List Byte) : State :=
  { s with mem := Memory.writeBytes s.mem loc bs }.cleanCovered [(loc, bs.length)]

/-! L1 lines, marks and victims (R47, R51-R53). -/

/-- The mark after a touch (R52). Hints: 0 evict-normal, 1 evict-first, 2 evict-last, 3 no-allocate. -/
def markAfter (hint : Nat) (m : CMark) : CMark :=
  match hint, m with
  | 0, _ => .none
  | 1, .last => .last
  | 1, _ => .first
  | 2, _ => .last
  | _, m => m

def fillMark (hint : Nat) : CMark := match hint with | 1 => .first | 2 => .last | _ => .none

/-- A crew has an access before this one that is not yet performed. -/
def comesBehind (s : State) (t : IssueNo) : Bool :=
  t.crew ≠ 0 && (((s.exe.crews.get {} (t.crew - 1)).ops.any fun o => o.1 < t.po) ||
    s.coh.wbuf.any fun e => e.crew + 1 = t.crew && e.po < t.po)

/-- A touch of a mark, and those that its crew issued later and that came first, again: the touches of one crew act in the order of their issue
(R54; DEDUCED, safe: log 141). -/
def retouch (s : State) (ts : List (IssueNo × Nat)) (t : IssueNo) (hint : Nat) (m : CMark) : CMark × List (IssueNo × Nat) :=
  let later := ts.filter fun e => e.1.crew = t.crew && t.po < e.1.po
  ((later.foldl (fun m e => markAfter e.2 m) (markAfter hint m)),
   ((ts.filter fun e => e.1.po ≤ t.po) ++ [(t, hint)] ++ ts.filter fun e => t.po < e.1.po).filter fun e => s.comesBehind e.1)

/-- A touch of a line an agent holds (R52). -/
def touch (s : State) (isl a ln hint : Nat) (t : IssueNo) : State :=
  let c := s.cline isl a ln
  if hint = 3 || c.tokens = 0 then s
  else
    let r := s.retouch c.touches t hint c.mark
    { s with choices := s.choices + 1 }.setCline isl a ln { c with mark := r.1, touches := r.2, used := s.choices }

/-- A touch of a line in the L2. -/
def touchL2 (s : State) (lk hint : Nat) (t : IssueNo) : State :=
  let x := s.line lk
  if hint = 3 || !x.inL2 then s
  else
    let r := s.retouch x.touches t hint x.mark
    { s with choices := s.choices + 1 }.setLine lk { x with mark := r.1, touches := r.2, used := s.choices }

def markRank : CMark → Nat | .first => 0 | .none => 1 | .last => 2

/-- The victim among lines with mark and recency: first, then none, then last, least recently used (R53). -/
def victimOf (cs : List (Nat × CMark × Nat)) : Option Nat :=
  (cs.foldl (fun (b : Option (Nat × CMark × Nat)) c =>
    match b with
    | none => some c
    | some y => if markRank c.2.1 < markRank y.2.1 || (markRank c.2.1 = markRank y.2.1 && c.2.2 < y.2.2) then some c else b)
    none).map (·.1)

/-- Sets and ways of an agent's data cache: 128 × 8 in an L1, 32 × 8 in a Pilot's (R47, R48). -/
def setsOf (a : Nat) : Nat := if a < 128 then 128 else 32

/-- The lines and partial lines of an agent's cache in the set of a virtual address: line, mark, recency (R47, R96). -/
def setEntries (s : State) (isl a va : Nat) : List (Nat × CMark × Nat) :=
  let on (k v : Nat) : Bool := k / 2 ^ 41 = isl * 144 + a && v / 128 % setsOf a = va / 128 % setsOf a
  ((s.coh.l1.filter fun e => on e.1 e.2.va).map fun e => (e.1 % 2 ^ 41, e.2.mark, e.2.used))
    ++ (s.coh.partials.filter fun e => on e.1 e.2.va).map fun e => (e.1 % 2 ^ 41, e.2.mark, e.2.used)

/-- The requests of an agent. -/
def reqsOf (s : State) (isl a : Nat) : List Req := (s.coh.reqs.filter fun r => r.2.isl = isl && r.2.agent = a).map (·.2)

/-- A way for one more line in the set of a virtual address: an invalid one that no fill in progress will take, else the set's victim
gives way; a line with a transaction in progress is no victim, and false says that none is eligible yet (R53). -/
def makeRoom (s : State) (isl a va ln : Nat) : State × Bool :=
  let es := (s.setEntries isl a va).filter fun e => e.1 ≠ ln
  let rs := s.reqsOf isl a
  let fills := (rs.filter fun r => r.va / 128 % setsOf a = va / 128 % setsOf a && lineNo r.line ≠ ln
    && es.all fun e => e.1 ≠ lineNo r.line).length
  if es.length + fills < 8 then (s, true)
  else match victimOf (es.filter fun e => rs.all fun r => lineNo r.line ≠ e.1) with
    | some v => (s.evictL1 isl a v, decide (es.length + fills ≤ 8))
    | none => (s, false)

/-! Requests of caching agents (R47, R70, R89-R92, R101). -/

/-- The virtual line under which an agent asks, and how. -/
structure Ask where
  isl : Nat
  agent : Nat
  lk : Nat
  tag : Nat
  spn : Nat
  va : Nat
  hint : Nat := 0
  turn : IssueNo := {}              -- whose access asks, and its place in program order (R54)
  ways : BitVec 16 := 0xFFFF
  spec : Bool := false           -- a load of a speculative window, which only the L1 serves (R126)

/-- Key of a permit count (R101). Privileged agents: Pilots 0-15, the island agent of the Harbourmaster 16, walkers 17-34. -/
def permitKey (isl slice p : Nat) : Nat := (isl * 96 + slice) * 35 + p

/-- A privileged agent takes a permit of a line's slice, if it has one free (R101). -/
def takePermit (s : State) (lk p : Nat) : Option State :=
  let k := permitKey (lineIsl lk) (sliceOf (lineNo lk)) p
  if 4 ≤ s.coh.permits.get 0 k then none else some { s with coh.permits := s.coh.permits.upd 0 k (· + 1) }

/-- The permit returns with the reply (R101). -/
def givePermit (s : State) (lk p : Nat) : State :=
  { s with coh.permits := s.coh.permits.upd 0 (permitKey (lineIsl lk) (sliceOf (lineNo lk)) p) (· - 1) }

def freePermit (s : State) (a lk : Nat) : State := if a < 128 then s else s.givePermit lk (a - 128)

/-- An agent's request to the home returns its permit; what waits in the queue of a blocked line keeps it. -/
def queueAt (s : State) (lk p : Nat) (h : Held) : State :=
  if (s.line lk).held.contains h then s
  else match s.takePermit lk p with
    | some s1 => s1.holdFor lk h
    | none => s

/-- Line misses of an agent in flight: its requests, and the slots that parked accesses of its core hold, one for each line (R47, R79). -/
def missesOf (s : State) (isl a : Nat) : Nat :=
  let parked := (s.exe.crews.filter fun c => a < 128 && c.1 / 64 = isl * 128 + a).flatMap fun c =>
    c.2.ops.flatMap fun o => (o.2.accs.filter (·.parked)).map fun x => (c.2.gang, x.va.toNat / 128)
  (s.reqsOf isl a).length + parked.eraseDups.length

/-- A request to the home: none while the agent has one for the line, has 256 misses in flight, finds no way for the line, or, a Pilot,
holds no permit of the slice (R47, R53, R101). -/
def request (s : State) (q : Ask) (k : ReqKind) : State :=
  let ln := lineNo q.lk
  if (s.reqsOf q.isl q.agent).any (·.line = q.lk) || 256 ≤ s.missesOf q.isl q.agent then s
  else
    let room : State × Bool :=
      if (s.cline q.isl q.agent ln).tokens ≠ 0 || (s.coh.partials.find (cacheKey q.isl q.agent ln)).isSome then (s, true)
      else s.makeRoom q.isl q.agent q.va ln
    match room with
    | (s1, false) => s1
    | (s1, true) =>
      match (if q.agent < 128 then some s1 else s1.takePermit q.lk (q.agent - 128)) with
      | none => s1
      | some s2 =>
        let r : Req := { isl := q.isl, agent := q.agent, line := q.lk, kind := k, tag := q.tag, spn := q.spn, va := q.va,
                         born := s2.clock, sent := s2.clock, seq := s2.coh.msgs, hint := q.hint, turn := q.turn, ways := q.ways }
        { s2 with exe.ids := s2.exe.ids + 1, coh.msgs := s2.coh.msgs + 1, coh.reqs := s2.coh.reqs.put (s2.exe.ids + 1) r }

/-- The agent's copy is held under the tag asked for: virtual line and SPN (R47). -/
def tagged (c : CLine) (q : Ask) : Bool := c.spn = q.spn && c.va = q.va

/-- The agent's cluster TLB, inclusive of its caches, has an entry for the address asked for (R69). -/
def covered (s : State) (isl a spn va : Nat) : Bool :=
  s.trn.tlb.any fun e => e.isl = isl && e.tlb = clusterOfAgent a && e.spn = spn && e.page ≤ va && va < e.page + e.size

/-- A copy under another tag or SPN is evicted before the line is filled under the tag asked for (R70). -/
def dropAlias (s : State) (q : Ask) : State :=
  let c := s.cline q.isl q.agent (lineNo q.lk)
  if c.tokens = 0 || tagged c q then s else s.evictL1 q.isl q.agent (lineNo q.lk)

/-- What waits at a home slice in one of its entries of ordinary requests: requests of cores, and accesses of cores, engines and arrivals that are
performed there (R100, R101). -/
def takesEntry (s : State) : Held → Bool
  | .req n => match s.coh.reqs.find n with | some q => q.agent < 128 | none => false
  | .entry n => match s.coh.wbuf.find? (·.id = n) with | some e => e.core % 144 < 128 | none => false
  | .host _ | .walk _ _ | .agent => false
  | .op _ _ | .arr _ | .land _ _ | .gran _ _ _ => true

/-- The slice has one of its 256 entries of ordinary requests free (R100). -/
def hasSlot (s : State) (isl sl : Nat) : Bool :=
  ((s.coh.lines.filter fun e => lineIsl e.1 = isl && sliceOf (lineNo e.1) = sl).map fun e =>
    (e.2.held.filter s.takesEntry).length + e.2.qf.length).sum < 256

/-- An agent's access may be performed at the home slice of the line: the requests that it sent to the slice before have arrived (R100), the slice
has an entry for it, or a Pilot a permit (R100, R101), and the line is its precinct's (R102). -/
def homeMay (s : State) (q : Ask) : State × Bool :=
  let sl := sliceOf (lineNo q.lk)
  if (s.reqsOf q.isl q.agent).any fun r => (r.state = 0 || r.state = 2) && sliceOf (lineNo r.line) = sl then (s, false)
  else if (if 128 ≤ q.agent then decide (4 ≤ s.coh.permits.get 0 (permitKey q.isl sl (q.agent - 128))) else !s.hasSlot q.isl sl) then (s, false)
  else s.ownTag q.lk q.tag

/-- A data read is counted; the least recently counted of 32 candidates gives way (R98). -/
def countHot (s : State) (lk : Nat) : State :=
  let slice := lineIsl lk * 96 + sliceOf (lineNo lk)
  let mine := s.coh.hot.filter fun h => h.slice = slice
  match mine.find? fun h => h.line = lk with
  | some h =>
    let h1 : Hot := if s.clock ≤ h.first + 2000 || 256 ≤ h.count then { h with count := h.count + 1, used := s.clock }
                    else { h with count := 1, first := s.clock, used := s.clock }
    { s with coh.hot := s.coh.hot.map fun g => if g = h then h1 else g }
  | none =>
    let oldest := mine.foldl (fun (b : Option Hot) h => match b with
      | none => some h
      | some x => if h.used < x.used then some h else b) none
    let kept := match oldest with | some o => if 32 ≤ mine.length then s.coh.hot.erase o else s.coh.hot | none => s.coh.hot
    { s with coh.hot := kept ++ [{ slice := slice, line := lk, count := 1, first := s.clock, used := s.clock }] }

/-- An agent's read, which is counted (R98), or write, at the home slice of a line. -/
def homeRead (s : State) (q : Ask) : State × Bool :=
  match s.homeMay q with
  | (s1, true) => match s1.gatherRead q.lk with
    | (s2, true) => (s2.countHot q.lk, true)
    | r => r
  | r => r
def homeWrite (s : State) (q : Ask) : State × Bool :=
  match s.homeMay q with | (s1, true) => s1.gatherWrite q.lk | r => r

/-- The agent may read the line, or asks for it (R88). No line is filled for a no-allocate access, nor for one whose TLB entry has
gone since it was translated: it is served at the home (R52, R69, R73), but for a load of a window, which waits (R126). -/
def needRead (s : State) (q : Ask) : State × Bool :=
  let c := s.cline q.isl q.agent (lineNo q.lk)
  if c.tokens ≠ 0 && tagged c q then (s.touch q.isl q.agent (lineNo q.lk) q.hint q.turn, true)
  else if q.hint = 3 || !s.covered q.isl q.agent q.spn q.va then (if q.spec then (s, false) else s.homeRead q)
  else ((s.dropAlias q).request q .read, false)

/-- The agent may write the line, or asks for it (R88); one whose TLB entry has gone is written at the home (R73). -/
def needOwn (s : State) (q : Ask) : State × Bool :=
  let c := s.cline q.isl q.agent (lineNo q.lk)
  if c.tokens = 144 && tagged c q then (s.touch q.isl q.agent (lineNo q.lk) q.hint q.turn, true)
  else if !s.covered q.isl q.agent q.spn q.va then s.homeWrite q
  else ((s.dropAlias q).request q .own, false)

/-- The access that began an agent's requests for a line has been performed (R92, R93): a persistent request is to be
deactivated, a queued forward passes the line on. -/
def accessDone (s : State) (isl a lk : Nat) : State :=
  s.coh.reqs.foldl (fun s r =>
    if r.2.isl = isl && r.2.agent = a && r.2.line = lk && (r.2.state = 3 || r.2.state = 4) then
      { s with coh.reqs := s.coh.reqs.put r.1 { r.2 with state := 5 } }
    else s) s

end State

end Sys2Proof.Machine
end

