-- ==== Sys2Proof/Machine/L2.lean ====
section
/-! DEFINITION. Residence of lines in the L2: fills and victims (R49, R52, R53, R72, R94, R98, R99, R104, R106, R354). -/

namespace Sys2Proof.Machine

open Sys2Proof

/-- A way of an L2 set that is taken: by a line at its home slice, or by a replica. -/
structure Way where
  lk : Nat
  rep : Bool := false
  way : Nat
  mark : CMark
  used : Nat
  busy : Bool                -- in a fill or with a transaction in progress

namespace State

/-- The ways taken in a set of a slice (R49, R98). -/
def l2Ways (s : State) (isl sl set : Nat) : List Way :=
  s.coh.lines.flatMap fun e =>
    if lineIsl e.1 ≠ isl || setOf (lineNo e.1) ≠ set then []
    else
      (if e.2.inL2 && sliceOf (lineNo e.1) = sl then
        [{ lk := e.1, way := e.2.way, mark := e.2.mark, used := e.2.used,
           busy := !unblocked e.2 || !e.2.fwds.isEmpty || !e.2.flight.isEmpty || !e.2.hostOwn.isEmpty }] else [])
      ++ (e.2.replicas.filter fun r => r.live && r.slice = sl).map fun r =>
        { lk := e.1, rep := true, way := r.way, mark := r.mark, used := r.used, busy := !unblocked e.2 }

/-- A line placed in a way of its set. -/
def placeL2 (s : State) (lk hint way : Nat) (t : IssueNo) : State :=
  let x := s.line lk
  { s with choices := s.choices + 1 }.setLine lk { x with inL2 := true, way := way, mark := fillMark hint, used := s.choices,
                                                                 touches := [(t, hint)], filling := none }

/-- What the bridge sends the host about the halves of a host-coherent line that is given up (R106). -/
def evictMsgs (s : State) (lk : Nat) (dirty : Bool) (halves : List Nat) : State :=
  let l := lineLoc lk
  let one (h : Nat) : CxlMsg := if dirty then .dirtyEvict lk h (Memory.readBytes s.mem (l + 64 * h) 64) else .cleanEvict lk h
  { s with mgt.mod := { s.mgt.mod with cxlOut := s.mgt.mod.cxlOut ++ halves.map one } }

/-- A line leaves the L2, every copy of it gone (R53, R94). -/
def dropL2 (s : State) (lk : Nat) : State :=
  let x := s.line lk
  let s1 := s.setLine lk { x with inL2 := false, way := 0, mark := .none, used := 0, touches := [], l2dirty := false, owned := none }
  if isHost (lineLoc lk) && x.owned.isSome then s1.evictMsgs lk x.l2dirty [0, 1] else s1

/-- A helper gives its replica up: its tokens go home, and the home removes the redirect entries that name it, those of the agents that it serves
(R98, R99). -/
def dropReplica (s : State) (lk sl : Nat) : State :=
  let x := s.line lk
  let n := ((x.replicas.filter fun r => r.live && r.slice = sl).map (·.tokens)).sum
  let serves (a : Nat) : Bool := match a % (x.replicas.length + 1) with
    | 0 => false
    | j + 1 => match x.replicas[j]? with | some r => r.slice = sl | none => false
  let s1 := s.setLine lk { x with replicas := x.replicas.map fun r => if r.slice = sl then { r with tokens := 0, live := false } else r
                                  redirects := x.redirects.filter fun e => !serves e.1 }
  s1.fly lk (.helper sl) .home n false

/-- A line given up by its home, a step at a time: copies, partial sums, replicas, translation sharers and the host's halves first; true
when nothing of it is left elsewhere (R53, R72, R94, R99, R104). -/
def gatherEvict (s : State) (lk : Nat) : State × Bool :=
  let x := s.line lk
  if !unblocked x then (s, false)
  else if x.ukey.isSome then (s.startMerge lk, false)
  else if replicated x then (s.startUnrepl lk, false)
  else if x.hs0 ≠ .I || x.hs1 ≠ .I then (s.startBi lk true, false)
  else if x.tokens ≠ 144 then (s.startRecall lk, false)
  else if x.trSharers ≠ 0 then (s.startTx lk, false)
  else (s, true)

/-- A victim that another fill has chosen. -/
def claimed (s : State) (lk v : Nat) : Bool :=
  s.coh.lines.any fun e => e.1 ≠ lk && (e.2.filling = some v || e.2.making.any (·.2 = v))

/-- A victim gives up its way; true when it has. -/
def giveWay (s : State) (sl : Nat) (v : Way) : State × Bool :=
  if v.rep then (s.dropReplica v.lk sl, true)
  else match s.gatherEvict v.lk with
    | (s1, true) => (s1.dropL2 v.lk, true)
    | (s1, false) => (s1, false)

/-- A way of a slice for a line or its replica (R53): an invalid one; else that of the victim already `chosen`; else of the set's victim.
None while the victim is being given up, which is then the second answer, or while no way is eligible. -/
def takeWay (s : State) (lk sl : Nat) (ways : BitVec 16) (chosen : Option Nat) : State × Option Nat × Option Nat :=
  let es := (s.l2Ways (lineIsl lk) sl (setOf (lineNo lk))).filter fun e => ways.getLsbD e.way
  match (List.range 16).find? fun w => ways.getLsbD w && es.all fun e => e.way ≠ w with
  | some w => (s, some w, none)
  | none =>
    let old := chosen.bind fun c => es.find? fun e => e.lk = c && !e.rep
    let pick : Option Way := match old with
      | some v => some v
      | none =>
        let ok := es.filter fun e => !e.busy && !s.claimed lk e.lk
        (victimOf (ok.zipIdx.map fun e => (e.2, e.1.mark, e.1.used))).bind fun i => ok[i]?
    match pick with
    | none => (s, none, none)
    | some v =>
      match s.giveWay sl v with
      | (s1, true) => (s1, some v.way, none)
      | (s1, false) => (s1, none, some v.lk)

/-- A line is made resident within the ways a requester may fill; not yet while its victim is being given up. -/
def fillL2 (s : State) (lk hint : Nat) (ways : BitVec 16) (t : IssueNo) : State × Bool :=
  if (s.line lk).inL2 then (s.touchL2 lk hint t, true)
  else if hint = 3 then (s, true)
  else match s.takeWay lk (sliceOf (lineNo lk)) ways (s.line lk).filling with
    | (s1, some w, _) => (s1.placeL2 lk hint w t, true)
    | (s1, none, v) => (s1.setLine lk { s1.line lk with filling := v }, false)

end State

end Sys2Proof.Machine
end

