-- ==== Sys2Proof/Machine/Access.lean ====
section
/-! DEFINITION. Resolution of addresses: apertures, lane-private slices, skewed windows, page tables and TLBs (R16-R27,
R43, R60-R71, R78). -/

namespace Sys2Proof.Machine

open Sys2Proof

/-- A field of a 64-bit word. -/
def fld (w : W64) (lo n : Nat) : Nat := w.toNat / 2 ^ lo % 2 ^ n

/-- Who makes an access: the TLB and context it translates in, its mode, the gang, cluster group and crew that local
apertures are relative to (R23), what identifies it as a writer of aperture registers, and which of the accesses of a step it makes (R35). -/
structure Who where
  isl : Nat
  tlb : Nat
  spn : Nat
  sup : Bool
  gang : Option Nat := none
  crewG : Option Nat := none     -- crew index within the grid, for lane-private slices
  agent : Option Nat := none     -- caching agent number
  id : Nat := 0
  wid : Nat := 0
  acc : Nat := 0
  po : Nat := 0                  -- the place of the access in program order; 0: made at issue
  spec : Bool := false           -- a load of a speculative window (R126)
  deriving DecidableEq, Repr

/-- What an address resolves to. -/
inductive Res
  | pa (l ca : Nat)                          -- translated: location and cache attribute
  | space (ap o lim : Nat)                   -- aperture 0 LP to 5 XCM, offset, bound
  | fault (c : Byte) (fpte : W64)
  | park
  | busy
  deriving DecidableEq, Repr

/-- A release covers a parked access: order, SPN and address (R73). -/
def Release.covers (r : Release) (isl tlb : Nat) (p : Nat × Nat × Nat) : Bool :=
  r.isl = isl && r.tlb = tlb && r.spn = p.2.1 && r.page ≤ p.2.2 && p.2.2 < r.page + r.size && p.1 < r.below

namespace State

/-- The resident precinct that holds a cluster of an island, or the one named by that cluster when none does. -/
def precinctOf (s : State) (cl : Nat) : Nat :=
  match s.mgt.precincts.find? fun p => p.2.valid && p.2.state ≠ .swapped && p.1 ≤ cl && cl < p.1 + 2 ^ p.2.size with
  | some p => p.1
  | none => cl

/-- Registers outside the module block act once the module runs in full or minimal mode (R414). -/
def booted (s : State) : Bool := s.mgt.mod.mode = 1 || s.mgt.mod.mode = 2

def precinct (s : State) (p : Nat) : Precinct := s.mgt.precincts.get {} p
/-- A cluster belongs to the clusters that a precinct names. -/
def holdsCluster (s : State) (p cl : Nat) : Bool := p ≤ cl && cl < p + 2 ^ (s.precinct p).size
def setPrecinct (s : State) (p : Nat) (x : Precinct) : State := { s with mgt.precincts := s.mgt.precincts.put p x }
def ctx (s : State) (isl spn : Nat) : Ctx := s.trn.ctxs.get {} (isl * 4096 + spn)
def setCtx (s : State) (isl spn : Nat) (c : Ctx) : State := { s with trn.ctxs := s.trn.ctxs.put (isl * 4096 + spn) c }
def gangAt (s : State) (k : Nat) : Gang := s.exe.gangs.get {} k
def task (s : State) (k : Nat) : Option Task := s.mgt.tasks.find k

/-- A field of a launch record. -/
def recN (bs : List Byte) (lo n : Nat) : Nat := Memory.readN (bs.zipIdx.map fun b => (b.2, b.1)) lo n

/-! The task, gang and context of the current agent. -/

def gangKey (s : State) : Nat := s.core * 16 + s.crew.gang
def gang (s : State) : Gang := s.gangAt s.gangKey
def taskOf (s : State) (g : Gang) : Option Task := s.task g.task
/-- The context number of the gang's task. -/
def spnOfGang (s : State) (g : Gang) : Nat := match s.taskOf g with | some t => t.spn | none => 0
def spn (s : State) : Nat := if s.pilot then s.thread.spn else s.spnOfGang s.gang
/-- Lane-private slice size and backing of a gang's grid (R34). -/
def lpsize (s : State) (g : Gang) : Nat := match s.taskOf g with | some t => recN t.record 40 4 % 2 ^ 14 * 16 | none => 0
def lpback (s : State) (g : Gang) : Nat :=
  match s.taskOf g with
  | some t => if s.lpsize g = 0 then 0 else recN t.record 48 8 % 2 ^ 52
  | none => 0

/-- A crew (core × 64 + slot) as the maker of an access, in a mode. -/
def crewWho (s : State) (ck : Nat) (sup : Bool) : Who :=
  let core := ck / 64
  let c := s.exe.crews.get {} ck
  let g := s.gangAt (core * 16 + c.gang)
  { isl := core / 128, tlb := core % 128 / 8, spn := s.spnOfGang g, sup := sup, gang := some (core * 16 + c.gang),
    crewG := some (g.id * g.crews.length + c.idx), agent := some (core % 128), id := ck, wid := 4 * c.uid }

/-- The current agent as the maker of an access. -/
def me (s : State) : Who :=
  if s.pilot then { isl := s.isl, tlb := s.cluster % 16, spn := s.spn, sup := s.sup, agent := some (128 + s.cluster % 16),
                    id := 2 ^ 40 + s.tkey, wid := 4 * s.thread.uid + 1 }
  else s.crewWho s.ckey s.sup

/-! Apertures (R19-R23). -/

/-- The values of an address register that an access may use besides the newest (R35): those that the writes of other crews since have
replaced, back to the accessor's own last write. -/
def olderFor (wid : Nat) (l : List (Nat × W64)) : List W64 := (l.reverse.takeWhile fun o => o.1 ≠ wid).map (·.2)

/-- The value of a per-context address register that an access uses: between a SYSWR and its writer's FENCE.T each access of another
crew uses the old or the new value (R35). After two writes, neither yet fenced, it is any of the three (DESIGN CHOICE, safe: log 109).
0-5 apertures, 6 the Basin window. -/
def apReg (s : State) (w : Who) (k : Nat) : W64 :=
  let c := s.ctx w.isl w.spn
  let new := if k = 6 then c.bsnwin else c.aps.get 0 k
  let old := olderFor w.wid (c.older.get [] k)
  if old.isEmpty then new else (new :: old).getD (Config.freeChoice (2 ^ 128 + (s.choices * 2 ^ 32 + w.acc) * 8 + k) % (old.length + 1)) new

/-- Regions of each aperture. -/
def apRegions (k : Nat) : Nat := match k with | 3 => 8 | 4 => 4 | _ => 1

def groupOf (s : State) (g : Gang) : Group := s.exe.groups.get {} g.group

/-- The bound of an aperture for its user: bytes from its base (R19, R20). -/
def apLimit (s : State) (w : Who) (k : Nat) : Nat :=
  let g := s.gangAt (w.gang.getD 0)
  match k with
  | 0 => min (s.lpsize g) (2 ^ 18)
  | 1 => min (g.spSize * 2048) (2 ^ 18)
  | 2 => min ((s.groupOf g).cmSize * 4096) (2 ^ 19)
  | 3 => let r := s.apReg w 6; min (fld r 16 11 * 65536) (2 ^ 26 - fld r 0 10 * 65536)
  | 4 => 128 * 2 ^ 18
  | _ => 16 * 2 ^ 19

/-- Accesses that may use an aperture (R22, R23). -/
def apAdmits (w : Who) (k : Nat) (a : AKind) : Bool :=
  match a with
  | .fetch => false
  | .remoteRead | .remoteWrite | .remoteAdd => 3 ≤ k
  | .engineRead | .engineWrite => k ≠ 0 && (3 ≤ k || w.gang.isSome)
  | .agentRead | .agentWrite => k = 3
  | .atomic => k = 3 || ((k = 1 || k = 2) && w.gang.isSome)
  | _ => k = 3 || (k ≤ 2 && w.gang.isSome)

/-- The first enabled aperture whose regions hold the address (R21). -/
def apHit (s : State) (w : Who) (va : Nat) : List Nat → Option (Nat × Nat)
  | [] => none
  | k :: ks =>
    let r := s.apReg w k
    let first := fld r 23 29
    if fld r 0 1 = 1 && first ≤ va / 2 ^ 23 && va / 2 ^ 23 < first + apRegions k then some (k, first * 2 ^ 23)
    else s.apHit w va ks

/-! The page-table walk (R60-R66). -/

def inArena (c : Ctx) (a n : Nat) : Bool :=
  let base := fld c.ptarena 23 25 * 2 ^ 23
  base ≤ a && a + n ≤ base + fld c.ptarena 52 12 * 2 ^ 23 && a + n ≤ 2 ^ 39

/-- `sys.fpte` for an entry and its level (R84). -/
def fpteOf (a level : Nat) : W64 := BitVec.ofNat 64 (a / 8 * 8 + level)

def dirBad (c : Ctx) (t : W64) : Bool :=
  fld t 48 16 ≠ 0 || fld t 1 11 ≠ 0 || !inArena c (fld t 12 36 * 4096) 4096

def regionBad (c : Ctx) (e : W64) : Bool :=
  fld e 48 14 ≠ 0 || fld e 0 5 ≠ 0 || (fld e 62 2 = 1 && fld e 5 5 ≠ 0)
    || !inArena c (fld e 5 43 * 32) (if fld e 62 2 = 1 then 1024 else 32)

/-- A malformed PTE (R65); `size` is the page's. -/
def pteBad (p : W64) (size : Nat) : Bool :=
  let pa := fld p 16 32 * 65536
  fld p 48 16 ≠ 0 || fld p 10 2 ≠ 0 || pa % size ≠ 0 || (2 ^ 39 ≤ pa && pa < 2 ^ 47)
    || (fld p 6 2 = 2 && pa < 2 ^ 47) || (fld p 6 2 ≤ 1 && 2 ^ 47 ≤ pa)

inductive WalkRes
  | ok (p : W64) (size a level : Nat) (lines : List Nat)
  | fault (c : Byte) (fpte : W64)
  | busy
  deriving DecidableEq, Repr

/-- Walks of a TLB that wait at homes; a cluster's are at most 256 (R68). -/
def walksOf (s : State) (isl tlb : Nat) : Nat :=
  ((s.coh.lines.filter fun e => tlb < 16 && lineIsl e.1 = isl).map fun e =>
    (e.2.held.filter fun h => match h with | .walk t _ => t = tlb | _ => false).length).sum

/-- An 8-byte read of an entry at its home (R66, R72): the TLB becomes a translation sharer, for which the home keeps a token; where an
agent may hold the line in E or M its copy is recalled with the holder kept as S. None while the line is blocked; the walk then waits in
its queue with a request permit of the walker (R94, R101), one for each entry: a walk that needs an entry which another is reading joins it (R68). -/
def readEntry (s : State) (isl tlb a : Nat) : State × Option W64 :=
  let lk := lineKey isl (locPA isl a)
  let x := s.line lk
  match s.trn.replies.find? fun r => r.1 = isl && r.2.1 = tlb && r.2.2.1 = a with
  | some r => ({ s with trn.replies := s.trn.replies.erase r }, some r.2.2.2)
  | none =>
  if 4 ≤ s.coh.permits.get 0 (permitKey isl (sliceOf (lineNo lk)) (17 + tlb)) then (s, none)
  else if homeReadable x && 1 ≤ x.tokens then
    (s.setLine lk { x with trSharers := x.trSharers ||| (1#18 <<< tlb) }, some (BitVec.ofNat 64 (Memory.readN s.mem (locPA isl a) 8)))
  else if 256 ≤ s.walksOf isl tlb then (s, none)
  else if !unblocked x then (s.queueAt lk (17 + tlb) (.walk tlb a), none)
  else if x.ukey.isSome then ((s.startMerge lk).queueAt lk (17 + tlb) (.walk tlb a), none)
  else if !homeReadable x then ((s.startBi lk false).queueAt lk (17 + tlb) (.walk tlb a), none)
  else if x.fwds.any (fun f => f.kind = .downgrade) || x.flight.any (fun f => f.dest = .home) then (s, none)
  else if (s.holders isl (lineNo lk)).any (fun h => 2 ≤ (s.cline isl h (lineNo lk)).tokens) || !x.flight.isEmpty then
    (s.sendFwds lk (sharersOf x.sharers) .downgrade, none)
  else ((s.startRecall lk).queueAt lk (17 + tlb) (.walk tlb a), none)

/-- The walk cache of a cluster TLB (R68): 1,024 directory and region entries, the oldest giving way (DESIGN CHOICE, unsafe: log 110). -/
def readCached (s : State) (isl tlb spn a : Nat) : State × Option W64 :=
  match s.trn.wcache.find? fun e => e.isl = isl && e.tlb = tlb && e.spn = spn && e.precinct = (s.ctx isl spn).precinct && e.addr = a with
  | some e => (s, some e.entry)
  | none => s.readEntry isl tlb a

/-- The entries that a walk has met are cached when it succeeds; each with the lines read up to it. -/
def cacheWalk (s : State) (isl tlb spn : Nat) (es : List (Nat × W64)) : State :=
  if 16 ≤ tlb then s
  else es.zipIdx.foldl (fun s e =>
    let a := e.1.1
    let p := (s.ctx isl spn).precinct
    if s.trn.wcache.any fun c => c.isl = isl && c.tlb = tlb && c.spn = spn && c.precinct = p && c.addr = a then s
    else
      let mine := s.trn.wcache.filter fun c => c.isl = isl && c.tlb = tlb
      let kept := match mine with | v :: _ => if 1024 ≤ mine.length then s.trn.wcache.erase v else s.trn.wcache | [] => s.trn.wcache
      { s with trn.wcache := kept ++ [{ isl := isl, tlb := tlb, spn := spn, precinct := p, addr := a, entry := e.1.2,
                                        lines := (es.take (e.2 + 1)).map fun p => lineKey isl (locPA isl p.1) }] }) s

/-- The walk of R66. -/
def pageWalk (s : State) (isl tlb spn va : Nat) : State × WalkRes :=
  let c := s.ctx isl spn
  let line (a : Nat) := lineKey isl (locPA isl a)
  let r := fld c.ptroot 14 34 * 2 ^ 14
  let a1 := r + va / 2 ^ 41 % 2048 * 8
  if !inArena c r (2 ^ 14) then (s, .fault 2 (fpteOf a1 1))
  else match s.readCached isl tlb spn a1 with
  | (s1, none) => (s1, .busy)
  | (s1, some t) =>
    if fld t 0 1 = 0 then (s1, .fault 1 (fpteOf a1 1))
    else if dirBad c t then (s1, .fault 2 (fpteOf a1 1))
    else
      let a2 := fld t 12 36 * 4096 + va / 2 ^ 32 % 512 * 8
      match s1.readCached isl tlb spn a2 with
      | (s2, none) => (s2, .busy)
      | (s2, some m) =>
        if fld m 0 1 = 0 then (s2, .fault 1 (fpteOf a2 2))
        else if dirBad c m then (s2, .fault 2 (fpteOf a2 2))
        else
          let a3 := fld m 12 36 * 4096 + va / 2 ^ 23 % 512 * 8
          match s2.readCached isl tlb spn a3 with
          | (s3, none) => (s3, .busy)
          | (s3, some e) =>
            let sz := fld e 62 2
            if sz = 0 then (s3, .fault 1 (fpteOf a3 3))
            else if sz = 3 then
              let p := e &&& 0x3FFFFFFFFFFFFFFF
              if fld p 0 1 = 0 then (s3, .fault 1 (fpteOf a3 3))
              else if pteBad p (2 ^ 23) then (s3, .fault 2 (fpteOf a3 3))
              else (s3.cacheWalk isl tlb spn [(a1, t), (a2, m)], .ok p (2 ^ 23) a3 3 [line a1, line a2, line a3])
            else if regionBad c e then (s3, .fault 2 (fpteOf a3 3))
            else
              let size := if sz = 1 then 65536 else 2 ^ 21
              let a4 := fld e 5 43 * 32 + (if sz = 1 then va / 2 ^ 16 % 128 else va / 2 ^ 21 % 4) * 8
              match s3.readEntry isl tlb a4 with
              | (s4, none) => (s4, .busy)
              | (s4, some p) =>
                if fld p 0 1 = 0 then (s4, .fault 1 (fpteOf a4 4))
                else if pteBad p size then (s4, .fault 2 (fpteOf a4 4))
                else (s4.cacheWalk isl tlb spn [(a1, t), (a2, m), (a3, e)], .ok p size a4 4 [line a1, line a2, line a3, line a4])

/-! TLBs (R68, R69, R71). -/

/-- Agents whose caches a cluster TLB is inclusive of. -/
def tlbAgents (tlb : Nat) : List Nat := if tlb < 16 then (List.range 8).map (tlb * 8 + ·) ++ [128 + tlb] else []

/-- Lines of code of a page leave the instruction caches of a cluster (R69). -/
def dropCode (s : State) (isl tlb spn page size : Nat) : State :=
  { s with coh.icache := s.coh.icache.filter fun e =>
      let agent := e.1 / 2 ^ 45 / 4096
      let va := e.1 % 2 ^ 45 * 128
      !((tlbAgents tlb).any (isl * 144 + · = agent) && e.1 / 2 ^ 45 % 4096 = spn && page ≤ va && va < page + size) }

/-- Every cache line that an evicted entry covers goes with it; dirty lines and partial sums are written back (R69). -/
def dropPage (s : State) (isl tlb spn page size : Nat) : State :=
  let hit (spn' va : Nat) : Bool := spn' = spn && page ≤ va && va < page + size
  let ls := (s.coh.l1.filter fun e => (tlbAgents tlb).any (isl * 144 + · = e.1 / 2 ^ 41) && hit e.2.spn e.2.va).map (·.1)
  let us := (s.coh.partials.filter fun e => (tlbAgents tlb).any (isl * 144 + · = e.1 / 2 ^ 41) && hit e.2.spn e.2.va).map (·.1)
  ((ls ++ us).foldl (fun s k => s.evictL1 isl (k / 2 ^ 41 % 144) (k % 2 ^ 41)) s).dropCode isl tlb spn page size

def tlbCap (tlb : Nat) : Nat := if tlb < 16 then 16384 else if tlb = 16 then 4096 else 1024

/-- The TLB that the local accesses of an island operation use (R68): the arrival TLB for a GET's landings, else its cluster's. -/
def tlbOfOp (o : IslOp) : Nat := if o.kind = .get then 16 else if o.pilot then o.crew / 4 % 16 else o.crew / 64 % 128 / 8

/-- Parked accesses of a TLB: order, SPN and address (R78). Those of arrivals belong to the arrival TLB. -/
def parkedIn (s : State) (isl tlb : Nat) : List (Nat × Nat × Nat) :=
  ((s.eng.ops.filter fun o => o.2.isl = isl && tlbOfOp o.2 = tlb).filterMap fun o => o.2.parked.map fun p => (p.1, o.2.spn, p.2)) ++
  if tlb = 16 then (s.eng.arrivals.filter fun a => a.2.isl = isl).filterMap fun a => a.2.parked.map fun p => (p.1, a.2.desc.spn.toNat, p.2)
  else ((s.eng.tenders.filter fun t => t.1 / 8 = isl * 16 + tlb).flatMap fun t =>
      t.2.flatMap fun r => (r.granules.flatMap fun g => g.todo.filterMap (·.parked)).map fun p => (p.1, r.spn, p.2)) ++ ((s.exe.crews.filter fun c => c.1 / 64 / 8 = isl * 16 + tlb).flatMap fun c =>
      c.2.ops.flatMap fun o => (o.2.accs.filter fun a => a.parked && a.fault.isNone).map fun a =>
        (a.pseq, s.spnOfGang (s.gangAt (c.1 / 64 * 16 + c.2.gang)), a.pva))
    ++ ((s.exe.threads.filter fun t => t.1 / 4 = isl * 16 + tlb && t.2.state = .wait).filterMap fun t =>
      t.2.parked.map fun p => (p.1, t.2.spn, p.2))
    ++ ((s.exe.frags.filter fun f => f.1 / 320 / 8 = isl * 16 + tlb && f.2.mask ≠ 0).filterMap fun f =>
      f.2.parked.map fun p => (p.1, s.spnOfGang (s.gangAt (f.1 / 320 * 16 + (s.exe.crews.get {} (f.1 / 320 * 64 + f.2.crew)).gang)), p.2))

/-- A parked access has been released (R73). -/
def freed (s : State) (isl tlb : Nat) (p : Nat × Nat × Nat) : Bool := s.trn.released.any fun r => r.covers isl tlb p

/-- A parked access may be translated again: it is released, and none parked before it in its TLB is (R78). -/
def mayReplay (s : State) (isl tlb : Nat) (p : Nat × Nat × Nat) : Bool :=
  s.freed isl tlb p && (s.parkedIn isl tlb).all fun q => p.1 ≤ q.1 || !s.freed isl tlb q

/-- An entry leaves its TLB, with the cache lines of its page; the accesses parked on it are released (R69, R73). The next invalidation of a line
that its walk read waits for the accesses that used it (R74). -/
def dropEntry (s : State) (e : TlbE) : State :=
  let r : Release := { isl := e.isl, tlb := e.tlb, spn := e.spn, page := e.page, size := e.size, below := s.exe.ids + 1 }
  let live (r : Release) : Bool := (s.parkedIn r.isl r.tlb).any fun p => r.covers r.isl r.tlb p
  { s with trn.tlb := s.trn.tlb.erase e, trn.evicted := s.trn.evicted ++ [e], trn.released := (s.trn.released ++ [r]).filter live }.dropPage e.isl e.tlb e.spn e.page e.size

/-- An entry is cached; a full TLB evicts its oldest: the spec names no order among them (DESIGN CHOICE, unsafe: log 110; R68, R69). -/
def tlbInsert (s : State) (e : TlbE) : State :=
  let mine := s.trn.tlb.filter fun x => x.isl = e.isl && x.tlb = e.tlb
  let s1 := if mine.length < tlbCap e.tlb then s
    else match mine with
      | v :: _ => s.dropEntry v
      | [] => s
  { s1 with trn.tlb := s1.trn.tlb ++ [e] }

/-- The entry as a TLB holds it: a region entry that is a page's own loses its size field (R66). -/
def entryOf (level : Nat) (e : W64) : Option W64 :=
  if level ≠ 3 then some e else if fld e 62 2 = 3 then some (e &&& 0x3FFFFFFFFFFFFFFF) else none

/-- A or D set in an entry at its home, translation-neutral; false, and nothing set, where the entry has changed but for A and D (R71). -/
def setAD (s : State) (isl a level : Nat) (seen : W64) (d : Bool) : State × Bool :=
  let now := BitVec.ofNat 64 (Memory.readN s.mem (locPA isl a) 8)
  let ad : W64 := 0x300
  if (entryOf level now).any fun e => e ||| ad = seen ||| ad then
    ({ s with mem := Memory.writeN s.mem (locPA isl a) (now ||| (if d then 0x200 else 0x100)).toNat 8 }, true)
  else (s, false)

def needsRead : AKind → Bool
  | .load | .prefetch | .cctl | .atomic | .remoteRead | .remoteAdd | .engineRead | .agentRead => true
  | _ => false
def needsWrite : AKind → Bool
  | .store | .atomic | .remoteWrite | .remoteAdd | .engineWrite | .agentWrite => true
  | _ => false

/-- The cached entry of a TLB for an address. -/
def cached (s : State) (w : Who) (va : Nat) : Option TlbE :=
  s.trn.tlb.find? fun e => e.isl = w.isl && e.tlb = w.tlb && e.spn = w.spn && e.page ≤ va && va < e.page + e.size

/-- The cached entry of a page, or the walk's (R66, R68). A is set when the result is first cached (R71). -/
def lookup (s : State) (w : Who) (va : Nat) : State × WalkRes :=
  match s.cached w va with
  | some e => (s, .ok e.pte e.size e.addr e.level e.lines)
  | none =>
    match s.pageWalk w.isl w.tlb w.spn va with
    | (s1, .ok p size a level ls) =>
      let s2 := s1.tlbInsert { isl := w.isl, tlb := w.tlb, spn := w.spn, precinct := (s.ctx w.isl w.spn).precinct,
                               page := va / size * size, size := size, pte := p ||| 0x100, addr := a, level := level, lines := ls }
      ((s2.setAD w.isl a level p false).1, .ok (p ||| 0x100) size a level ls)
    | r => r

/-- A cached entry after its D was set. -/
def tlbSetD (s : State) (isl a : Nat) : State :=
  { s with trn.tlb := s.trn.tlb.map fun e => if e.isl = isl && e.addr = a then { e with pte := e.pte ||| 0x200 } else e }

/-- Translation of a virtual address (R66). -/
def translate (s : State) (w : Who) (va : Nat) (k : AKind) : State × Res :=
  if !(s.ctx w.isl w.spn).live then (s, .fault 2 0)
  else match s.lookup w va with
  | (s1, .busy) => (s1, .busy)
  | (s1, .fault c f) => (s1, .fault c f)
  | (s1, .ok p size a level _) =>
    let f := fpteOf a level
    if fld p 1 1 = 1 then (s1, .park)
    else if fld p 12 4 ≠ (s1.precinct (s1.ctx w.isl w.spn).precinct).tag then (s1, .fault 2 f)
    else if fld p 5 1 = 1 && !w.sup then (s1, .fault 2 f)
    else if needsRead k && fld p 2 1 = 0 then (s1, .fault 2 f)
    else if needsWrite k && fld p 3 1 = 0 then (s1, .fault 2 f)
    else if k = .fetch && fld p 4 1 = 0 then (s1, .fault 2 f)
    else
      let pa := fld p 16 32 * 65536 + va % size
      if fld p 6 2 = 2 && !s1.hostAllowed w.isl pa then (s1, .fault 2 0)
      else if needsWrite k && fld p 9 1 = 0 then
        match s1.setAD w.isl a level p true with
        | (s2, true) => (s2.tlbSetD w.isl a, .pa (locPA w.isl pa) (fld p 6 2))
        | (s2, false) => ((match s2.cached w va with | some e => s2.dropEntry e | none => s2), .busy)   -- translated again (R71)
      else (s1, .pa (locPA w.isl pa) (fld p 6 2))

/-- Resolution of a generic address (R24). -/
def resolve (s : State) (w : Who) (a : W64) (width : Nat) (k : AKind) : State × Res :=
  let va := a.toNat
  if 2 ^ 52 ≤ va then (s, .fault 2 0)
  else if va % width ≠ 0 then (s, .fault 3 0)
  else if va < 0x10000 then (s, .fault 1 0)
  else match s.apHit w va [0, 1, 2, 3, 4, 5] with
  | some (x, base) =>
    if !w.sup && fld (s.apReg w x) 1 1 = 0 then (s, .fault 2 0)
    else if !apAdmits w x k then (s, .fault 2 0)
    else if s.apLimit w x < va - base + width then (s, .fault 7 0)
    else (s, .space x (va - base) (s.apLimit w x))
  | none => s.translate w va k

/-- The storage of an aperture offset other than LP (R19); XSP and XCM reach only their precinct's (R22). -/
def apLoc (s : State) (w : Who) (x o : Nat) : Option Nat :=
  let g := s.gangAt (w.gang.getD 0)
  let pr := (s.ctx w.isl w.spn).precinct
  match x with
  | 1 => some (locScratch (w.gang.getD 0 / 16) (g.spBase * 2048 + o))
  | 2 => let gr := s.groupOf g; some (locCluster gr.cluster (gr.cmBase * 4096 + o))
  | 3 => some (locBasin w.isl (fld (s.apReg w 6) 0 10 * 65536 + o))
  | 4 => let c := w.isl * 128 + o / 2 ^ 18
         if s.precinctOf (clusterOfCore c) = pr then some (locScratch c (o % 2 ^ 18)) else none
  | 5 => let k := w.isl * 16 + o / 2 ^ 19
         if s.precinctOf k = pr then some (locCluster k (o % 2 ^ 19)) else none
  | _ => none

/-- The backing address of a lane-private offset (R26). -/
def lpBacking (s : State) (w : Who) (o L : Nat) : Nat :=
  let g := s.gangAt (w.gang.getD 0)
  s.lpback g + w.crewG.getD 0 * (s.lpsize g * 32) + o / 4 * 128 + L * 4 + o % 4

/-- The value of a tile window that an access of a crew uses: the newest, or one that the TWIN of another crew has replaced, unless the access
is ordered after that TWIN (R45; log 47). -/
def twinFor (s : State) (w : Who) (g : Gang) (n : Nat) : W64 :=
  let new := g.twin.get 0 n
  let old := (((g.twinOld.filter (·.n = n)).reverse.takeWhile fun e => e.writer ≠ w.id && !e.ordered.contains w.id).map (·.old))
  if old.isEmpty then new
  else (new :: old).getD (Config.freeChoice (2 ^ 128 * (2 + n) + s.choices * 2 ^ 32 + w.acc) % (old.length + 1)) new

/-- The offset of a skewed access within the gang's allocation (R43, R46). -/
def spOffset (s : State) (w : Who) (g : Gang) (o : Nat) : Nat :=
  if s.mgt.mod.mode = 2 then o
  else
    let win (n : Nat) : Option Nat :=
      let t := s.twinFor w g n
      let base := fld t 0 11 * 128
      let rows := fld t 16 12
      if rows ≠ 0 && base ≤ o && o < base + rows * 128 then
        let d := o - base
        some (base + d / 128 * 128 + (d % 128 / 4 + d / 128) % 32 * 4 + o % 4)
      else none
    ([0, 1, 2, 3].findSome? win).getD o

/-- What a lane's access comes to: pieces of storage, a fault, a parked access, or not yet. -/
inductive LRes
  | ok (locs : List (Nat × Nat)) (ca : Nat)
  | fault (c : Byte) (addr : W64) (fpte : W64)
  | park (va : Nat)
  | busy
  deriving DecidableEq, Repr

/-- The translation of a backing address of a lane-private slice, like that of any other global address (R17, R18, R26): beyond the virtual
space it has no permission, in the null guard it is not present. One inside an enabled aperture is translated all the same: R18 says that
the entries of such a region are not consulted, R26 that the backing is translated (DESIGN CHOICE, unsafe: log 111). -/
def backing (s : State) (w : Who) (b : Nat) (k : AKind) : State × Res :=
  if 2 ^ 52 ≤ b then (s, .fault 2 0) else if b < 0x10000 then (s, .fault 1 0) else s.translate w b k

/-- The 4-byte parts of a lane-private access, lowest first; the lowest faulting part decides (R26). -/
def lpParts (s : State) (w : Who) (k : AKind) (L : Nat) : List (Nat × Nat) → State × LRes
  | [] => (s, .ok [] 0)
  | (o, n) :: r =>
    let b := s.lpBacking w o L
    match s.backing w b k with
    | (s1, .pa l ca) =>
      match s1.lpParts w k L r with
      | (s2, .ok ls _) => (s2, .ok ((l, n) :: ls) ca)
      | x => x
    | (s1, .fault c f) => (s1, .fault c (BitVec.ofNat 64 b) f)
    | (s1, .park) => (s1, .park b)
    | (s1, _) => (s1, .busy)

/-- A lane's access of `width` bytes (R24-R26, R43): SP accesses of 8 or 16 bytes under `.skw` are skewed word by word. -/
def laneAccess (s : State) (w0 : Who) (L : Nat) (a : W64) (width : Nat) (k : AKind) (skw : Bool) : State × LRes :=
  let w := { w0 with acc := L }
  match s.resolve w a width k with
  | (s1, .pa l ca) => (s1, .ok [(l, width)] ca)
  | (s1, .fault c f) => (s1, .fault c a f)
  | (s1, .park) => (s1, .park a.toNat)
  | (s1, .busy) => (s1, .busy)
  | (s1, .space 0 o _) =>
    s1.lpParts w k L (if width ≤ 4 then [(o, width)] else (List.range (width / 4)).map fun i => (o + 4 * i, 4))
  | (s1, .space x o _) =>
    let g := s1.gangAt (w.gang.getD 0)
    if x = 1 && skw then
      if width ≤ 4 then (s1, .ok [((s1.apLoc w 1 (s1.spOffset w g o)).getD 0, width)] 0)
      else (s1, .ok ((List.range (width / 4)).map fun i => ((s1.apLoc w 1 (s1.spOffset w g (o + 4 * i))).getD 0, 4)) 0)
    else match s1.apLoc w x o with
      | some l => (s1, .ok [(l, width)] 0)
      | none => (s1, .fault 2 a 0)

/-- A range of bytes resolved page by page, lowest first: pieces of storage, or the fault of its lowest faulting byte. -/
def rangeGo (w : Who) (k : AKind) (L : Nat) : Nat → State → Nat → Nat → State × LRes
  | 0, s, _, _ => (s, .ok [] 0)
  | fuel + 1, s, a, n =>
    if n = 0 then (s, .ok [] 0)
    else
      let step := min n (65536 - a % 65536)
      let tail (s1 : State) (ls : List (Nat × Nat)) (ca : Nat) : State × LRes :=
        match rangeGo w k L fuel s1 (a + step) (n - step) with
        | (s2, .ok ls' _) => (s2, .ok (ls ++ ls') ca)
        | x => x
      match s.resolve w (BitVec.ofNat 64 a) 1 k with
      | (s1, .pa l ca) => tail s1 [(l, step)] ca
      | (s1, .fault c f) => (s1, .fault c (BitVec.ofNat 64 a) f)
      | (s1, .park) => (s1, .park a)
      | (s1, .busy) => (s1, .busy)
      | (s1, .space x o lim) =>
        if lim < o + step then (s1, .fault 7 (BitVec.ofNat 64 (a + (lim - o))) 0)
        else if x = 0 then
          let parts := (List.range ((o % 4 + step + 3) / 4)).map fun i =>
            let lo := max o (o / 4 * 4 + 4 * i)
            (lo, min (o + step) (o / 4 * 4 + 4 * i + 4) - lo)
          match s1.lpParts w k L parts with
          | (s2, .ok ls ca) => tail s2 ls ca
          | y => y
        else match s1.apLoc w x o with
          | some l => tail s1 [(l, step)] 0
          | none => (s1, .fault 2 (BitVec.ofNat 64 a) 0)

def resolveRange (s : State) (w : Who) (k : AKind) (L : Nat) (a : W64) (n : Nat) : State × LRes :=
  rangeGo w k L (n / 65536 + 2) s a.toNat n

/-- The island agent of the Harbourmaster as the maker of an access (R23, R351). -/
def agentWho (isl spn : Nat) : Who := { isl := isl, tlb := 17, spn := spn, sup := true, id := 2 ^ 41 }

/-- Errors counted at the core that makes an access (R57, R59, R424): 0 corrected, 1 uncorrectable. -/
def countErrs (s : State) (w : Who) (k n : Nat) : State :=
  match w.agent with
  | some a => if n = 0 || 128 ≤ a then s
              else { s with mgt.counters := s.mgt.counters.upd 0 ((w.isl * 128 + a) * 8 + k) fun v => min (v + n) (2 ^ 64 - 1) }
  | none => s

/-- Errors that a read of pieces corrects are counted (R57). -/
def countSoft (s : State) (w : Who) (ls : List (Nat × Nat)) : State := s.countErrs w 0 ((ls.map fun p => s.softIn p.1 p.2).sum)

/-! Reading and writing the pieces of an access. -/

def readPieces (s : State) (ls : List (Nat × Nat)) : List Byte := ls.flatMap fun p => Memory.readBytes s.mem p.1 p.2

def writePieces (s : State) : List (Nat × Nat) → List Byte → State
  | [], _ => s
  | (l, n) :: r, bs => (s.store l (bs.take n)).writePieces r (bs.drop n)

/-- Every line of the pieces, reached through a page of attribute `ca`, gathered at its home for a read or a write. -/
def gatherPieces (s : State) (isl ca : Nat) (wr : Bool) (ls : List (Nat × Nat)) : State × Bool :=
  ls.foldl (fun r p => let t := r.1.gatherRange isl p.1 p.2 ca wr; (t.1, r.2 && t.2)) (s, true)

/-- A read of the pieces meets an uncorrectable word or line. -/
def badPieces (s : State) (ls : List (Nat × Nat)) : Bool := ls.any fun p => s.badRead p.1 p.2

end State

/-- Bytes as a little-endian number (R13), and back. -/
def natOf (bs : List Byte) : Nat := bs.foldr (fun b n => b.toNat + 256 * n) 0
def byteList : Nat → Nat → List Byte
  | 0, _ => []
  | n + 1, v => BitVec.ofNat 8 v :: byteList n (v / 256)

end Sys2Proof.Machine
end

