-- ==== Sys2Proof/Machine/Stores.lean ====
section
/-! DEFINITION. Stores on their way to memory: the write buffers and REDs (R50-R52, R95, R96, R113-R116, R127, R290, R293). -/

namespace Sys2Proof.Machine

open Sys2Proof

/-- A piece of a store: location, virtual address, page attribute, bytes. -/
structure Piece where
  loc : Nat
  va : Nat
  ca : Nat
  bytes : List Byte
  deriving DecidableEq, Repr

/-- The hint on a page of an attribute: streaming takes evict-normal as evict-first (R50). -/
def effHint (ca hint : Nat) : Nat := if ca = 1 && hint = 0 then 1 else hint

def agentKey (w : Who) : Nat := w.isl * 144 + w.agent.getD 0

namespace State

/-- The L2 ways a grid may fill (R354): partition 0 is every way. -/
def waysOf (s : State) (g : Gang) : BitVec 16 :=
  match s.taskOf g with
  | some t => let k := recN t.record 81 1 % 8
              if k = 0 then 0xFFFF else (s.precinct t.precinct).pway.get 0xFFFF k
  | none => 0xFFFF

/-- How the maker of an access asks its home for a line. -/
def askFor (s : State) (w : Who) (lk va hint : Nat) : Ask :=
  { isl := w.isl, agent := w.agent.getD 0, lk := lk, tag := (s.precinct (s.precinctOf (w.isl * 16 + w.tlb))).tag + 1,
    spn := w.spn, va := va / 128 * 128, hint := hint,
    turn := { crew := w.id + 1, po := if w.po = 0 then s.exe.ids + 1 else w.po },
    ways := match w.gang with | some g => s.waysOf (s.gangAt g) | none => 0xFFFF }

/-! Performing stores and REDs. -/

/-- Bytes written in order; a word or line written whole has a fresh code (R57-R59). -/
def applyBytes (s : State) (bs : List (Nat × Byte)) : State :=
  { s with mem := Memory.writeAll s.mem bs }.cleanCovered (bs.map fun (b : Nat × Byte) => (b.1, 1))

/-- Operands of `w` bytes applied to memory in order (R292, R293). -/
def applyRed (op w : Nat) : Nat → State → List (Nat × Byte) → State
  | 0, s, _ => s
  | fuel + 1, s, bs =>
    match bs.take w with
    | [] => s
    | (l, b) :: r =>
      let v := natOf (b :: r.map (·.2))
      applyRed op w fuel { s with mem := Memory.writeN s.mem l (elemOp op w (Memory.readN s.mem l w) v) w } (bs.drop w)

def redOp (k : UKey) (flt : Bool) : Nat := if flt then 1 else k.op.toNat

/-- A partial line absorbs operands element by element (R96). -/
def absorb (k : UKey) (elems : List Nat) : Nat → List (Nat × Byte) → List Nat
  | 0, _ => elems
  | fuel + 1, bs =>
    match bs.take k.width with
    | [] => elems
    | (l, b) :: r =>
      let i := l % 128 / k.width
      let v := natOf (b :: r.map (·.2))
      absorb k (elems.set i (elemOp k.op.toNat k.width (elems.getD i 0) v)) fuel (bs.drop k.width)

def entAsk (s : State) (e : WEnt) : Ask :=
  let isl := e.core / 144
  let a := e.core % 144
  let cl := if a < 128 then a / 8 else a - 128
  { isl := isl, agent := a, lk := e.line, tag := (s.precinct (s.precinctOf (isl * 16 + cl))).tag + 1, spn := e.spn,
    va := e.va / 128 * 128, hint := e.hint, turn := { crew := e.crew + 1, po := e.po }, ways := e.ways }

/-- A RED of an entry may use the commutative-update state: its key and page admit it, the line has no translation sharer, replica or host
copy, and the core's cluster TLB covers the address of the partial line (R69, R95). -/
def redEligible (s : State) (e : WEnt) : Bool :=
  let x := s.line e.line
  let q := s.entAsk e
  !e.flt && !e.unc && !isHost (lineLoc e.line) && x.trSharers = 0 && !x.tx && !replicated x && x.hs0 = .I && x.hs1 = .I
    && s.covered q.isl q.agent q.spn q.va

/-- Bytes of an entry written at its home, or its operands applied there. -/
def applyEntry (s : State) (e : WEnt) : State :=
  match e.red with
  | some k => applyRed (redOp k e.flt) k.width e.bytes.length s e.bytes
  | none => s.applyBytes e.bytes

/-- Writes of an uncached host page that the bridge has accepted, which the host completes later (R106, R113); `own` is the operation of an
engine that makes them. -/
def hostWrites (s : State) (w : Who) (ca po own : Nat) (ls : List (Nat × Nat)) : State :=
  if ca ≠ 3 then s
  else { s with coh.wow := s.coh.wow ++ (((ls.filter fun p => isHost p.1).flatMap fun p =>
      (List.range ((p.1 % 64 + p.2 + 63) / 64)).map ((p.1 - 2 ^ 48) / 64 + ·)).eraseDups.map fun h =>
        { core := agentKey w, half := h, po := po, own := own }) }

/-- Writes of an operation of an engine are not yet performed at system scope (R113, R132). -/
def hostOwes (s : State) (own : Nat) : Bool := s.coh.wow.any fun w => w.own = own

/-- A write at its home slice leaves a resident line dirty there (R53). -/
def l2Written (s : State) (lk : Nat) : State :=
  let x := s.line lk
  if x.inL2 || x.owned.isSome then s.setLine lk { x with l2dirty := true } else s

/-- The entry performed at the home slice, once every token is there; its hint applies to the line there (R51, R52). The bridge accepts a write of an uncached host page, which the host
completes later (R106, R113). -/
def atHome (s : State) (e : WEnt) : State × Bool :=
  if isHost (lineLoc e.line) && e.unc then
    let halves := (e.bytes.map fun b => (b.1 - 2 ^ 48) / 64).eraseDups
    ({ s.applyEntry e with coh.wow := s.coh.wow ++ halves.map fun h => { core := e.core, half := h, po := e.po } }, true)
  else
    let q := s.entAsk e
    let r := s.homeWrite q
    let t : State × Bool := if !r.2 then r else if e.unc then (r.1, true) else r.1.fillL2 e.line e.hint e.ways q.turn
    if t.2 then ((t.1.applyEntry e).l2Written e.line, true) else (t.1.holdLines (.entry e.id) [e.line], false)

/-- A write in the L1 with all 144 tokens: the line is dirty, the access that asked for it is performed, and the windows of the core's other
crews that read the line are rolled back (R113, R127). -/
def dirtied (s : State) (e : WEnt) : State :=
  let isl := e.core / 144
  let a := e.core % 144
  let ln := lineNo e.line
  let s1 := (s.setCline isl a ln { s.cline isl a ln with dirty := true }).accessDone isl a e.line
  if a < 128 then s1.rollbackLine (isl * 128 + a) e.line (some e.crew) else s1

/-- The agent holds every token of the line for a persistent or queued request of its own (R92, R93). -/
def favoured (s : State) (q : Ask) : Bool :=
  (s.cline q.isl q.agent (lineNo q.lk)).tokens = 144 && (s.reqsOf q.isl q.agent).any fun r => r.line = q.lk && 3 ≤ r.state

/-- A RED towards a partial line of its key (R95, R96). A starved request has every token instead, and the RED is performed in the line
(DEDUCED, safe: log 97). -/
def tryRed (s : State) (e : WEnt) (k : UKey) : State × Bool :=
  let q := s.entAsk e
  let ln := lineNo e.line
  if s.favoured q then ((s.applyEntry e).dirtied e, true)
  else if !s.redEligible e then s.atHome e
  else match s.coh.partials.find (cacheKey q.isl q.agent ln) with
    | some u =>
      if u.spn ≠ q.spn || u.va ≠ q.va then ((s.combine q.isl q.agent ln).request q (.upd k), false)
      else if u.key = k then
        let m := s.retouch u.touches q.turn q.hint u.mark
        let u' := { u with elems := absorb k u.elems e.bytes.length e.bytes, mark := m.1, touches := m.2, used := s.choices }
        ({ s with coh.partials := s.coh.partials.put (cacheKey q.isl q.agent ln) u', choices := s.choices + 1 }.accessDone q.isl q.agent e.line, true)
      else (s.request q (.upd k), false)
    | none => (s.request q (.upd k), false)

/-- An entry of a write buffer is performed, or what it needs is asked for (R88, R96, R113). -/
def tryEntry (s : State) (e : WEnt) : State × Bool :=
  let q := s.entAsk e
  match e.red with
  | some k => s.tryRed e k
  | none =>
    if e.unc || (e.hint = 3 && (s.cline q.isl q.agent (lineNo e.line)).tokens = 0) then s.atHome e
    else match s.needOwn q with
      | (s1, true) => ((s1.applyBytes e.bytes).dirtied e, true)
      | r => r

/-- Entries performed as far as they may be: entries of one line in order (R116). -/
def drainList : List WEnt → List WEnt → State → State × List WEnt
  | [], kept, s => (s, kept)
  | e :: es, kept, s =>
    if kept.any fun k => k.core = e.core && k.line = e.line then drainList es (kept ++ [e]) s
    else match s.tryEntry e with
      | (s1, true) => drainList es kept s1
      | (s1, false) => drainList es (kept ++ [e]) s1

/-- Every write buffer drains as far as it can. -/
def drain (s : State) : State :=
  let r := drainList s.coh.wbuf [] s
  { r.1 with coh.wbuf := r.2 }

/-- Lines a set of pieces touches in global memory, each once. -/
def pieceLines (isl : Nat) (ps : List Piece) : List Nat :=
  ((ps.filter fun p => isGlobal p.loc).map fun p => lineKey isl p.loc).eraseDups

/-- Line entries of an agent's write buffer (R114). -/
def bufferSize (w : Who) : Nat := if w.agent.getD 0 < 128 then 32 else 8

/-- The write buffer has no room for the lines (R114). -/
def bufferFull (s : State) (w : Who) (ps : List Piece) : Bool :=
  let have_ := ((s.coh.wbuf.filter fun e => e.core = agentKey w).map (·.line))
  bufferSize w < (have_ ++ pieceLines w.isl ps).eraseDups.length

/-- Stores or REDs leave the agent: on-chip storage takes them at once, global memory through the write buffer, whose new
contents roll back the windows of the core's other crews (R41, R113, R114, R127). `po` is their place in program order, `owners` the entries
of the fragments that it is the order of. -/
def push (s : State) (w : Who) (ps : List Piece) (hint : Nat) (red : Option (UKey × Bool)) (po : Nat) (owners : List Nat) : State :=
  let s0 := ps.foldl (fun s p =>
    if isGlobal p.loc then s
    else match red with
      | some (k, flt) => applyRed (redOp k flt) k.width p.bytes.length s (p.bytes.zipIdx.map fun b => (p.loc + b.2, b.1))
      | none => s.store p.loc p.bytes) s
  let s1 := if red.isNone then s0.cleanCovered ((ps.filter fun p => !isGlobal p.loc).map fun p => (p.loc, p.bytes.length)) else s0
  let ak := agentKey w
  let ents := (pieceLines w.isl ps).map fun lk =>
    let mine := ps.filter fun p => isGlobal p.loc && lineKey w.isl p.loc = lk
    let ca := match mine with | p :: _ => p.ca | [] => 0
    let va := match mine with | p :: _ => p.va | [] => 0
    ({ id := s.exe.ids + 1, core := ak, line := lk, bytes := mine.flatMap fun p => p.bytes.zipIdx.map fun b => (p.loc + b.2, b.1),
       po := po, owners := owners, unc := ca = 3, red := red.map (·.1), flt := red.any (·.2), hint := effHint ca hint,
       ways := (s.askFor w lk 0 0).ways, crew := w.id, spn := w.spn, va := va, vas := mine.map (·.va) } : WEnt)
  let s2 := ents.foldl (fun s e => if w.agent.getD 0 < 128 then s.rollbackLine (w.isl * 128 + w.agent.getD 0) e.line (some w.id) else s)
    { s1 with coh.wbuf := s1.coh.wbuf ++ ents, exe.ids := s1.exe.ids + 1 }
  s2.drain

/-- The virtual parts of an access, address and length: those of the backing for a lane-private access (R26). -/
def vparts (s : State) (w : Who) (L : Nat) (a : W64) (width : Nat) : List (Nat × Nat) :=
  match s.apHit { w with acc := L } a.toNat [0, 1, 2, 3, 4, 5] with
  | some (0, base) =>
    if width ≤ 4 then [(s.lpBacking w (a.toNat - base) L, width)]
    else (List.range (width / 4)).map fun i => (s.lpBacking w (a.toNat - base + 4 * i) L, 4)
  | _ => [(a.toNat, width)]

/-- The pieces of a lane's access with their virtual addresses: those of the backing for a lane-private access (R26). -/
def withVas (s : State) (w : Who) (L : Nat) (a : W64) (locs : List (Nat × Nat)) : List (Nat × Nat × Nat) :=
  locs.zipIdx.map fun p =>
    (p.1.1, p.1.2, match s.apHit { w with acc := L } a.toNat [0, 1, 2, 3, 4, 5] with
      | some (0, base) => s.lpBacking w (a.toNat - base + 4 * p.2) L
      | _ => a.toNat)

/-- The pieces of a store of bytes. -/
def piecesOf (ca : Nat) : List (Nat × Nat × Nat) → List Byte → List Piece
  | [], _ => []
  | (l, n, va) :: r, bs => { loc := l, va := va, ca := ca, bytes := bs.take n } :: piecesOf ca r (bs.drop n)

end State

end Sys2Proof.Machine
end

