-- ==== Sys2Proof/Machine/Ops.lean ====
section
/-! DEFINITION. Advancing, joins, mooring, and taking an exception and returning from one (R187-R200, R211, R368-R378). -/

namespace Sys2Proof.Machine

open Sys2Proof

namespace State

/-! Precinct events (R374, R422). -/

/-- The precinct of a core's cluster, and of the current agent. -/
def precinctOfCore (s : State) (core : Nat) : Nat := s.precinctOf (clusterOfCore core)
def myPrecinct (s : State) : Nat := s.precinctOf s.cluster

/-- A 32-byte record appended to an event ring in host memory, or dropped and counted when it is full (R422). -/
def ringPut (s : State) (base : Nat) (log : Nat) (head tail : W32) (ev : List Byte) : Option State :=
  if (tail - head).toNat = 2 ^ log then none
  else some { s with mem := Memory.writeBytes s.mem (locHost (base + 32 * (tail.toNat % 2 ^ log))) ev }

/-- A precinct event (R374). -/
def postEvent (s : State) (p kind cause core crew pc : Nat) (arg : W64) : State :=
  let x := s.precinct p
  let ev := byteList 1 kind ++ byteList 1 cause ++ byteList 1 (p / 16) ++ byteList 1 (p % 16) ++ byteList 2 core
    ++ byteList 2 crew ++ byteList 8 pc ++ byteList 8 arg.toNat ++ byteList 8 s.clock
  match s.ringPut x.evbase.toNat x.evlog x.evhead x.evtail ev with
  | some s1 => s1.setPrecinct p { x with evtail := x.evtail + 1 }
  | none => s.setPrecinct p { x with dropped := min (x.dropped + 1) 0xFFFF }

/-- An event of the current core fragment or Pilot thread. -/
def postMine (s : State) (kind cause pc : Nat) (arg : W64) : State :=
  if s.pilot then s.postEvent s.myPrecinct kind cause 0x7F (s.tkey % 4) pc arg
  else s.postEvent s.myPrecinct kind cause (s.core % 128) s.frag.crew pc arg

/-- An event of the module event log (R408, R421, R422). -/
def postModule (s : State) (isl sort a b : Nat) : State :=
  let r := s.mgt.mod.ml
  let ev := [Config.moduleKind sort] ++ byteList 1 0 ++ byteList 1 isl ++ byteList 1 0 ++ byteList 2 0x7F ++ byteList 2 0 ++ byteList 8 0
    ++ byteList 8 (Config.moduleArg sort a b).toNat ++ byteList 8 s.clock
  match s.ringPut r.base.toNat r.log r.head r.tail ev with
  | some s1 => { s1 with mgt.mod.ml := { r with tail := r.tail + 1 } }
  | none => { s with mgt.mod.ml := { r with dropped := min (r.dropped + 1) 0xFFFF } }

/-! Berth entries and join tokens (R185-R187, R366). -/

def fragAt (s : State) (k : Nat) : Frag := s.exe.frags.get {} k
def putFrag (s : State) (k : Nat) (f : Frag) : State := { s with exe.frags := s.exe.frags.put k f }
def crewAt (s : State) (k : Nat) : Crew := s.exe.crews.get {} k
def putCrew (s : State) (k : Nat) (c : Crew) : State := { s with exe.crews := s.exe.crews.put k c }
def joinAt (s : State) (core : Nat) (t : BitVec 12) : Join := s.exe.joins.get {} (core * 256 + t.toNat % 256)
def setJoin (s : State) (core : Nat) (t : BitVec 12) (j : Join) : State :=
  { s with exe.joins := s.exe.joins.put (core * 256 + t.toNat % 256) j }

/-- Fragments of a core: berth entries that are not free. -/
def fragsOf (s : State) (core : Nat) : List (Nat × Frag) :=
  s.exe.frags.filter fun f => f.1 / 320 = core && f.2.mask ≠ 0
/-- Fragments of a crew slot. -/
def fragsOfCrew (s : State) (core slot : Nat) : List (Nat × Frag) := (s.fragsOf core).filter fun f => f.2.crew = slot

/-- A free berth entry for a crew: its base entry, else the lowest pool entry; none when the bay holds 64 (R186, R366). -/
def freeEntry (s : State) (core slot : Nat) : Option Nat :=
  if ((s.fragsOf core).filter fun f => f.2.crew / 16 = slot / 16).length ≥ 64 then none
  else if (s.fragAt (core * 320 + slot)).mask = 0 then some slot
  else ((List.range 256).map (64 + ·)).find? fun e => (s.fragAt (core * 320 + e)).mask = 0

/-- A fresh join token: the lowest free entry with its generation raised (R187). -/
def freshToken (s : State) (core : Nat) : Option (BitVec 12) :=
  (((List.range 255).map (1 + ·)).find? fun i => !(s.exe.joins.get {} (core * 256 + i)).used).map fun i =>
    ((s.exe.joins.get {} (core * 256 + i)).gen + 1) ++ BitVec.ofNat 8 i

/-- A join entry taken for a token. -/
def takeJoin (s : State) (core : Nat) (t : BitVec 12) (jaddr : Option (BitVec 52)) (ptoken : BitVec 12) (pend crew : Nat) :
    State :=
  s.setJoin core t { used := true, gen := t.extractLsb' 8 4, jaddr := jaddr, ptoken := ptoken, pend := pend, crew := crew }

def addPend (s : State) (core : Nat) (t : BitVec 12) (n : Nat) : State :=
  if t = 0 then s else s.setJoin core t { s.joinAt core t with pend := (s.joinAt core t).pend + n }
def freeJoin (s : State) (core : Nat) (t : BitVec 12) : State :=
  s.setJoin core t { gen := (s.joinAt core t).gen }

/-! Clause runs and flags (R212). -/

def flag (c : Crew) (k : Nat) : Nat := c.flags.get 0 k

/-- What a run owes falls by operations of each class that have completed or will not issue; a flag loses 1 when its
class is done. -/
def runDone (c : Crew) (id na nb : Nat) : Crew :=
  match c.runs.find id with
  | none => c
  | some r =>
    let r' := { r with leftA := r.leftA - na, leftB := r.leftB - nb }
    let drop (t : Tbl Nat) (k : Option Nat) (b : Bool) : Tbl Nat :=
      match k with | some k => if b then t.put k (t.get 0 k - 1) else t | none => t
    let t := drop (drop c.flags r.fa (r.leftA ≠ 0 && r'.leftA = 0)) r.fb (r.leftB ≠ 0 && r'.leftB = 0)
    { c with flags := t, runs := if r'.leftA = 0 && r'.leftB = 0 then c.runs.del id else c.runs.put id r' }

/-- Operations of a run that have been issued and have not completed. -/
def inFlight (c : Crew) (id : Nat) (clsB : Bool) : Nat :=
  (c.ops.filter fun o => o.2.run = id && opClassB o.2 = some clsB).length

/-- A fragment leaves its run before the end of the clause: operations not yet issued are owed no more. -/
def dropRun (c : Crew) (id : Nat) : Crew :=
  match c.runs.find id with
  | none => c
  | some r => runDone c id (r.leftA - inFlight c id false) (r.leftB - inFlight c id true)

/-- Berth entries with a new fragment among those that one of them comes before. -/
def spread (from_ : List Nat) (to_ : Nat) (os : List Nat) : List Nat :=
  let kept := os.filter (· ≠ to_)
  if from_.any (os.contains ·) then kept ++ [to_] else kept

/-- What comes before fragments of a crew comes before the one split off them or fused from them too: accesses in flight, stores in the
write buffer, reads, island operations, Tender requests (R109, R131, R145). -/
def inheritAt (s : State) (ck : Nat) (from_ : List Nat) (to_ : Nat) : State :=
  let c := s.crewAt ck
  { s.putCrew ck { c with ops := c.ops.map fun (o : Nat × LOp) => (o.1, { o.2 with owners := spread from_ to_ o.2.owners })
                          seen := c.seen.map fun e => { e with owners := spread from_ to_ e.owners } } with
    coh.wbuf := s.coh.wbuf.map fun e => if e.crew = ck then { e with owners := spread from_ to_ e.owners } else e
    eng.ops := s.eng.ops.map fun (o : Nat × IslOp) =>
      if o.2.crew = ck && !o.2.pilot then (o.1, { o.2 with owners := spread from_ to_ o.2.owners }) else o
    eng.tenders := s.eng.tenders.map fun (t : Nat × List TReq) =>
      (t.1, t.2.map fun r => if r.crew = ck then { r with owners := spread from_ to_ r.owners } else r) }

/-- Lanes that leave a fragment in an entry of their own: everything before the split comes before what each part does next (R109). -/
def splitOff (s : State) (core : Nat) (f : Frag) (from_ to_ : Nat) (n : Frag) : State :=
  ((s.inheritAt (core * 64 + f.crew) [from_] to_).putFrag (core * 320 + to_)
    { n with crew := f.crew, token := f.token, fork := s.exe.ids, rel := f.rel }).putFrag (core * 320 + from_) { f with fork := s.exe.ids }
    |>.addPend core f.token 1

/-! Clause boundaries and joins (R190, R197, R211). -/

/-- Where the lanes of a spill record go on: at its target, or within the clause that a RETT took them from (R195, R197). -/
def spillCtl (c : Ctl) (r : Spill) : Ctl :=
  { c with pc := r.target, past := r.past, cpos := r.cpos, hdr := r.hdr, wrv := none, code := r.code }

/-- The newest spill record of an entry. -/
def newestSpill (c : Crew) (entry : Nat) : Option Spill :=
  (c.spills.filter (·.owner = entry)).foldl (fun b r =>
    match b with | none => some r | some x => if x.seq < r.seq then some r else b) none

/-- The base spill slot is free of the record, or its lane-private slot is (R198). -/
def popSpill (c : Crew) (r : Spill) : Crew := { c with spills := c.spills.erase r }

/-- The current fragment stands where it would join, which it does when its window has closed (R126). -/
def joinDue (s : State) : Bool :=
  let f := s.frag
  !f.ctl.past && ((f.token ≠ 0 && (s.joinAt s.core f.token).jaddr = some f.ctl.pc)
    || (newestSpill s.crew s.entry).any fun r => r.jaddr = f.ctl.pc)

/-- The 32 bytes of a spill record (R198). -/
def spillBytes (r : Spill) : List Byte :=
  byteList 4 r.pend.toNat ++ byteList 4 r.done.toNat ++ byteList 8 (r.target.toNat + r.owner * 2 ^ 52)
    ++ byteList 8 r.jaddr.toNat ++ byteList 4 r.seq ++ byteList 4 0

/-- The word of a spill record that a lane holds in its slice (R198). -/
def spillWord (r : Spill) (L : Nat) : List Byte := ((spillBytes r).drop (4 * L)).take 4

/-- A spill record changed, in its slot as well (R197, R198): the words that change where the slot is in memory. They go to the places that the
push's stores found (DEDUCED, unsafe: log 139). -/
def updateSpill (s : State) (ck : Nat) (r r' : Spill) : State :=
  let c := s.crewAt ck
  let s1 := s.putCrew ck { c with spills := c.spills.map fun x => if x = r then r' else x }
  let ws := (r'.locs.zipIdx.filter fun p => spillWord r p.2 ≠ spillWord r' p.2).map fun p =>
    ({ loc := p.1.1, va := p.1.2.1, ca := p.1.2.2, bytes := spillWord r' p.2 } : Piece)
  if ws.isEmpty then s1 else s1.push (s1.crewWho ck false) ws 0 none (s1.exe.ids + 1) [r'.owner]

/-- serial_join of R197. A branch that starts at J itself is at the join again. A branch comes after what stood before its split, and the joined
lanes after all of the branches (R109). Its first clause counts as following the clause that the fragment ran last, for R215's HOLD (DESIGN CHOICE,
unsafe: log 20). -/
def serialJoin : Nat → State → State
  | 0, s => s
  | fuel + 1, s =>
    match newestSpill s.crew s.entry with
    | none => s
    | some r =>
      let f := s.frag
      if r.jaddr ≠ f.ctl.pc || f.ctl.cpos ≠ 0 || f.ctl.past then s
      else if r.pend ≠ 0 then
        serialJoin fuel ((s.updateSpill s.ckey r { r with done := r.done ||| (f.mask &&& ~~~f.xmask), pend := 0 }).setFrag
          { f with mask := r.pend ||| f.xmask, ctl := spillCtl f.ctl r, fork := r.fork })
      else serialJoin fuel ((s.setCrew (popSpill s.crew r)).setFrag { f with mask := f.mask ||| r.done, fork := s.exe.ids })

/-- Spill records of entries that go away pass to the entry their fragments fuse into (DEDUCED, unsafe: log 20). -/
def setSpillOwner (s : State) (core slot : Nat) (from_ : List Nat) (to_ : Nat) : State :=
  let ck := core * 64 + slot
  ((s.crewAt ck).spills.filter fun r => from_.contains r.owner).foldl (fun s r => s.updateSpill ck r { r with owner := to_ }) s

/-- Fusion of every fragment that waits at a join with its token (R190): the lowest entry takes them all. -/
def fuse (s : State) (core : Nat) (t : BitVec 12) : State × Nat :=
  let j := s.joinAt core t
  let fs := (s.fragsOf core).filter fun f => f.2.token = t && f.2.waitFor = .join
  match fs with
  | [] => (s.freeJoin core t, 0)
  | (k, f) :: rest =>
    let g := rest.foldl (fun (g : Frag) x =>
      { g with mask := g.mask ||| x.2.mask, xmask := g.xmask ||| x.2.xmask, age := min g.age x.2.age,
               lastHold := g.lastHold || x.2.lastHold, errs := g.errs ++ x.2.errs, rel := g.rel ++ x.2.rel }) f
    let s0 := s.setSpillOwner core f.crew (rest.map fun x => x.1 % 320) (k % 320)
    let s0 := s0.inheritAt (core * 64 + f.crew) (fs.map fun x => x.1 % 320) (k % 320)
    let s1 := rest.foldl (fun s x => s.putFrag x.1 {}) (s0.freeJoin core t)
    (s1.putFrag k { g with token := j.ptoken, state := if g.ctl.sup then .handling else .ready, wait := 0,
                           waitFor := .none, fork := s.exe.ids, passed := 0 }, k)

/-- A fragment at a clause boundary: serial joins, then its join (R190, R197). A fused fragment may reach its own join. -/
def arriveGo : Nat → State → State
  | 0, s => s
  | fuel + 1, s =>
    let s1 := if s.frag.window.isSome then s else s.serialJoin 200
    let f := s1.frag
    let j := s1.joinAt s1.core f.token
    if f.token ≠ 0 && j.jaddr = some f.ctl.pc && f.ctl.cpos = 0 && !f.ctl.past && f.window.isNone then
      let s2 := (s1.setFrag { f with state := .waiting, wait := 1, waitFor := .join }).setJoin s1.core f.token
        { j with pend := j.pend - 1 }
      if j.pend ≤ 1 then
        let (s3, k) := s2.fuse s2.core f.token
        let s4 := arriveGo fuel { s3 with cur := .frag s3.core (k % 320) }
        { s4 with cur := s.cur }
      else s2
    else s1

def arrive (s : State) : State := if s.pilot then s else s.arriveGo 260

/-! Mooring (R192, R196, R199, R369, R373). -/

/-- Faulting lanes' sys.faddr and sys.fpte (R25, R66, R84). -/
def noteFaults (c : Crew) (fs : List LFault) : Crew :=
  fs.foldl (fun c f =>
    { c with faddr := match f.addr with | some a => c.faddr.put f.lane a | none => c.faddr
             fpte := match f.fpte with | some p => c.fpte.put f.lane p | none => c.fpte }) c

/-- The lowest cause among lane faults, and the fault of the lowest lane with it. -/
def lowest (fs : List LFault) : Option LFault :=
  fs.foldl (fun b f => match b with
    | none => some f
    | some x => if f.cause.toNat < x.cause.toNat || (f.cause = x.cause && f.lane < x.lane) then some f else b) none

/-- The causes of a list of faults, ascending, each once. -/
def causesOf (fs : List LFault) : List Byte :=
  ((List.range 128).filter fun c => fs.any fun f => f.cause.toNat = c).map (BitVec.ofNat 8)

/-- The crew's supervisor state frozen with cause 0x13 (R196, R373): every fragment with SUP = 1 is moored. -/
def freeze (s : State) (inner : Byte) (arg : W64) : State :=
  let pc := s.frag.ctl.pc.toNat
  let s1 := (s.fragsOfCrew s.core s.frag.crew).foldl (fun s f =>
    if f.2.ctl.sup then
      s.putFrag f.1 { f.2 with state := .moored, cause := 0x13, wait := 0, waitFor := .none, window := none, parked := none }
    else s) (s.setCrew { s.crew with firm := s.crew.firm ||| s.crew.astat })
  let p := s1.myPrecinct
  (s1.setPrecinct p { s1.precinct p with df := true }).postMine 1 inner.toNat pc arg

/-- The current fragment moored in its own entry. -/
def moorHere (s : State) (cause : Byte) (x : Mask) (whole spec : Bool) : State :=
  let f := s.frag
  let s1 := s.setCrew (dropRun s.crew f.run)
  { s1.setFrag { f with state := .moored, cause := cause, xmask := if whole then 0 else f.xmask ||| x, wait := 0,
                        waitFor := .none, whole := whole, spec := spec, run := 0, order := s1.exe.orders + 1, window := none, parked := none }
    with exe.orders := s1.exe.orders + 1 }

/-- One group of faulting lanes leaves as a moored fragment, or moors the fragment in place (R192, R199). `stay` are the
lanes that have completed the instruction. -/
def moorGroup (spec : Bool) (stay : Mask) (s : State) (g : Mask × Byte) : State :=
  let f := s.frag
  if f.state = .moored then s
  else if f.mask &&& ~~~g.1 = 0 then s.moorHere g.2 0 false spec
  else match s.freeEntry s.core f.crew with
  | some e =>
    let n : Frag := { mask := g.1, state := .moored, ctl := f.ctl, cause := g.2, spec := spec, order := s.exe.orders + 1,
                      lastHold := f.lastHold }
    let s1 := s.splitOff s.core f s.entry e n
    { s1 with exe.orders := s1.exe.orders + 1 }.setFrag { s1.frag with mask := f.mask &&& ~~~g.1 }
  | none =>
    ((s.moorHere g.2 stay false spec).bumpCounter s.core 4).postMine 6 0 f.ctl.pc.toNat 0

/-- Lanes that meet uncorrectable data are counted at their core (R59, R424; DESIGN CHOICE, unsafe: log 115). -/
def countData (s : State) (fs : List LFault) : State := s.countErrs s.me 1 (fs.filter (·.cause = 4)).length

/-- Lanes of the current fragment fault at its instruction (R192, R369); the fragment's other lanes have completed it.
With SUP = 1 it is a double fault (R196). -/
def moorLanes (s : State) (fs : List LFault) (spec : Bool) : State :=
  let s1 := (s.setCrew (noteFaults s.crew fs)).countData fs
  if s1.sup then
    match lowest fs with | some f => s1.freeze f.cause (f.addr.getD 0) | none => s1
  else
    let all := maskOf (fs.map (·.lane))
    (causesOf fs).foldl (fun s c =>
      moorGroup spec (s.frag.mask &&& ~~~all) s (maskOf ((fs.filter (·.cause = c)).map (·.lane)), c)) s1

/-! Pilot threads (R373, R377). -/

/-- A Pilot thread stops with a double fault. -/
def pilotFreeze (s : State) (inner : Byte) (arg : W64) : State :=
  let pc := s.ctl.pc.toNat
  let s1 := s.setThread { s.thread with state := .halted }
  let p := s1.myPrecinct
  (s1.setPrecinct p { s1.precinct p with df := true }).postMine 16 inner.toNat pc arg

/-- A core's own view of bytes: the newest store in its write buffer, else memory (R114). -/
def peek (s : State) (ak : Nat) (loc : Nat) : Byte :=
  match (s.coh.wbuf.filter fun e => e.core = ak && e.red.isNone).foldl (fun (b : Option Byte) e =>
      match e.bytes.find? (·.1 = loc) with | some x => some x.2 | none => b) none with
  | some b => b
  | none => Memory.read s.mem loc

def peekPieces (s : State) (ak : Nat) (ls : List (Nat × Nat)) : List Byte :=
  ls.flatMap fun p => (List.range p.2).map fun i => s.peek ak (p.1 + i)

/-- A trap vector entry (R370): the handler's address, none where the vector fails; busy while its line is in use. -/
def readVector (s : State) (w : Who) (c : Byte) : State × Option (Option W64) :=
  let t := (s.ctx w.isl w.spn).tvec
  let at_ (c : Nat) : W64 := BitVec.ofNat 64 (fld t 11 41 * 2048 + 8 * c)
  let ws := { w with sup := true }
  let one (s : State) (c : Nat) : State × Option (Option W64) :=
    match s.laneAccess ws 0 (at_ c) 8 .load false with
    | (s1, .ok ls ca) =>
      let (s2, ok) := s1.gatherPieces w.isl ca false ls
      if !ok then (s2, none)
      else if s2.badPieces ls then (s2, some none)
      else (s2, some (some (BitVec.ofNat 64 (natOf (s2.peekPieces (agentKey w) ls)))))
    | (s1, .fault _ _ _) => (s1, some none)
    | (s1, _) => (s1, none)
  if fld t 0 1 = 0 then (s, some none)
  else match one s c.toNat with
  | (s1, some (some v)) =>
    if v ≠ 0 then (s1, some (if fld v 52 12 = 0 then some v else none))
    else match one s1 0 with
      | (s2, some (some u)) => (s2, some (if u ≠ 0 && fld u 52 12 = 0 then some u else none))
      | r => r
  | r => r

/-- A Pilot thread faults: it enters its own handler at once (R377). `pc`, `cpos` are where RETT returns to. -/
def pilotFault (s : State) (cause : Byte) (addr fpte : Option W64) (whole : Bool) (pc : BitVec 52) (cpos : Nat)
    (past : Bool := false) : State :=
  let t := s.thread
  let t1 := { t with faddr := addr.getD t.faddr, fpte := fpte.getD t.fpte }
  let s1 := s.setThread t1
  if t.ctl.sup then s1.pilotFreeze cause t1.faddr
  else
    let u := { t1.uni with fpc := BitVec.ofNat 64 (pc.toNat + cpos * 2 ^ 52),
                           fcause := BitVec.ofNat 64 (cause.toNat + if whole then 2 ^ 9 else 0) }
    match s1.readVector s1.me cause with
    | (s2, some (some v)) =>
      s2.setThread { t1 with uni := u, saved := { t1.ctl with pc := pc, past := past, cpos := cpos }, lastHold := false,
                             ctl := { t1.ctl with pc := v.setWidth 52, past := false, cpos := 0, sup := true, wrv := none, code := [] } }
    | (s2, some none) => (s2.setThread { t1 with uni := u }).pilotFreeze cause t1.faddr
    | (s2, none) => s2      -- the vector's line is in use: the instruction faults again when it is free

/-- A fragment-wide fault (R368): every lane of MASK is moored at the instruction, helper lanes included; a Pilot thread
enters its handler. -/
def moorAll (s : State) (cause : Byte) (addr : Option W64) (fpte : Option W64 := none) : State :=
  if s.pilot then s.pilotFault cause addr fpte true s.ctl.pc s.ctl.cpos s.ctl.past
  else
    let fs := (lanesOf s.frag.mask).map fun L => ({ lane := L, cause := cause, addr := addr, fpte := fpte } : LFault)
    let s1 := (s.setCrew (noteFaults s.crew fs)).countData (fs.take 1)
    if s1.sup then s1.freeze cause (addr.getD (s1.crew.faddr.get 0 ((lanesOf s1.frag.mask).headD 0)))
    else s1.moorHere cause 0 true false

/-! Advancing (R185, R211). -/

/-- The fragment's word has issued: a window counts its next one anew (R126). -/
def wordDone (f : Frag) : Frag := { f with window := f.window.map fun w => { w with tried := false } }

/-- The current agent comes to a clause boundary at `pc`. Lanes that waited with a replaying fragment join it. -/
def boundaryAt (s : State) (pc : BitVec 52) (past : Bool) : State :=
  let c := s.ctl
  let s1 := s.setCtl { c with pc := pc, past := past, cpos := 0, wrv := none, code := [] }
  if s.pilot then s1.setThread { s1.thread with lastHold := c.hdr.hold }
  else
    let f := wordDone s1.frag
    let s2 := (s1.setCrew (dropRun s1.crew f.run)).setFrag
      { f with lastHold := c.hdr.hold, lastYield := c.hdr.yield, run := 0, waitFor := .none, tested := false,
               xmask := if c.sup then f.xmask else 0 }
    let y := if c.hdr.yield then s.entry + 1 else 0
    { s2 with exe.yielded := s2.exe.yielded.put (s.core * 4 + f.crew / 16) y }.arrive

def boundary (s : State) (pc : BitVec 52) : State := s.boundaryAt pc false

/-- The agent goes to the clause at `pc`; past the end of the virtual space it comes to a place whose fetch faults (R32). The PC shown there is 0
and the fault address 2^52 (DESIGN CHOICE, unsafe: log 129). -/
def goAt (s : State) (pc : Nat) : State := s.boundaryAt (BitVec.ofNat 52 pc) (2 ^ 52 ≤ pc)

/-- The clause after the agent's own (R211, R247). -/
def fallPc (s : State) : Nat := s.ctl.pc.toNat + 8 * (s.ctl.hdr.len.toNat + 2)

/-- The agent goes on past an instruction of `k` words; the last word of a clause leads to the next header (R211). -/
def advance (s : State) (k : Nat) : State :=
  let c := s.ctl
  if c.cpos + k ≤ c.hdr.len.toNat + 1 then
    let s1 := s.setCtl { c with cpos := c.cpos + k, wrv := none }
    let x : Mask := if c.sup then s1.frag.xmask else 0
    let f := wordDone s1.frag
    if s.pilot then s1 else s1.setFrag { f with xmask := x }
  else s.goAt s.fallPc

/-- Lanes that faulted are moored; if lanes are left in the fragment, they have completed the instruction (R192). -/
def settle (s : State) (fs : List LFault) (k : Nat) : State :=
  if fs.isEmpty then s.advance k
  else if s.pilot then
    match lowest fs with
    | some f => s.pilotFault f.cause f.addr f.fpte false s.ctl.pc s.ctl.cpos
    | none => s.advance k
  else
    let s1 := s.moorLanes fs false
    if s1.frag.state = .moored then s1 else s1.advance k

/-- The current agent waits at its instruction and executes it again (R188). -/
def stall (s : State) (wait : Nat) (why : WaitFor) : State :=
  if s.pilot then s.setThread { s.thread with state := .wait, waitFor := why }
  else s.setFrag { s.frag with state := .waiting, wait := wait, waitFor := why }

/-! Instructions that wait at a parked access (R78): those whose accesses are made before they go on. -/

/-- The parked access of the current agent's instruction: order, address. -/
def parkedHere (s : State) : Option (Nat × Nat) := if s.pilot then s.thread.parked else s.frag.parked
def setParked (s : State) (p : Option (Nat × Nat)) : State :=
  if s.pilot then s.setThread { s.thread with parked := p } else s.setFrag { s.frag with parked := p }

/-- It is parked no more. -/
def unpark (s : State) : State := if s.parkedHere.isSome then s.setParked none else s

/-- It is parked, behind those that its TLB parked before; one that is parked already keeps its place until it is released. -/
def parkHere (s : State) (va : Nat) : State :=
  if s.parkedHere.any fun q => !s.freed s.isl (s.cluster % 16) (q.1, s.spn, q.2) then s
  else { s with exe.ids := s.exe.ids + 1 }.setParked (some (s.exe.ids + 1, va))

/-- It may not be translated again yet. -/
def parkWait (s : State) : Bool := s.parkedHere.any fun p => !s.mayReplay s.isl (s.cluster % 16) (p.1, s.spn, p.2)

/-- The agent waits at its instruction for an access of it that is parked. -/
def parkStall (s : State) (va : Nat) : State := (s.parkHere va).stall 7 .retry

/-! Entry into handling (R193, R370, R371). -/

/-- The moored fragment that is next in its crew (R193). -/
def nextMoored (s : State) (core slot : Nat) : Option Nat :=
  ((s.fragsOfCrew core slot).filter fun f => f.2.state = .moored && f.2.cause ≠ 0x13 && f.2.waitFor ≠ .doorbell).foldl
    (fun b f => match b with
      | none => some f.1
      | some k => if f.2.order < (s.fragAt k).order then some f.1 else b) none

/-- The current moored fragment takes the handling slot and enters its handler, once a join entry is free. -/
def enterHandler (s : State) : State :=
  let f := s.frag
  match s.freshToken s.core with
  | none =>
    if f.wait = 6 then s
    else ((s.setFrag { f with wait := 6 }).bumpCounter s.core 5).postMine 7 0 f.ctl.pc.toNat 0
  | some t =>
    match s.readVector s.me f.cause with
    | (s1, none) => s1
    | (s1, some v) =>
      let c := s1.crew
      let h := f.mask &&& ~~~f.xmask
      let u := { c.uni with
        fpc := BitVec.ofNat 64 (f.ctl.pc.toNat + f.ctl.cpos * 2 ^ 52)
        fcause := BitVec.ofNat 64 (f.cause.toNat + (if f.spec then 2 ^ 8 else 0) + (if f.whole then 2 ^ 9 else 0))
        fmask := f.xmask ++ h }
      let s2 := (s1.setCrew { c with uni := u, handling := some t, saved := f.ctl }).takeJoin s1.core t none f.token 1 f.crew
      let g := { f with token := t, wait := 0, waitFor := .none, parked := none, state := .handling, run := 0, lastHold := false, lastYield := false,
                        passed := 0, tested := false, ctl := { f.ctl with past := false, sup := true, wrv := none, code := [] }, age := s.clock }
      match v with
      | some a => s2.setFrag { g with ctl := { g.ctl with pc := a.setWidth 52, cpos := 0 } }
      | none => (s2.setFrag g).freeze f.cause (c.faddr.get 0 ((lanesOf f.mask).headD 0))

/-! Return from a handler (R195, R339). `newpc` is a checked target. -/

/-- The tail of RETT: the slot is freed, and the fragment goes back to user mode at the saved place or at a new one. -/
def leaveHandler (s : State) (newpc : Option (BitVec 52)) : State :=
  let f := s.frag
  let c := s.crew
  let j := s.joinAt s.core f.token
  let s1 := (s.freeJoin s.core f.token).setCrew { (dropRun c f.run) with handling := none }
  let back := match newpc with
    | some pc => { c.saved with pc := pc, past := false, cpos := 0, sup := false, wrv := none, code := [] }
    | none => { c.saved with sup := false }
  s1.setFrag { f with token := j.ptoken, state := .ready, wait := 0, waitFor := .none, cause := 0, run := 0,
                      lastHold := false, lastYield := false, passed := 0, tested := false, ctl := back, age := s.clock }

end State

end Sys2Proof.Machine
end

