-- ==== Sys2Proof/Machine/Fetch.lean ====
section
/-! DEFINITION. Fetching, the checks before issue, the scoreboard, the speculative window, and which fragments may issue (R32, R33, R48, R126,
R201, R211-R216, R220, R225, R231, R365, R379). -/

namespace Sys2Proof.Machine

open Sys2Proof

/-- What a fetch comes to. -/
inductive FRes
  | ok (ws : List W64)
  | fault (c : Byte) (addr fpte : W64)
  | busy
  deriving DecidableEq, Repr

namespace State

/-! The instruction caches (R48): 128-byte lines, 4 ways, 64 KiB in a core and 32 KiB in a Pilot, tagged by SPN and virtual line. -/

def codeKey (w : Who) (va : Nat) : Nat := ((w.isl * 144 + w.agent.getD 0) * 4096 + w.spn) * 2 ^ 45 + va / 128
/-- The sets of an instruction cache. The Pilot's is taken as 4-way, as the core's is (DESIGN CHOICE, unsafe: log 40). -/
def codeSets (w : Who) : Nat := if w.agent.getD 0 < 128 then 128 else 64

/-- A line of code enters its set; the least recently used of four gives way. -/
def putCode (s : State) (w : Who) (va : Nat) (x : ILine) : State :=
  let k := codeKey w va
  let mine := s.coh.icache.filter fun e => e.1 ≠ k && e.1 / 2 ^ 57 = k / 2 ^ 57 && e.1 % codeSets w = k % codeSets w
  let victim := if mine.length < 4 then none
    else (mine.foldl (fun (b : Option (Nat × ILine)) e => match b with
      | none => some e
      | some y => if e.2.used < y.2.used then some e else b) none).map (·.1)
  let t := match victim with | some v => s.coh.icache.del v | none => s.coh.icache
  { s with coh.icache := t.put k x, choices := s.choices + 1 }

/-- The words of a line of code as its home holds them now; none while partial sums, the host or an invalidation block it (R97, R104). -/
def lineOfCode (s : State) (isl l ca : Nat) : State × Option (List W64) :=
  let base := l / 128 * 128
  match s.gatherRange isl base 128 ca false with
  | (s1, true) => (s1, some ((List.range 16).map fun i => BitVec.ofNat 64 (Memory.readN s1.mem (base + 8 * i) 8)))
  | (s1, false) => (s1, none)

/-- `n` words of one line of code from `va`: translated (R32), and taken from the instruction cache, or anew when `fresh`. Lines filled by
one fetch carry one number. An uncached page is held in no cache (R50). -/
def codeOf (s : State) (fresh : Bool) (stamp va n : Nat) : State × FRes :=
  let w := s.me
  let take (ws : List W64) : List W64 := (ws.drop (va % 128 / 8)).take n
  if s.parkWait then (s, .busy)
  else match s.resolve w (BitVec.ofNat 64 va) 8 .fetch with
  | (s1, .pa l ca) =>
    let s1 := s1.unpark
    let held := if fresh || ca = 3 then none else s1.coh.icache.find (codeKey w va)
    match held with
    | some x => (s1.putCode w va { x with used := s1.choices }, .ok (take x.words))
    | none =>
      if s1.badLine l then (s1, .fault 4 (BitVec.ofNat 64 va) 0)
      else match s1.lineOfCode w.isl l ca with
      | (s2, some ws) =>
        let s3 := s2.countSoft w [(l / 128 * 128, 128)]
        ((if ca = 3 then s3 else s3.putCode w va { words := ws, fill := stamp, used := s3.choices }), .ok (take ws))
      | (s2, none) => (s2, .busy)
  | (s1, .fault c f) => (s1.unpark, .fault c (BitVec.ofNat 64 va) f)
  | (s1, .park) => (s1.parkHere va, .busy)
  | (s1, _) => (s1, .busy)

/-- The lines that `n` words from `va` lie in, with the first word and the number of words in each. -/
def codeParts (va n : Nat) : List (Nat × Nat) :=
  let here := min n ((128 - va % 128) / 8)
  (va, here) :: if here < n then [(va + 8 * here, n - here)] else []

def codeGo (fresh : Bool) (stamp : Nat) : List (Nat × Nat) → State → State × FRes
  | [], s => (s, .ok [])
  | (va, n) :: r, s =>
    match s.codeOf fresh stamp va n with
    | (s1, .ok ws) =>
      match codeGo fresh stamp r s1 with
      | (s2, .ok ws') => (s2, .ok (ws ++ ws'))
      | x => x
    | x => x

/-- `n` words of code from `va`, all old or all new: from the instruction cache only where one fetch has filled every line of them, and not
when it may have dropped them since (R48). -/
def fetchWords (s : State) (va n : Nat) : State × FRes :=
  let ps := codeParts va n
  let have_ := ps.map fun p => s.coh.icache.find (codeKey s.me p.1)
  let together := match have_ with
    | some x :: r => r.all fun y => y.any (·.fill = x.fill)
    | _ => false
  let s1 := { s with choices := s.choices + 1 }
  codeGo (!together || Config.freeChoice s.choices % 2 = 1) s.choices ps s1

/-- The words of a clause with its header, where the header is as it was read: fetched as one (R33, R48). -/
def fetchClause (s : State) (va : Nat) (hdr : W64) (n : Nat) : State × FRes :=
  match s.fetchWords va (n + 1) with
  | (s1, .ok ws) => if ws.head? = some hdr then (s1, .ok ws) else (s1, .busy)
  | r => r

end State

/-! Registers an instruction names, by position (R219, R220). -/

/-- The registers of an operand of `n` registers, under the current mode. -/
def opndRegs (pilot sup qp : Bool) (n : Nat) : Opnd → List RegId
  | .v k => ((List.range n).filter fun i => k.toNat + i ≠ 255).map fun i => .v (vix sup (k.toNat + i))
  | .s k => (List.range n).map fun i => .s (six sup (k.toNat + i))
  | .w k => [.w k.toNat]
  | .p k => if k = 7 then [] else if pilot || qp then [.q k.toNat] else [.p k.toNat]
  | _ => []

/-- The instruction's guards and predicates are q0-q6 (R217). -/
def qClass (op : Nat) : Bool :=
  op < 0x20 || 0xE0 ≤ op || op = 0x20 || op = 0x29 || op = 0x2A || op = 0x2B || op = 0x2C || op = 0x24 || op = 0x25
    || op = 0x27 || op = 0x28

/-- Walkers read, and so advanced, by an instruction (R209). -/
def walkersIn (os : List Opnd) : List RegId := os.flatMap fun o => match o with | .w k => [RegId.w k.toNat] | _ => []

/-- Registers written, walkers among them, and registers read. -/
def namedRegs (pilot sup : Bool) (i : Instr) : List RegId × List RegId :=
  match i.parts with
  | none => ([], [])
  | some (o, f) =>
    let op := o.toNat
    let q := pilot || qClass op
    let r := opndRegs pilot sup q
    match f with
    | .r x =>
      match rShape op pilot x.ty x.sub x.c.enc with
      | none => ([], [])
      | some sh =>
        let g := r 1 (.p x.guard.pi)
        let wc := op = 0x80 || op = 0xE5 || op = 0xF0 || op = 0xF2
        let ws := r sh.d.n x.d ++ (if wc then r 1 x.c else [])
          ++ walkersIn [x.a, x.b, x.c]
        (ws ++ (if op = 0x2A || op = 0x2B then [.w (x.subN % 8)] else [])
            ++ (if (0x60 ≤ op && op ≤ 0x76) || op = 0x85 || op = 0x86 then [.astat] else []),
         g ++ r sh.a.n x.a ++ r sh.b.n x.b ++ (if wc then [] else r sh.c.n x.c))
    | .i x => (r (match iShape op pilot x.imm x.sub with | some sh => sh.1.n | none => 1) x.d ++ walkersIn [x.a],
               r 1 (.p x.guard.pi) ++ r (match iShape op pilot x.imm x.sub with | some sh => sh.2.n | none => 1) x.a)
    | .m x =>
      match mShape op pilot (match x.a with | .v _ => true | _ => false) x.os x.wid x.hint x.sem x.scope x.skw x.sub with
      | none => ([], [])
      | some sh =>
        let d := r sh.d.n x.d
        let rd := r 1 (.p x.guard.pi) ++ r sh.a.n x.a ++ r sh.x.n x.x
        let ws := walkersIn [x.a, x.x]
        if op = 0xA0 || op = 0xA3 || op = 0xA4 || op = 0xAC || op = 0xAD then (d ++ ws, rd) else (ws, d ++ rd)
    | .b x => (if op = 0x24 then r 2 (if pilot then .s (x.x.extractLsb' 0 7) else .v x.x) else [], r 1 (.p x.guard.pi))
    | .e x =>
      match eShape op pilot x.fb x.sub with
      | none => ([], [])
      | some sh =>
        let g := r 1 (.p x.guard.pi)
        let srcs := r sh.a.n x.a ++ r sh.b.n x.b ++ r sh.c.n x.c
        if op = 0xA2 then (r sh.d.n x.d, g ++ srcs)
        else if op = 0xD3 && x.sub.extractLsb' 0 2 = 0 then (r sh.a.n x.a, g)
        else ([], g ++ srcs ++ (if op = 0xD0 || op = 0xD1 || op = 0xD2 || op = 0xD3 then [] else r sh.d.n x.d))

/-- Control transfers (R216). -/
def isTransfer (op : Nat) : Bool :=
  op = 0x20 || op = 0x21 || op = 0x22 || op = 0x23 || op = 0x24 || op = 0x25 || op = 0x26 || op = 0x29 || op = 0xE0 || op = 0xE1

def opOf (i : Instr) : Nat := match i.parts with | some (op, _) => op.toNat | none => 0xFF

/-- The class of a long-latency operation by its code (R213): 1 class A, 2 class B, 0 neither. -/
def longClass (op : Nat) : Nat :=
  if op = 0xA0 || op = 0xA2 || op = 0xA3 || op = 0xA4 then 1
  else if op = 0xD0 || op = 0xD2 || op = 0xD3 then 2 else 0

/-- A barrier level of the grid needs a co-resident launch (R239). -/
def isGridBarrier (i : Instr) : Bool :=
  match i.parts with
  | some (op, .r x) => 0x90 ≤ op.toNat && op.toNat ≤ 0x95 && x.subN % 4 = 3
  | _ => false

/-- The last tile an instruction names (R308, R318). -/
def tileOf (i : Instr) : Option Nat :=
  match i.parts with
  | some (op, .e x) => match x.d with | .tile t => some (t.toNat + if op = 0xD1 then x.sub.toNat % 64 else 0) | _ => none
  | _ => none

/-- What the window admits: scalar, vector, floating-point, conversion, quad and crew-collective instructions, uniform branches, walker reads, WGET,
SYSRD and loads (R126). -/
def windowAdmits (i : Instr) : Bool :=
  let op := opOf i
  op ≤ 0x1B || op = 0x20 || op = 0x21 || op = 0x22 || op = 0x2C || (0x40 ≤ op && op ≤ 0x88) || op = 0xA0 || op = 0xE2

namespace State

/-- A fragment's registers and lanes meet an operation in flight (R214). -/
def conflict (c : Crew) (lanes : Mask) (ws rs : List RegId) : Bool :=
  c.ops.any fun o =>
    let lane (r : RegId) : Bool := match r with | .v _ => o.2.lanes &&& lanes ≠ 0 | .p _ => o.2.lanes &&& lanes ≠ 0 | _ => true
    (o.2.dests.any fun r => lane r && (ws.contains r || rs.contains r)) || (o.2.srcs.any fun r => lane r && ws.contains r)

/-- Vector registers named are allocated, or the supervisor bank in supervisor mode (R220). -/
def allocated (s : State) (i : Instr) : Bool :=
  let r := namedRegs s.pilot s.sup i
  (r.1 ++ r.2).all fun x => match x with | .v n => n < 8 * s.crew.granules || 496 ≤ n | _ => true

/-- The grid of the current gang was launched co-resident (R354). -/
def coResident (s : State) : Bool :=
  match s.taskOf s.gang with | some t => recN t.record 56 4 / 16 % 2 = 1 | none => false

/-- The checks of R231 that need the agent: placement in the clause, allocation of registers and tiles, co-residence. -/
def placed (s : State) (i : Instr) : Bool :=
  let left := s.ctl.hdr.len.toNat + 1 - s.ctl.cpos
  i.words ≤ left + 1 && (!isTransfer (opOf i) || i.words = left + 1)
    && (s.pilot || (s.allocated i && (tileOf i).all (· < s.gang.tiles) && (!isGridBarrier i || s.coResident)))

/-- Words of a clause from a position on, as an agent would execute them: the classes of operations they hold. -/
def classesGo (pilot : Bool) (code : List W64) : Nat → Nat → Nat × Nat
  | 0, _ => (0, 0)
  | fuel + 1, pos =>
    if code.length ≤ pos then (0, 0)
    else match decodeWord pilot (code.getD pos 0) (code.getD (pos + 1) 0) with
      | .ok i =>
        let n := classesGo pilot code fuel (pos + i.words)
        (n.1 + if longClass (opOf i) = 1 then 1 else 0, n.2 + if longClass (opOf i) = 2 then 1 else 0)
      | .error _ => classesGo pilot code fuel (pos + 1)

/-- The operations of each class in the agent's clause from a position on. -/
def classes (s : State) (pos : Nat) : Nat × Nat := classesGo s.pilot s.ctl.code 8 pos

/-- Flags that opening a run raises: SETA and SETB where the clause holds their class (R212). -/
def runFlags (h : Header) (n : Nat × Nat) : List Nat :=
  (if h.seta.toNat < 12 && n.1 ≠ 0 then [h.seta.toNat] else []) ++ (if h.setb.toNat < 12 && n.2 ≠ 0 then [h.setb.toNat] else [])

/-- The increments fit: no count goes past 63 (R212). -/
def runFits (c : Crew) (ks : List Nat) : Bool := ks.all fun k => flag c k + ks.count k ≤ 63

/-- A run opened for the current fragment's clause: counts raised, operations owed (R212). -/
def openRun (s : State) (h : Header) (n : Nat × Nat) : State :=
  if s.pilot then s
  else
    let id := s.exe.ids + 1
    let c := s.crew
    let flags := (runFlags h n).foldl (fun (t : Tbl Nat) k => t.put k (t.get 0 k + 1)) c.flags
    let r : ClauseRun := { entry := s.entry, fa := if h.seta.toNat < 12 then some h.seta.toNat else none,
                           fb := if h.setb.toNat < 12 then some h.setb.toNat else none, leftA := n.1, leftB := n.2 }
    let c' := { c with flags := flags, runs := if n.1 = 0 && n.2 = 0 then c.runs else c.runs.put id r }
    let s1 := { s.setCrew c' with exe.ids := id }
    s1.setFrag { s1.frag with run := id }

/-- The words of the agent's clause, as they were fetched at its header. After a stop they are fetched again (R33, R225). -/
def fetchHere (s : State) : State × FRes :=
  if !s.ctl.code.isEmpty then (s, .ok s.ctl.code)
  else match s.fetchWords s.ctl.pc.toNat (s.ctl.hdr.len.toNat + 2) with
    | (s1, .ok ws) => (s1.setCtl { s1.ctl with code := ws }, .ok ws)
    | r => r

/-- A register of a shadow copy taken from the crew (R127). -/
def shadowReg (c snap : Crew) : RegId → Crew
  | .v n => { snap with vregs := snap.vregs.put n (c.vregs.get [] n) }
  | .s n => { snap with uni.sregs := snap.uni.sregs.put n (c.uni.sregs.get 0 n) }
  | .p n => { snap with preds := snap.preds.put n (c.preds.get 0 n) }
  | .q n => { snap with uni.q := (snap.uni.q &&& ~~~(1#7 <<< n)) ||| (c.uni.q &&& (1#7 <<< n)) }
  | .w n => { snap with uni.walkers := snap.uni.walkers.put n (c.uni.walkers.get {} n) }
  | .astat => snap

/-- An instruction of a window is recorded; the registers it writes first enter the shadow copy (R126, R127). -/
def noteWindow (s : State) (i : Instr) : State :=
  let f := s.frag
  match f.window with
  | none => s
  | some w =>
    let new := ((namedRegs false f.ctl.sup i).1.filter fun r => !w.written.contains r).eraseDups
    s.setFrag { f with window := some { w with count := if w.tried then w.count else w.count + 1, tried := true, written := w.written ++ new, snap := new.foldl (shadowReg s.crew) w.snap } }

/-- A fragment-wide fault before issue: taken at once, or when the fragment's window has closed (R126, R128). -/
def deny (s : State) (c : Byte) (addr : Option W64) (fpte : Option W64 := none) : State :=
  if !s.pilot && s.frag.window.isSome then s.stall 5 .window else s.moorAll c addr fpte

/-- The word at the agent's position is checked (R231) and either ready to execute, or the agent is moored or waits. -/
def issueWord (s : State) : State × Option Instr :=
  match s.fetchHere with
  | (s1, .busy) => (s1.stall 7 .retry, none)
  | (s1, .fault c a f) => (s1.deny c (some a) (some f), none)
  | (s1, .ok ws) =>
    match decodeWord s1.pilot (ws.getD s1.ctl.cpos 0) (ws.getD (s1.ctl.cpos + 1) 0) with
    | .error _ => (s1.deny 0x10 none, none)
    | .ok i =>
      if !s1.placed i then (s1.deny 0x10 none, none)
      else if s1.pilot then (s1, some i)
      else
        let f := s1.frag
        let r := namedRegs false f.ctl.sup i
        let busy := f.acquire.any fun o => (s1.crew.ops.find o).isSome
        if busy then (s1.stall 5 (.op (f.acquire.getD 0)), none)
        else if conflict s1.crew f.mask r.1 r.2 then (s1.stall 3 (.regs r.2 r.1), none)
        else if f.window.any fun w => !windowAdmits i || (64 ≤ w.count && !w.tried) then (s1.stall 5 .window, none)
        else (s1.noteWindow i, some i)

/-- The header at the agent's clause (R33, R211, R215): the clause is fetched whole, and a fault is taken at its header. -/
def issueHeader (s : State) : State × Option Instr :=
  let pc := s.ctl.pc.toNat
  if s.ctl.past then (s.deny 2 (some (BitVec.ofNat 64 (2 ^ 52))) (some 0), none)
  else if !s.pilot && s.frag.window.isSome && s.joinDue then (s.stall 5 .window, none) else
  match s.fetchWords pc 1 with
  | (s1, .busy) => (s1.stall 7 .retry, none)
  | (s1, .fault c a f) => (s1.deny c (some a) (some f), none)
  | (s1, .ok ws) =>
    match decodeHeader (ws.headD 0) with
    | .error _ => (s1.deny 0x10 none, none)
    | .ok h =>
      if h.hold && (if s1.pilot then s1.thread.lastHold else s1.frag.lastHold) then (s1.deny 0x10 none, none)
      else match s1.fetchClause pc (ws.headD 0) (h.len.toNat + 1) with
      | (s2, .busy) => (s2.stall 7 .retry, none)
      | (s2, .fault c a f) => (s2.deny c (some a) (some f), none)
      | (s2, .ok code) => (s2.setCtl { s2.ctl with code := code }, some (.clauseHeader h))

/-- The current agent's next word: a header at position 0, else an instruction. A fragment that resumes within a clause
opens a run for the words left (R225). -/
def look (s : State) : State × Option Instr :=
  if s.ctl.cpos = 0 then s.issueHeader
  else if s.pilot || s.frag.run ≠ 0 then s.issueWord
  else
    match s.fetchHere with
    | (s1, .busy) => (s1.stall 7 .retry, none)
    | (s1, .fault c a f) => (s1.deny c (some a) (some f), none)
    | (s1, .ok _) =>
      let n := s1.classes s1.ctl.cpos
      let ks := runFlags s1.ctl.hdr n
      if !runFits s1.crew ks then (s1.stall 3 (.fits ks), none)
      else (s1.openRun s1.ctl.hdr n).issueWord

/-! Who may issue (R188, R215, R376, R379, R387, R389). -/

/-- An agent of a precinct may go on: the precinct runs, or halts and the agent has not reached its stop point (R379); the
same for a debug halt of its island (R389). `stop` says that it stands at a stop point. -/
def mayGo (s : State) (p : Nat) (stop : Bool) : Bool :=
  let x := s.precinct p
  let halt := s.mgt.dhalt.get false (p / 16)
  !s.mgt.stoppedIsl.contains (p / 16) &&
    (match x.state with
     | .running => !halt || !stop
     | .halting => !stop
     | _ => false)

/-- A fragment stands where it stops: at a clause boundary (R215, R379), or where a halt or an abort has stopped it. -/
def atStop (f : Frag) : Bool := (f.ctl.cpos = 0 && !f.lastHold) || f.stop

def gangOfFrag (s : State) (k : Nat) (f : Frag) : Gang :=
  s.gangAt (k / 320 * 16 + (s.crewAt (k / 320 * 64 + f.crew)).gang)

/-- Replay records of a precinct that have been reissued and neither performed nor parked again: they come before its fragments (R380, R387). -/
def replaying (s : State) (p : Nat) : Bool :=
  (s.exe.crews.any fun c => s.precinctOfCore (c.1 / 64) = p && c.2.ops.any fun o => o.2.accs.any (·.replay))
    || s.eng.tenders.any fun t => s.precinctOfCore t.1 = p && t.2.any fun r => r.granules.any fun g => g.todo.any (·.replay)

/-- The fragment may issue now. -/
def canIssue (s : State) (k : Nat) (f : Frag) : Bool :=
  let p := s.precinctOfCore (k / 320)
  f.mask ≠ 0 && (f.state = .ready || f.state = .handling)
    && s.mayGo p (atStop f) && !((s.gangOfFrag k f).aborted && atStop f) && !s.replaying p

def bayOf (k : Nat) (f : Frag) : Nat := k / 320 * 4 + f.crew / 16

/-- What keeps the current fragment from entering a clause: flags of its header's WAIT mask, or counts that do not fit (R212). -/
def headerWaits (s : State) (h : Header) : Option WaitFor :=
  let ks := runFlags h (s.classes 1)
  if !s.frag.tested && (List.range 12).any fun k => h.wait.getLsbD k && flag s.crew k ≠ 0 then some (.flags h.wait)
  else if !runFits s.crew ks then some (.fits ks)
  else none

/-- The next word of a fragment can issue (R365). -/
def wordCanIssue (s : State) (k : Nat) : Bool :=
  match { s with cur := .frag (k / 320) (k % 320) }.look with
  | (s1, some (.clauseHeader h)) => (s1.headerWaits h).isNone
  | (s1, r) => r.isSome || s1.frag.state ≠ .waiting

/-- The current fragment's clause issues: its bay's others that could issue are passed over once more, and its own count begins again (R201,
R365). -/
def noteIssue (s : State) : State :=
  if s.pilot then s
  else
    let k := s.fkey
    let bay := bayOf k s.frag
    { s with
      exe.frags := s.exe.frags.map fun e =>
        if e.1 = k then (e.1, { e.2 with passed := 0 })
        else if bayOf e.1 e.2 = bay && s.canIssue e.1 e.2 && s.wordCanIssue e.1 then (e.1, { e.2 with passed := e.2.passed + 1 })
        else e
      exe.bays := s.exe.bays.put bay (s.entry + 1) }

/-- A fragment that goes on within its clause after another of its bay issues one anew (R211, R365). -/
def takeBay (s : State) : State :=
  if s.pilot || s.ctl.cpos = 0 || s.exe.bays.get 0 (bayOf s.fkey s.frag) = s.entry + 1 then s else s.noteIssue

/-- The word that the current agent issues. -/
def issue (s : State) : State × Option Instr :=
  match s.look with
  | (s1, some i) => (s1.takeBay, some i)
  | r => r

end State

end Sys2Proof.Machine
end

