-- ==== Sys2Proof/Machine/Choose.lean ====
section
/-! DEFINITION. The bay's choice among the fragments that may issue, and the Pilot threads that may (R188, R201, R365, R379, R389). -/

namespace Sys2Proof.Machine

open Sys2Proof

namespace State

/-- The bay's choice among its eligible fragments (R365). -/
def chooseBay (s : State) (bay : Nat) (es : List (Nat × Frag)) : Option Nat :=
  match es.find? fun e => e.2.ctl.cpos ≠ 0 && s.exe.bays.get 0 bay = e.1 % 320 + 1 with
  | some e => some e.1
  | none =>
    let starved := es.filter fun e => 63 ≤ e.2.passed
    let es1 := if starved.isEmpty then es else starved
    let es2 := es1.filter fun e => s.exe.yielded.get 0 bay ≠ e.1 % 320 + 1
    let es3 := if es2.isEmpty then es1 else es2
    (es3.foldl (fun (b : Option (Nat × Frag)) e =>
      match b with
      | none => some e
      | some x => if e.2.age < x.2.age || (e.2.age = x.2.age && e.1 < x.1) then some e else b) none).map (·.1)

/-- The fragments that the bays would issue now. -/
def readyFrags (s : State) : List Nat :=
  let es := s.exe.frags.filter fun e => s.canIssue e.1 e.2
  (es.filter fun e => s.chooseBay (bayOf e.1 e.2) (es.filter fun x => bayOf x.1 x.2 = bayOf e.1 e.2) = some e.1).map (·.1)

/-- A Pilot thread stands where it stops: at a clause boundary, or where a halt or an abort has stopped it (R379). -/
def threadAtStop (t : PThread) : Bool := t.ctl.cpos = 0 || t.stop

/-- The Pilot threads that may issue now; one that an abort names stops (R376). -/
def readyThreads (s : State) : List Nat :=
  (s.exe.threads.filter fun t =>
    let p := s.precinctOf (t.1 / 4)
    t.2.state = .running && s.mayGo p (threadAtStop t.2) && !((s.precinct p).aborts.contains t.2.launchtag && threadAtStop t.2)
      && !s.replaying p).map (·.1)

def readyAgents (s : State) : List Agent :=
  s.readyFrags.map (fun k => .frag (k / 320) (k % 320)) ++ s.readyThreads.map fun t => .pilot (t / 4) (t % 4)

end State

end Sys2Proof.Machine
end

