-- ==== Sys2Proof/Machine/Flags.lean ====
section
/-! DEFINITION. Integer arithmetic of the scalar and vector classes, conditions, and the arithmetic status (R169, R173, R236,
R238, R244-R246, R266). -/

namespace Sys2Proof.Machine

open Sys2Proof

/-- Two's complement types (R244). -/
def signedTy (t : Ty) : Bool := t = .s8 || t = .s16 || t = .s32 || t = .s64 || t = .i4

/-- An operand's value in its type. -/
def valOf {n : Nat} (t : Ty) (v : BitVec n) : Int := if signedTy t then v.toInt else v.toNat

/-- The range of a type of `w` bits (R169). -/
def minOf (t : Ty) (w : Nat) : Int := if signedTy t then -(2 ^ (w - 1) : Int) else 0
def maxOf (t : Ty) (w : Nat) : Int := if signedTy t then 2 ^ (w - 1) - 1 else 2 ^ w - 1
def clampTo (t : Ty) (w : Nat) (x : Int) : Int := max (minOf t w) (min (maxOf t w) x)

/-- An exact result wrapped, or clamped under `.sat` (R236). -/
def narrow32 (t : Ty) (sat : Bool) (x : Int) : W32 := BitVec.ofInt 32 (if sat then clampTo t 32 x else x)

def addT (t : Ty) (sat : Bool) (a b : W32) : W32 := narrow32 t sat (valOf t a + valOf t b)
def subT (t : Ty) (sat : Bool) (a b : W32) : W32 := narrow32 t sat (valOf t a - valOf t b)
def madT (t : Ty) (sat : Bool) (a b c : W32) : W32 := narrow32 t sat (valOf t a * valOf t b + valOf t c)
def mulT (t : Ty) (a b : W32) : W32 := BitVec.ofInt 32 (valOf t a * valOf t b)
/-- The high half of the 64-bit product. -/
def mulhT (t : Ty) (a b : W32) : W32 := BitVec.ofInt 32 ((valOf t a * valOf t b) / 2 ^ 32)
/-- Quotient rounded toward zero; division by zero and the one overflow as R244 gives them. -/
def divT (t : Ty) (a b : W32) : W32 := if b = 0 then 0xFFFFFFFF else BitVec.ofInt 32 ((valOf t a).tdiv (valOf t b))
def remT (t : Ty) (a b : W32) : W32 := if b = 0 then a else BitVec.ofInt 32 ((valOf t a).tmod (valOf t b))
def minT (t : Ty) (a b : W32) : W32 := if valOf t a ≤ valOf t b then a else b
def maxT (t : Ty) (a b : W32) : W32 := if valOf t a ≤ valOf t b then b else a

/-- Shifts by 32 or more give the fill (R244). -/
def shlW (a b : W32) : W32 := if 32 ≤ b.toNat then 0 else a <<< b.toNat
def shrW (a b : W32) : W32 := if 32 ≤ b.toNat then 0 else a >>> b.toNat
def sarW (a b : W32) : W32 := a.sshiftRight (min b.toNat 32)
def rotW (a b : W32) : W32 := a.rotateLeft (b.toNat % 32)

/-- The number of 1 bits, and of 0 bits above the highest 1. -/
def popc {n : Nat} (v : BitVec n) : Nat := (List.range n).countP (v.getLsbD ·)
def clz {n : Nat} (v : BitVec n) : Nat := if v = 0 then n else n - 1 - Nat.log2 v.toNat

/-- The position and effective length of a field descriptor (R245). -/
def fieldPos (d : W32) : Nat := d.toNat % 32
def fieldLen (d : W32) : Nat := min (d.toNat / 256 % 64) (32 - fieldPos d)

def bfeT (t : Ty) (a d : W32) : W32 :=
  let n := fieldLen d
  let x := a.toNat / 2 ^ fieldPos d % 2 ^ n
  if n = 0 then 0
  else if signedTy t && 2 ^ (n - 1) ≤ x then BitVec.ofInt 32 ((x : Int) - 2 ^ n) else BitVec.ofNat 32 x

def bfiW (a b d : W32) : W32 :=
  let n := fieldLen d
  let m : W32 := BitVec.ofNat 32 ((2 ^ n - 1) * 2 ^ fieldPos d)
  (a &&& ~~~m) ||| ((b <<< fieldPos d) &&& m)

/-- An index scaled and added to an address (R246). -/
def leaT (t : Ty) (sh : Nat) (a : W64) (b : W32) : W64 :=
  a + ((if signedTy t then b.signExtend 64 else b.setWidth 64) <<< sh)

/-- Integer conditions 0 to 5 (R238). -/
def condInt (c : Nat) (a b : Int) : Bool :=
  match c with
  | 0 => a = b | 1 => a ≠ b | 2 => a < b | 3 => a ≤ b | 4 => b < a | 5 => b ≤ a | _ => false

namespace State

/-- Flags accumulate in the crew's `sys.astat` (R173). Those of a window fall with it when it is rolled back (R127). -/
def raise (s : State) (f : BitVec 6) : State :=
  if f = 0 then s
  else match s.frag.window with
    | none => s.setCrew { s.crew with astat := s.crew.astat ||| f, firm := s.crew.firm ||| f }
    | some w => (s.setCrew { s.crew with astat := s.crew.astat ||| f }).setFrag { s.frag with window := some { w with raised := w.raised ||| f } }

/-- `sys.astat` written whole: nothing that a window has raised before is left (R164, R173). -/
def putStat (s : State) (v : BitVec 6) : State :=
  let s1 := s.setCrew { s.crew with astat := v, firm := v }
  if s.windowFlags s.ckey (2 ^ 64) = 0 then s1
  else { s1 with exe.frags := s1.exe.frags.map fun (e : Nat × Frag) =>
    if e.1 / 320 = s.ckey / 64 && e.2.crew = s.ckey % 64 then (e.1, { e.2 with window := e.2.window.map fun w => { w with raised := 0 } }) else e }

end State

end Sys2Proof.Machine
end

