-- ==== Sys2Proof/Machine/Operands.lean ====
section
/-! DEFINITION. The operand forms: how an instruction reads its operands, under its guard, and goes on (R209, R217, R219-R222,
R241, R262). -/

namespace Sys2Proof.Machine

open Sys2Proof

/-- Words of a format R instruction. -/
def RI.len (x : RI) : Nat := if x.lit.isSome then 2 else 1

/-- An instruction with a q guard: its walker is read whatever the guard, its effect happens when the guard is true. -/
def uniform (x : RI) (s : State) (body : W64 → State → State) : State :=
  let r := s.walk [x.a, x.b, x.c]
  (if r.2.qguard x.guard then body r.1 r.2 else r.2).advance (RI.len x)

/-- A scalar instruction of 32-bit operands and result (R241). -/
def scalar32 (x : RI) (s : State) (f : W32 → W32 → W32 → W32) : State :=
  uniform x s fun w s => s.wrS x.d (f (s.u32 w x.lit x.a) (s.u32 w x.lit x.b) (s.u32 w x.lit x.c))

/-- A scalar instruction with a pair result. -/
def scalar64 (x : RI) (s : State) (f : W64 → State → W64) : State := uniform x s fun w s => s.wrS64 x.d (f w s)

/-- A vector instruction with a p guard: its effect on the active lanes (R217). -/
def perLane (x : RI) (s : State) (body : W64 → Mask → State → State) : State :=
  let r := s.walk [x.a, x.b, x.c]
  (body r.1 (r.2.act x.guard) r.2).advance (RI.len x)

/-- The register number of a vector operand. -/
def vnum : Opnd → Nat
  | .v n => n.toNat
  | _ => 255

/-- A vector instruction of 32-bit operands and result, lane by lane (R262). -/
def vector32 (x : RI) (s : State) (f : W32 → W32 → W32 → W32) : State :=
  perLane x s fun w m s => s.wrV (vnum x.d) m fun L => f (s.v32 w x.lit x.a L) (s.v32 w x.lit x.b L) (s.v32 w x.lit x.c L)

/-- A vector instruction with a pair result. -/
def vector64 (x : RI) (s : State) (f : W64 → State → Nat → W64) : State :=
  perLane x s fun w m s => s.wrV64 (vnum x.d) m (f w s)

/-- The outcome of every meaning. -/
abbrev Out := Host.Outcome State Fault Refusal

end Sys2Proof.Machine
end

