-- ==== Sys2Proof/Machine/FloatOps.lean ====
section
/-! DEFINITION. The floating-point instructions (R264, R267-R273). -/

namespace Sys2Proof.Machine

open Sys2Proof

/-- The conversion context of an instruction's SUB (R237). -/
def RI.cv (x : RI) : Cv := { rnd := x.rnd, ovf := x.ovf, ftz := x.ftz }

/-- Each element of a 32-bit register: one of `.f32`, two of a 16-bit type (R264). -/
def eachElem (t : Ty) (f : (W32 → Nat) → Nat × BitVec 6) : W32 × BitVec 6 :=
  if t = .f32 then
    let r := f fun v => v.toNat
    (BitVec.ofNat 32 r.1, r.2)
  else
    let r0 := f fun v => v.toNat % 2 ^ 16
    let r1 := f fun v => v.toNat / 2 ^ 16
    (BitVec.ofNat 32 (r0.1 + r1.1 * 2 ^ 16), r0.2 ||| r1.2)

/-- A vector instruction whose lanes raise flags; helper lanes raise none (R173, R262, R263). -/
def flagged (x : RI) (s : State) (f : W64 → State → Nat → W32 × BitVec 6) : State :=
  perLane x s fun w m s =>
    let rs := lanes32.map fun L => if m.getLsbD L then f w s L else (0, 0)
    let fl := (lanesOf (m &&& ~~~s.helpers)).foldl (fun a L => a ||| (rs.getD L (0, 0)).2) 0
    (s.wrV (vnum x.d) m fun L => (rs.getD L (0, 0)).1).raise fl

/-- A floating-point instruction on elements of a, b and c, rounded once (R268). -/
def floatOp (x : RI) (s : State) (f : Num → Num → Num → Num × BitVec 6) : State :=
  let t := fmtOfTy x.ty
  flagged x s fun w s L =>
    let a := s.v32 w x.lit x.a L
    let b := s.v32 w x.lit x.b L
    let c := s.v32 w x.lit x.c L
    eachElem x.ty fun e =>
      let r := f (readF t x.ftz (e a)) (readF t x.ftz (e b)) (readF t x.ftz (e c))
      let q := cvtFloat t (RI.cv x) r.1
      (q.1, r.2 ||| q.2)

/-- FADD. -/
def execFadd (x : RI) (s : State) : Out := .next (floatOp x s fun a b _ => sumN (x.rnd = 2) [a, b])
/-- FSUB. -/
def execFsub (x : RI) (s : State) : Out := .next (floatOp x s fun a b _ => sumN (x.rnd = 2) [a, b.neg])
/-- FMUL. -/
def execFmul (x : RI) (s : State) : Out := .next (floatOp x s fun a b _ => mulN a b)

/-- A sum of products and an addend: an invalid product decides before a NaN term (R268). -/
def fusedSum (rd : Bool) (ps : List (Num × BitVec 6)) (c : Num) : Num × BitVec 6 :=
  if ps.any (·.2 ≠ 0) then (.nan, fNV) else sumN rd (ps.map (·.1) ++ [c])

/-- FFMA. -/
def execFfma (x : RI) (s : State) : Out := .next (floatOp x s fun a b c => fusedSum (x.rnd = 2) [mulN a b] c)

/-- One value below another, with −0 below +0 (R269). -/
def lessN (a b : Num) : Bool :=
  match sumN false [a, b.neg] with
  | (.fin s n _ _ _, _) => if n = 0 then a.sign && !b.sign && a.isZero && b.isZero else s
  | (.inf s, _) => s
  | (.nan, _) => a.sign && !b.sign && a.isInf && b.isInf

/-- The smaller or larger of two codes (R269). -/
def minMaxF (t : Fmt) (mx : Bool) (a b : Nat) : Nat :=
  let x := decodeF t a
  let y := decodeF t b
  if x.isNan && y.isNan then t.nan.getD 0
  else if x.isNan then b
  else if y.isNan then a
  else if mx then (if lessN x y then b else a)
  else if lessN y x then b else a

def minMaxOp (x : RI) (s : State) (mx : Bool) : State :=
  let t := fmtOfTy x.ty
  vector32 x s fun a b _ =>
    (eachElem x.ty fun e => (minMaxF t mx (flushIn t x.ftz (e a)) (flushIn t x.ftz (e b)), 0)).1

/-- FMIN. -/
def execFmin (x : RI) (s : State) : Out := .next (minMaxOp x s false)
/-- FMAX. -/
def execFmax (x : RI) (s : State) : Out := .next (minMaxOp x s true)

/-- A condition on two values; 6 is ordered, 7 unordered, and a NaN makes the others false but for "not equal" (R238). -/
def condF (c : Nat) (a b : Num) : Bool :=
  if a.isNan || b.isNan then c = 1 || c = 7
  else
    let eq := (a.isZero && b.isZero) || (!lessN a b && !lessN b a)
    let lt := !eq && lessN a b
    match c with
    | 0 => eq | 1 => !eq | 2 => lt | 3 => lt || eq | 4 => !lt && !eq | 5 => !lt | 6 => true | _ => false

/-- FCMP. -/
def execFcmp (x : RI) (s : State) : Out :=
  .next (perLane x s fun w m s => s.wrP x.d m fun L =>
    condF x.fcond (readF (fmtOfTy .f32) x.ftz (s.v32 w x.lit x.a L).toNat) (readF (fmtOfTy .f32) x.ftz (s.v32 w x.lit x.b L).toNat))

/-- FRCP. -/
def execFrcp (x : RI) (s : State) : Out := .next (floatOp x s fun a _ _ => funcN 0x67 a)
/-- FRSQ. -/
def execFrsq (x : RI) (s : State) : Out := .next (floatOp x s fun a _ _ => funcN 0x68 a)
/-- FSQRT. -/
def execFsqrt (x : RI) (s : State) : Out := .next (floatOp x s fun a _ _ => funcN 0x69 a)
/-- FEXP2. -/
def execFexp2 (x : RI) (s : State) : Out := .next (floatOp x s fun a _ _ => funcN 0x6A a)
/-- FLOG2. -/
def execFlog2 (x : RI) (s : State) : Out := .next (floatOp x s fun a _ _ => funcN 0x6B a)
/-- FSIN: sin(π a). -/
def execFsin (x : RI) (s : State) : Out := .next (floatOp x s fun a _ _ => funcN 0x6C a)
/-- FCOS: cos(π a). -/
def execFcos (x : RI) (s : State) : Out := .next (floatOp x s fun a _ _ => funcN 0x6D a)
/-- FTANH. -/
def execFtanh (x : RI) (s : State) : Out := .next (floatOp x s fun a _ _ => funcN 0x6E a)

/-- An integral value in the mode, no flag (R272). -/
def roundF (t : Fmt) (rnd v : Nat) : Nat :=
  match decodeF t v with
  | .nan => t.nan.getD 0
  | .inf _ => v
  | .fin s n d e st =>
    if n = 0 then v else (cvtFloat t {} (.dy s (roundInt (fracOf n d e) st rnd s 0).1 0)).1

/-- FRND. -/
def execFrnd (x : RI) (s : State) : Out :=
  .next (vector32 x s fun a _ _ => (eachElem x.ty fun e => (roundF (fmtOfTy x.ty) x.rnd (flushIn (fmtOfTy x.ty) x.ftz (e a)), 0)).1)

/-- The class mask of a code (R272). -/
def classF (t : Fmt) (v : Nat) : Nat :=
  let ex := v / 2 ^ t.m % 2 ^ t.e
  match decodeF t v with
  | .nan => if v / 2 ^ (t.m - 1) % 2 = 1 then 512 else 256
  | .inf s => if s then 1 else 128
  | .fin s n _ _ _ =>
    if n = 0 then (if s then 8 else 16)
    else if ex = 0 then (if s then 4 else 32)
    else if s then 2 else 64

/-- FCLASS. -/
def execFclass (x : RI) (s : State) : Out :=
  .next (vector32 x s fun a _ _ => (eachElem x.ty fun e => (classF (fmtOfTy x.ty) (e a), 0)).1)

/-- a × 2^b, bounded exponents far outside every range kept apart (R272). -/
def scaleN (b : Int) : Num → Num
  | .fin s n d e st => if n = 0 then .fin s n d e st else .fin s n d (e + max (-100000) (min 100000 b)) st
  | y => y

/-- FSCALE: b is the lane's signed 32-bit B, whatever the type. -/
def execFscale (x : RI) (s : State) : Out :=
  .next (
    let t := fmtOfTy x.ty
    flagged x s fun w s L =>
      let a := s.v32 w x.lit x.a L
      let b := (s.v32 w x.lit x.b L).toInt
      eachElem x.ty fun e => cvtFloat t (RI.cv x) (scaleN b (readF t x.ftz (e a))))

/-- FDOT2: a0 b0 + a1 b1 + c with one rounding; only c and the result are flushed (R273). -/
def execFdot2 (x : RI) (s : State) : Out :=
  .next (
    let h := fmtOfTy x.sty
    let t := fmtOfTy .f32
    flagged x s fun w s L =>
      let a := (s.v32 w x.lit x.a L).toNat
      let b := (s.v32 w x.lit x.b L).toNat
      let c := (s.v32 w x.lit x.c L).toNat
      let p (i : Nat) : Num × BitVec 6 := mulN (decodeF h (a / 2 ^ (16 * i) % 2 ^ 16)) (decodeF h (b / 2 ^ (16 * i) % 2 ^ 16))
      let r := fusedSum (x.rnd = 2) [p 0, p 1] (readF t x.ftz c)
      let q := cvtFloat t (RI.cv x) r.1
      (BitVec.ofNat 32 q.1, r.2 ||| q.2))

end Sys2Proof.Machine
end

