-- ==== Sys2Proof/Machine/Convert.lean ====
section
/-! DEFINITION. The conversion instructions (R169, R175-R180, R274-R278). -/

namespace Sys2Proof.Machine

open Sys2Proof

/-- The range of an integer type; `.b32` and `.b64` as unsigned, `.i4` symmetric (R169, R275). -/
def rangeOf (t : Ty) : Int × Int :=
  if t = .i4 then (-7, 7) else (minOf t t.width, maxOf t t.width)

/-- The group parameters in B: scale as `.f16`, zero point as `.s8` (R274). -/
def groupScale (b : W32) : Num := decodeF (fmtOfTy .f16) (b.toNat % 2 ^ 16)
def groupZero (b : W32) : Int := (b.extractLsb' 16 8).toInt
/-- The unit exponent in B. -/
def unitExp (b : W32) : Int := (b.extractLsb' 0 8).toInt

/-- The exact value of a source element (R275), with the flags its reading raises. A de-quantised zero has the sign of s xor that of q < z, which R171
does not give (DESIGN CHOICE, unsafe: log 125). -/
def srcValue (t : Ty) (ftz : Bool) (b : W32) (v : Nat) : Num × BitVec 6 :=
  match t with
  | .fx128 =>
    let n : Int := if v < 2 ^ 127 then v else (v : Int) - 2 ^ 128
    (.dy (n < 0) n.natAbs (unitExp b), 0)
  | .q4 | .q8 =>
    match groupScale b with
    | .fin s n d e st =>
      let k : Int := (v : Int) - groupZero b
      (.fin (s != decide (k < 0)) (n * k.natAbs) d e st, 0)
    | _ => (.nan, fNV)
  | .i4 => if v = 8 then (.int 0, fRC) else (.int (BitVec.ofNat 4 v).toInt, 0)
  | t => if t.isFloat then (readF (fmtOfTy t) (ftz && t.isFl) v, 0) else (.int (if signedTy t then toSigned t.width v else v), 0)
where
  toSigned (w v : Nat) : Int := if v < 2 ^ (w - 1) then v else (v : Int) - 2 ^ w

/-- A signed integer as bits of a width. -/
def bitsOf (w : Nat) (x : Int) : Nat := (x % 2 ^ w).toNat

/-- A value divided by a nonzero finite one. -/
def divNum (x y : Num) : Num :=
  match x, y with
  | .fin s n d e st, .fin s' n' d' e' _ => .fin (s != s') (n * d') (d * n') (e - e') st
  | .inf s, y => .inf (s != y.sign)
  | _, _ => .nan

/-- Conversion to the kind of a result type (R275): its code and flags. Into `.q4` or `.q8` (R180), a NaN or a bad scale sets NV alone, also where z
has to be clamped (DESIGN CHOICE, unsafe: log 123), and an infinity clamps by the sign of x / s (DEDUCED, unsafe: log 124). -/
def dstCode (t : Ty) (c : Cv) (b : W32) (x : Num) : Nat × BitVec 6 :=
  match t with
  | .fx128 =>
    let y : Num := match x with | .fin s n d e st => .fin s n d (e - unitExp b) st | y => y
    let r := cvtInt (-(2 ^ 105)) (2 ^ 105) c y
    (bitsOf 128 r.1, r.2)
  | .q4 | .q8 =>
    let top : Int := 2 ^ t.width - 1
    let z := groupZero b
    let clampQ (q : Int) : Int := max 0 (min top q)
    let sc := groupScale b
    if x.isNan || sc.isNan || sc.isInf || sc.isZero then ((clampQ z).toNat, fNV)
    else match divNum x sc with
      | .fin s n d e st =>
        let r := roundInt (fracOf n d e) st c.rnd s c.sr
        let q : Int := (if s then -(r.1 : Int) else r.1) + z
        if clampQ q = q then (q.toNat, if r.2 then 0 else fNX) else ((clampQ q).toNat, fOF ||| fNX)
      | y => (if y.sign then 0 else top.toNat, fOF ||| fNX)
  | t =>
    if t.isFloat then cvtFloat (fmtOfTy t) { c with ftz := c.ftz && t.isFl } x
    else
      let r := rangeOf t
      let v := cvtInt r.1 r.2 c x
      (bitsOf t.width v.1, v.2)

/-- The flags of a conversion between integer types: saturation sets OF alone (R178). -/
def intFlags (dt st : Ty) (f : BitVec 6) : BitVec 6 := if dt.isInt && st.isInt then f &&& (fOF ||| fRC) else f

/-- One element converted (R275). -/
def convert (dt st : Ty) (c : Cv) (b : W32) (v : Nat) : Nat × BitVec 6 :=
  let x := srcValue st c.ftz b v
  let r := dstCode dt c b x.1
  (r.1, x.2 ||| intFlags dt st r.2)

/-- The elements of a register value, lowest first, converted in turn (R274). -/
def convertAll (dt st : Ty) (c : Nat → Cv) (b : W32) (v : Nat) (k : Nat) : Nat × BitVec 6 :=
  (List.range k).foldl (fun a i =>
    let r := convert dt st (c i) b (v / 2 ^ (st.width * i) % 2 ^ st.width)
    (a.1 + r.1 * 2 ^ (dt.width * i), a.2 ||| r.2)) (0, 0)

namespace State

/-- A vector operand of one, two or four registers of a lane, as a number. -/
def vnat (s : State) (w : W64) (lit : Option W64) (n : Nat) (o : Opnd) (L : Nat) : Nat :=
  if n = 1 then (s.v32 w lit o L).toNat
  else if n = 2 then (s.v64 w lit o L).toNat
  else (s.rdV64 (vnum o) L).toNat + (s.rdV64 (vnum o + 2) L).toNat * 2 ^ 64

/-- Consecutive registers written from a number, lowest first. -/
def wrVn (s : State) (base n : Nat) (m : Mask) (f : Nat → Nat) : State :=
  (List.range n).foldl (fun s i => s.wrV (base + i) m fun L => BitVec.ofNat 32 (f L / 2 ^ (32 * i))) s

end State

/-- A conversion of each active lane into `n` registers, with the lanes' flags. -/
def convLanes (x : RI) (s : State) (n : Nat) (f : W64 → State → Nat → Nat × BitVec 6) : State :=
  perLane x s fun w m s =>
    let rs := lanes32.map fun L => if m.getLsbD L then f w s L else (0, 0)
    let fl := (lanesOf (m &&& ~~~s.helpers)).foldl (fun a L => a ||| (rs.getD L (0, 0)).2) 0
    (s.wrVn (vnum x.d) n m fun L => (rs.getD L (0, 0)).1).raise fl

/-- The context of element `k` of a lane (R175). -/
def cvAt (x : RI) (s : State) (L k : Nat) : Cv := { RI.cv x with sr := srBits s.crew.srseed L k }

/-- Elements a lane converts (R274). -/
def cvtCount (dt st : Ty) : Nat := if 32 ≤ max dt.width st.width then 1 else 32 / max dt.width st.width

/-- CVT (R274, R275). -/
def execCvt (x : RI) (s : State) : Out :=
  .next (convLanes x s x.ty.regs fun w s L =>
    convertAll x.ty x.sty (cvAt x s L) (s.v32 w x.lit x.b L) (s.vnat w x.lit x.sty.regs x.a L) (cvtCount x.ty x.sty))

/-- PACK: two elements into slots pos and pos + 1 of D (R276). -/
def execPack (x : RI) (s : State) : Out :=
  .next (
    let pos := match x.c with | .num n => n.toNat | _ => 0
    let wd := x.ty.width
    convLanes x s 1 fun w s L =>
      let el (o : Opnd) (k : Nat) : Nat × BitVec 6 :=
        convert x.ty x.sty (cvAt x s L k) 0 ((s.v32 w x.lit o L).toNat % 2 ^ x.sty.width)
      let a := el x.a pos
      let b := el x.b (pos + 1)
      let old := (s.rdV (vnum x.d) L).toNat
      let hole := (2 ^ (2 * wd) - 1) * 2 ^ (wd * pos)
      (old - (old &&& hole) + (a.1 + b.1 * 2 ^ wd) * 2 ^ (wd * pos), a.2 ||| b.2))

/-- UNPK: the element in slot pos of A (R276). -/
def execUnpk (x : RI) (s : State) : Out :=
  .next (
    let pos := match x.c with | .num n => n.toNat | _ => 0
    convLanes x s 1 fun w s L =>
      convert x.ty x.sty (cvAt x s L pos) 0
        ((s.v32 w x.lit x.a L).toNat / 2 ^ (x.sty.width * pos) % 2 ^ x.sty.width))

/-! Block quantisation (R277, R278). -/

/-- emax of R278: floor(log2 of the largest finite value). -/
def emaxOf (t : Ty) : Int := match t with | .e4m3 => 8 | .e5m2 => 15 | .e3m2 => 4 | _ => 2

/-- |x| ≤ |y| for finite dyadic values. -/
def absLe (x y : Num) : Bool :=
  match x, y with
  | .fin _ n _ e _, .fin _ n' _ e' _ => let e0 := min e e'
                                        n * 2 ^ (e - e0).toNat ≤ n' * 2 ^ (e' - e0).toNat
  | _, _ => false

/-- The scale of a block: its code and its value (R278). -/
def blockScale (dt : Ty) (e4 : Bool) (xs : List Num) : Nat × Num :=
  let amax := xs.foldl (fun m x => if absLe m x then x else m) (.zero false)
  match amax with
  | .fin _ n d e _ =>
    if n = 0 then (if e4 then 0x38 else 0x7F, .dy false 1 0)
    else if !e4 then
      let k := max (-127) (min 127 (floorLog2 n d + e - emaxOf dt))
      ((k + 127).toNat, .dy false 1 k)
    else
      let q := divNum (.fin false n d e false) (decodeF (fmtOfTy dt) (fmtOfTy dt).maxc)
      let code := max 1 (min 0x7E (cvtFloat (fmtOfTy .e4m3) { rnd := 3 } q).1)
      (code, decodeF (fmtOfTy .e4m3) code)
  | _ => (0, .zero false)

/-- CVTB of one lane's block: packed codes, scale code, flags (R278). -/
def quantise (dt : Ty) (e4 : Bool) (c : Nat → Cv) (xs : List Num) : Nat × Nat × BitVec 6 :=
  if xs.any fun x => x.isNan || x.isInf then (0, if e4 then 0x7F else 0xFF, fNV)
  else
    let sc := blockScale dt e4 xs
    let r := xs.zipIdx.foldl (fun (a : Nat × BitVec 6) x =>
      let q := cvtFloat (fmtOfTy dt) { c x.2 with ovf := 0, ftz := false } (divNum x.1 sc.2)
      (a.1 + q.1 * 2 ^ (dt.width * x.2), a.2 ||| q.2)) (0, 0)
    (r.1, sc.1, r.2)

/-- CVTB (R277, R278). -/
def execCvtb (x : RI) (s : State) : Out :=
  .next (
    let ctl := match x.c with | .num n => n.toNat | _ => 0
    let len := if ctl % 2 = 1 then 32 else 16
    let n := x.ty.width * len / 32
    let a := vnum x.a
    let t := fmtOfTy x.sty
    convLanes x s (n + 1) fun _ s L =>
      let el (j : Nat) : Num :=
        readF t x.ftz (if x.sty = .f32 then (s.rdV (a + j) L).toNat else (s.rdV (a + j / 2) L).toNat / 2 ^ (16 * (j % 2)) % 2 ^ 16)
      let r := quantise x.ty (ctl / 2 % 2 = 1) (cvAt x s L) ((List.range len).map el)
      (r.1 + r.2.1 * 2 ^ (32 * n), r.2.2))

end Sys2Proof.Machine
end

