-- ==== Sys2Proof/Machine/Order.lean ====
section
/-! DEFINITION. What releases, acquires and fences wait for (R75, R109, R113, R118-R123, R125, R131). -/

namespace Sys2Proof.Machine

open Sys2Proof

/-- An access of the memory model: a load, store, atomic or RED, as against an engine operation or a prefetch (R107, R213). -/
def isAccess (o : LOp) : Bool := match o.kind with | .mma | .ald | .adrn _ | .pref _ => false | _ => true

/-- An operation that writes memory when it is performed. -/
def isWrite (o : LOp) : Bool := match o.kind with | .st _ | .red _ _ | .atom _ _ => true | _ => false

/-- Two lists of berth entries have one in common. -/
def shares (os ps : List Nat) : Bool := os.any (ps.contains ·)

/-- Scopes wider than the core: cluster and beyond (R110, R113). -/
def wide (scope : Nat) : Bool := 2 ≤ scope

/-- Whose program order is meant: the crew (or 2^40 + Pilot thread), the berth entries, the caching agent. -/
structure Src where
  ck : Nat
  os : List Nat
  ak : Nat

namespace State

/-- The key of the current agent's caching agent among all islands'. -/
def myAgentKey (s : State) : Nat := agentKey s.me

/-- The current agent's program order. -/
def mySrc (s : State) : Src := { ck := s.me.id, os := [s.entry], ak := s.myAgentKey }
/-- That of an operation of a crew. -/
def opSrc (s : State) (ck : Nat) (o : LOp) : Src := { ck := ck, os := o.owners, ak := agentKey (s.crewWho ck o.sup) }

/-- Accesses of a program order, numbered below a bound, that have not completed. -/
def readsOf (s : State) (x : Src) (n : Nat) : Bool :=
  (s.crewAt x.ck).ops.any fun o => o.1 < n && shares x.os o.2.owners && isAccess o.2

/-- What its reads numbered below a bound have returned: the newest store of its own, or the newest of the core that stood in the buffer. -/
def seenBound (s : State) (x : Src) (own : Bool) (n : Nat) : Nat :=
  let l := if x.ck < 2 ^ 40 then (s.crewAt x.ck).seen else (s.exe.threads.get {} (x.ck - 2 ^ 40)).seen
  (l.filter fun e => e.own = own && e.load < n && shares x.os e.owners).foldl (fun b e => max b e.bound) 0

/-- Some write is not yet performed at a scope (R113) that happens before what is numbered `n` (R120, R121): its own earlier writes, for a
release, or those its reads have returned; and every store that stood in the core's buffer before, whoever made it (DESIGN CHOICE, unsafe:
log 46). -/
def writesOf (s : State) (x : Src) (own : Bool) (scope n : Nat) : Bool :=
  let other := s.seenBound x false n
  (wide scope && s.coh.wbuf.any fun e => e.core = x.ak &&
      (if e.crew = x.ck && shares x.os e.owners then (own && e.po < n) || e.id ≤ s.seenBound x true n else e.id < n || e.id ≤ other))
    || (5 ≤ scope && s.coh.wow.any fun w => w.po < n || w.po ≤ other)

/-- A release numbered `n` may be performed (R120). -/
def relDone (s : State) (x : Src) (scope n : Nat) : Bool := !s.readsOf x n && !s.writesOf x true scope n

/-- An acquire numbered `n` has nothing to wait for (R121). -/
def acqDone (s : State) (x : Src) (scope n : Nat) : Bool := !s.readsOf x n && !s.writesOf x false scope n

/-- An island operation was issued in a program order (R145). -/
def issuedBy (x : Src) (o : IslOp) : Bool :=
  if 2 ^ 40 ≤ x.ck then o.pilot && o.who = .pilot ((x.ck - 2 ^ 40) / 4) ((x.ck - 2 ^ 40) % 4)
  else !o.pilot && o.crew = x.ck && shares x.os o.owners

/-- An island operation was issued by the current agent. -/
def mine (s : State) (o : IslOp) : Bool := issuedBy s.mySrc o

/-- Source bytes of an island operation issued before what is numbered `n` are still to be read (R123). -/
def sourceOut (s : State) (x : Src) (n : Nat) : Bool :=
  s.eng.ops.any fun o => issuedBy x o.2 && o.2.fork ≤ n && o.2.data.isNone && o.2.kind ≠ .get && o.2.sent < o.2.len

/-- A release no longer holds a write back. -/
def relOver (s : State) (x : Src) (r : Rel) : Bool := s.relDone x r.scope r.upto && !(r.fence && 4 ≤ r.scope && s.sourceOut x r.upto)

/-- What an operation's writes wait for: releases before it, its own and those of fences (R118, R120). -/
def freeToWrite (s : State) (x : Src) (rel : List Rel) : Bool := rel.all (s.relOver x)

/-- The release fences of the current agent that are not yet over. -/
def relsLeft (s : State) : List Rel := (if s.pilot then s.thread.rel else s.frag.rel).filter fun r => !s.relOver s.mySrc r

/-- A release fence is noted: later writes wait for it (R118). -/
def addRel (s : State) (scope : Nat) : State :=
  let r := (s.relsLeft ++ [({ scope := scope, upto := s.exe.ids + 1, fence := true } : Rel)]).filter fun r => !s.relOver s.mySrc r
  if s.pilot then s.setThread { s.thread with rel := r } else s.setFrag { s.frag with rel := r }

/-! Tile windows of a gang and the order of its crews (R45). A crew's access is taken as ordered after a TWIN once its crew has made an acquire
after a release that the TWIN's crew made since, each at gang scope or wider (DESIGN CHOICE, unsafe: log 47). -/

def putTwins (s : State) (gk : Nat) (l : List TwinOld) : State :=
  let g := s.gangAt gk
  if l = g.twinOld then s else { s with exe.gangs := s.exe.gangs.put gk { g with twinOld := l } }

/-- The key of a crew's gang. -/
def gangOfCrew (s : State) (ck : Nat) : Nat := ck / 64 * 16 + (s.crewAt ck).gang

/-- A crew makes a release at a scope. -/
def twinRelease (s : State) (ck scope : Nat) : State :=
  if scope = 0 || 2 ^ 40 ≤ ck then s
  else
    let gk := s.gangOfCrew ck
    s.putTwins gk ((s.gangAt gk).twinOld.map fun e => if e.writer = ck then { e with released := true } else e)

/-- A crew makes an acquire at a scope. -/
def twinAcquire (s : State) (ck scope : Nat) : State :=
  if scope = 0 || 2 ^ 40 ≤ ck then s
  else
    let gk := s.gangOfCrew ck
    s.putTwins gk ((s.gangAt gk).twinOld.map fun e =>
      if e.writer ≠ ck && e.released && !e.ordered.contains ck then { e with ordered := e.ordered ++ [ck] } else e)

/-- Every earlier access of the agent, and every write that happens before, is performed at the scope (R120). -/
def released (s : State) (scope : Nat) : Bool := s.relDone s.mySrc scope (s.exe.ids + 1)

/-- Every earlier read is complete and every write that happens before is performed at the scope (R121). -/
def acquired (s : State) (scope : Nat) : Bool := s.acqDone s.mySrc scope (s.exe.ids + 1)

/-- An access made before the agent's last split or fusion is still to be performed: it comes before every access of the fragment (R109). -/
def forkOut (s : State) : Option Nat :=
  if s.pilot then none
  else (s.crew.ops.find? fun o => o.1 ≤ s.frag.fork && shares [s.entry] o.2.owners && isAccess o.2).map (·.1)

/-- A RED or an uncached store numbered up to `n` in a program order still stands in its agent's buffer: it is not performed (R109, R113). -/
def lateStores (s : State) (ck : Nat) (os : List Nat) (n : Nat) : Bool :=
  s.coh.wbuf.any fun e => e.crew = ck && e.id ≤ n && (e.red.isSome || e.unc) && shares os e.owners

/-- One made before the current agent's last split or fusion, which every access of the fragment comes after. -/
def forkLate (s : State) : Bool := !s.pilot && s.lateStores s.ckey [s.entry] s.frag.fork

/-- A fence numbered `n` completes (R118, R121-R123): an acquire when earlier reads, and writes that happen before it, are performed;
FENCE.sc also when the agent's own are; at panel or system scope when source bytes are read. -/
def fenceDone (s : State) (sc : Bool) (scope n : Nat) : Bool :=
  s.acqDone s.mySrc scope n && (!sc || s.relDone s.mySrc scope n) && !(4 ≤ scope && s.sourceOut s.mySrc n)

/-- The writes that a FENCE.T waits for have reached their translation completion point, and no earlier access is parked (R75, R80). -/
def transDone (s : State) : Bool :=
  let x := s.mySrc
  !((s.crewAt x.ck).ops.any fun o => shares x.os o.2.owners && isAccess o.2 && (isWrite o.2 || o.2.accs.any (·.parked)))
    && !(s.coh.wbuf.any fun e => e.core = x.ak && e.crew = x.ck && shares x.os e.owners)

/-- A pending error of an add-on-store is taken at the current instruction (R323): the fragment is moored with cause 0x04. -/
def takeErr (s : State) (p : BitVec 8 → Bool) : Option State :=
  if s.pilot then none
  else (s.frag.errs.find? fun e => p e.1).map fun e =>
    (s.setFrag { s.frag with errs := s.frag.errs.erase e }).moorAll 4 (some e.2)

/-- The scope of a barrier level: crew, gang, cluster, island (R125). -/
def levelScope (lvl : Nat) : Nat := lvl

end State

end Sys2Proof.Machine
end

