-- ==== Sys2Proof/Machine/Buffer.lean ====
section
/-! DEFINITION. Reads through the write buffers and the L1 (R50, R52, R88, R108, R112, R114). -/

namespace Sys2Proof.Machine

open Sys2Proof

namespace State

/-! Reads (R88, R108, R112, R114). -/

/-- Bytes of a range that wait in an agent's buffer in a form its own reads cannot take: REDs and uncached stores. -/
def pendingAt (s : State) (ak loc n : Nat) : Bool :=
  s.coh.wbuf.any fun e => e.core = ak && (e.red.isSome || e.unc) && e.bytes.any fun b => loc ≤ b.1 && b.1 < loc + n

/-- Every byte of a range waits in the agent's buffer. -/
def buffered (s : State) (ak loc n : Nat) : Bool :=
  (List.range n).all fun i => s.coh.wbuf.any fun e => e.core = ak && e.red.isNone && e.bytes.any fun b => b.1 = loc + i

/-- What a read has returned from its core's buffer is noted for the releases and acquires after it (R112, R120, R121). -/
def noteSeen (s : State) (x : Src) (load : Nat) (ls : List (Nat × Nat × Nat)) : State :=
  let mine := s.coh.wbuf.filter fun e => e.core = x.ak
  let own (e : WEnt) : Bool := e.crew = x.ck && shares x.os e.owners
  let got := (mine.filter fun e => own e && e.bytes.any fun b => ls.any fun p => p.1 ≤ b.1 && b.1 < p.1 + p.2.1).foldl (fun b e => max b e.id) 0
  let new := (if got = 0 then [] else [({ load := load, owners := x.os, bound := got, own := true } : Seen)])
    ++ (if mine.all own && s.coh.wow.isEmpty then [] else [{ load := load, owners := x.os, bound := s.exe.ids }])
  let kept (l : List Seen) : List Seen := (l.filter fun e => mine.any (·.id ≤ e.bound) || s.coh.wow.any (·.po ≤ e.bound)) ++ new
  if mine.isEmpty && s.coh.wow.isEmpty then s
  else if x.ck < 2 ^ 40 then s.putCrew x.ck { s.crewAt x.ck with seen := kept (s.crewAt x.ck).seen }
  else
    let t := s.exe.threads.get {} (x.ck - 2 ^ 40)
    { s with exe.threads := s.exe.threads.put (x.ck - 2 ^ 40) { t with seen := kept t.seen } }

/-- A read of bytes of one line by an agent: performed now, or what it needs is asked for. -/
def readNow (s : State) (w : Who) (hint va ca loc n : Nat) : State × Option (List Byte) :=
  let ak := agentKey w
  let take (s : State) : Option (List Byte) := some (s.peekPieces ak [(loc, n)])
  if !isGlobal loc then (s, take s)
  else if s.pendingAt ak loc n then (s, none)
  else if ca = 3 then
    if isHost loc then (s, take s)
    else match s.homeRead (s.askFor w (lineKey w.isl loc) va 3) with
      | (s1, true) => (s1, take s1)
      | (s1, false) => (s1, none)
  else if s.buffered ak loc n then (s, take s)
  else
    let lk := lineKey w.isl loc
    match s.needRead { s.askFor w lk va (effHint ca hint) with spec := w.spec } with
    | (s1, true) => let s2 := s1.accessDone w.isl (w.agent.getD 0) lk
                    (s2, take s2)
    | (s1, false) => (s1, none)

/-- The pieces of an access read as one, or not yet. -/
def readAll (s : State) (w : Who) (hint ca : Nat) : List (Nat × Nat × Nat) → State × Option (List Byte)
  | [] => (s, some [])
  | (l, n, va) :: r =>
    match s.readNow w hint va ca l n with
    | (s1, none) => (s1, none)
    | (s1, some bs) =>
      match s1.readAll w hint ca r with
      | (s2, some bs') => (s2, some (bs ++ bs'))
      | (s2, none) => (s2, none)

end State

end Sys2Proof.Machine
end

