-- ==== Sys2Proof/Machine/Memory.lean ====
section
/-! DEFINITION. Loads, stores, atomics, REDs, prefetch and cache control (R10, R24, R108, R124, R285-R295). -/

namespace Sys2Proof.Machine

open Sys2Proof

/-- What a lane's access resolves to at issue: an access, a fault, or nothing for a helper lane that would fault (R10). -/
inductive LaneR
  | acc (a : Acc)
  | fault (f : LFault)
  | drop
  deriving DecidableEq, Repr

/-- The width of a format M access in bytes (R217). -/
def MI.bytes (x : MI) : Nat := 2 ^ x.wid.toNat

namespace State

/-- The lanes that take part: the active lanes, or lane 0 for a Pilot thread whose guard is true (R286). -/
def mlanes (s : State) (g : Guard) : List Nat :=
  if s.pilot then (if s.qguard g then [0] else []) else lanesOf (s.act g)

/-- A lane that is not a helper lane. -/
def ordinary (s : State) (L : Nat) : Bool := s.pilot || !s.helpers.getLsbD L

/-- A lane's address (R285). -/
def ea (s : State) (x : MI) (atom : Bool) (w : W64) (L : Nat) : W64 :=
  (match x.a with | .v n => s.rdV64 n.toNat L | o => s.u64 w none o) + x.ofs.signExtend 64
    + (if x.os && !atom then (s.u32 w none x.x).signExtend 64 else 0)

/-- Atomics and REDs cannot reach an uncached host page (R292). -/
def noAtomic (k : AKind) (ca : Nat) (locs : List (Nat × Nat)) : Bool :=
  k = .atomic && ca = 3 && locs.any fun p => isHost p.1

/-- Storage that an access needs is uncorrectable (R57, R59): for a store only what it does not replace whole; cache control needs no data. -/
def needsBad (s : State) (k : AKind) (whole : List Nat) (ls : List (Nat × Nat)) : Bool :=
  match k with
  | .store => ls.any fun p => s.badWrite whole p.1 p.2
  | .cctl => false
  | _ => s.badPieces ls

/-- One lane's access resolved (R24, R59); none where it must be tried again. `whole` are lines a store writes wholly. -/
def resolveLane (s : State) (w : Who) (k : AKind) (width : Nat) (skw : Bool) (whole : List Nat) (L : Nat) (a : W64) :
    State × Option LaneR :=
  let bad (s : State) (c : Byte) (addr : W64) (fpte : Option W64) : LaneR :=
    if s.ordinary L then .fault { lane := L, cause := c, addr := some addr, fpte := fpte } else .drop
  if s.parkWait then (s, none)
  else match s.laneAccess w L a width k skw with
  | (s1, .ok ls ca) =>
    let s2 := s1.unpark
    if noAtomic k ca ls then (s2, some (bad s2 2 a (some 0)))
    else if s2.needsBad k whole ls then (s2, some (bad s2 4 a none))
    else ((if k = .cctl then s2 else s2.countSoft w ls), some (.acc { lane := L, va := a, locs := s2.withVas w L a ls, ca := ca }))
  | (s1, .fault c f p) => let s2 := s1.unpark
                          (s2, some (bad s2 c f (some p)))
  | (s1, .park va) =>
    let s2 : State := { s1 with exe.ids := s1.exe.ids + 1 }
    (if s2.pilot then s2.parkHere va else s2, some (.acc { lane := L, va := a, parked := true, pseq := s2.exe.ids, pva := va }))
  | (s1, .busy) => (s1, none)

/-- Each lane's access in turn. -/
def resolveGo (w : Who) (k : AKind) (width : Nat) (skw : Bool) (whole : List Nat) :
    List (Nat × W64) → State → State × Option (List LaneR)
  | [], s => (s, some [])
  | (L, a) :: r, s =>
    match s.resolveLane w k width skw whole L a with
    | (s1, none) => (s1, none)
    | (s1, some x) =>
      match resolveGo w k width skw whole r s1 with
      | (s2, some xs) => (s2, some (x :: xs))
      | y => y

def accsOf (rs : List LaneR) : List Acc := rs.filterMap fun r => match r with | .acc a => some a | _ => none
def faultsOf (rs : List LaneR) : List LFault := rs.filterMap fun r => match r with | .fault f => some f | _ => none

/-- Each lane's access. Lanes that are parked take a miss slot of the core for each line; with too few free the instruction is tried again (R79). -/
def resolveLanes (w : Who) (k : AKind) (width : Nat) (skw : Bool) (whole : List Nat) (ls : List (Nat × W64)) (s : State) :
    State × Option (List LaneR) :=
  match resolveGo w k width skw whole ls s with
  | (s1, some rs) =>
    let lines := (((accsOf rs).filter (·.parked)).map fun a => a.va.toNat / 128).eraseDups
    if !lines.isEmpty && !s.pilot && 256 < s1.missesOf w.isl (w.agent.getD 0) + lines.length then (s1, none) else (s1, some rs)
  | r => r

/-- Two sets of pieces share a byte. -/
def overlap (a b : List (Nat × Nat × Nat)) : Bool := a.any fun p => b.any fun q => p.1 < q.1 + q.2.1 && q.1 < p.1 + p.2.1

/-- The bytes of each access of an operation. -/
def accBytes (o : LOp) : Nat := match o.kind with | .ld m | .st m | .atom _ m | .red _ m => MI.bytes m | _ => 1

/-- An access shares a byte with pieces. A parked one may share a byte of global memory wherever the addresses agree below 64 KiB, the smallest page:
its page can come to name any frame (R108; DESIGN CHOICE, unsafe: log 112). -/
def mayMeet (s : State) (w : Who) (n : Nat) (a : Acc) (ls : List (Nat × Nat × Nat)) : Bool :=
  if !a.parked then overlap a.locs ls
  else (s.vparts w a.lane a.va n).any fun v => ls.any fun p => isGlobal p.1 &&
    ((v.1 < p.2.2 + p.2.1 && p.2.2 < v.1 + v.2)
      || (v.1 % 65536 < p.1 % 65536 + p.2.1 && p.1 % 65536 < v.1 % 65536 + v.2))

/-- An access in flight of one of the fragments, numbered below a bound, that shares a byte with the pieces: it comes first (R108). -/
def earlier (s : State) (ck : Nat) (os : List Nat) (n : Nat) (ls : List (Nat × Nat × Nat)) : Option Nat :=
  ((s.crewAt ck).ops.find? fun o => o.1 < n && isAccess o.2 && shares os o.2.owners
    && o.2.accs.any fun a => s.mayMeet (s.crewWho ck o.2.sup) (accBytes o.2) a ls).map (·.1)

/-- A long-latency operation is in flight from now on: after what came before the fragment's last split or fusion (R109), and its writes after
the releases before it. -/
def launchOp (s : State) (o : LOp) (acquire : Bool) : State :=
  let id := s.exe.ids + 1
  let f := s.frag
  let o' : LOp := { o with entry := s.entry, owners := [s.entry], run := f.run, sup := s.sup, ctl := f.ctl, after := f.fork }
  let s1 := { s.setCrew { s.crew with ops := s.crew.ops.put id o' } with exe.ids := id }
  if acquire then s1.setFrag { s1.frag with acquire := some id } else s1

/-- A long-latency instruction that no lane executes completes at issue (R213, R217). -/
def opSkipped (s : State) (clsB : Bool) : State :=
  if s.pilot then s
  else s.setCrew (runDone s.crew s.frag.run (if clsB then 0 else 1) (if clsB then 1 else 0))

/-- A load that the L1 serves: translated, cached global memory (R126). -/
def windowLoad (s : State) (hint : Nat) (a : Acc) : Bool :=
  !a.parked && a.ca ≠ 3 && a.locs.all fun p => isGlobal p.1 &&
    (hint ≠ 3 || (s.cline s.isl (s.core % 128) (lineNo (lineKey s.isl p.1))).tokens ≠ 0) &&
    (match s.apHit s.me a.va.toNat [0, 1, 2, 3, 4, 5] with | some _ => false | none => true)

end State

/-- The registers of D that a load writes, one to four (R288). -/
def MI.nregs (x : MI) : Nat := if x.wid = 3 then 2 else if x.wid = 4 then 4 else 1

/-- The register values a load of bytes yields (R289). -/
def loadWords (x : MI) (bs : List Byte) : List W32 :=
  let v := natOf bs
  let n := (MI.bytes x)
  if n < 4 then
    [if x.sub = 1 && 2 ^ (8 * n - 1) ≤ v then BitVec.ofInt 32 ((v : Int) - 2 ^ (8 * n)) else BitVec.ofNat 32 v]
  else (List.range (MI.nregs x)).map fun i => BitVec.ofNat 32 (v / 2 ^ (32 * i))

/-- A Pilot's register block written (R286). -/
def wrBlock (s : State) (o : Opnd) (vs : List W32) : State :=
  match o with
  | .s n => vs.zipIdx.foldl (fun s v => s.putS (n.toNat + v.2) v.1) s
  | _ => s

/-- A load of a Pilot thread: performed before the thread goes on. -/
def pilotLoad (x : MI) (s : State) (a : W64) : State :=
  match s.resolveLane s.me .load (MI.bytes x) false [] 0 a with
  | (s1, some (.acc c)) =>
    if c.parked then s1.stall 7 .retry
    else match s1.readAll s1.me x.hint.toNat c.ca c.locs with
      | (s2, some bs) => (wrBlock (s2.noteSeen s2.mySrc s2.exe.ids c.locs) x.d (loadWords x bs)).advance 1
      | (s2, none) => s2.stall 7 .retry
  | (s1, some (.fault f)) => s1.settle [f] 1
  | (s1, some .drop) => s1.advance 1
  | (s1, none) => s1.stall 7 .retry

/-- LD (R288, R289): a class-A operation. -/
def execLd (x : MI) (s0 : State) : Out :=
  .next (
    let r := s0.walk [x.a, x.x]
    let s := r.2
    let ls := s.mlanes x.guard
    if ls.isEmpty then (s.opSkipped false).advance 1
    else if s.pilot then pilotLoad x s (s.ea x false r.1 0)
    else match State.resolveLanes s.me .load (MI.bytes x) x.skw [] (ls.map fun L => (L, s.ea x false r.1 L)) s with
      | (s1, none) => s1.stall 7 .retry
      | (s1, some rs) =>
        let as := State.accsOf rs
        let fs := State.faultsOf rs
        let win := s1.frag.window
        let aps := fs.any fun f => let va := (f.addr.getD 0).toNat
                                   (s1.apHit { s1.me with acc := f.lane } va [0, 1, 2, 3, 4, 5]).isSome || (s1.cached s1.me va).any fun e => fld e.pte 6 2 = 3
        if win.isSome && (aps || !(as.all (s1.windowLoad x.hint.toNat))) then s1.stall 5 .window
        else
          let d := vnum x.d
          let regs := if d = 255 then [] else (List.range (MI.nregs x)).map fun i => vix s1.sup (d + i)
          let dropped := (ls.zip rs).filterMap fun p => match p.2 with | .drop => some p.1 | _ => none
          let o : LOp := { kind := .ld x, lanes := maskOf (as.map (·.lane) ++ dropped), dests := regs.map RegId.v, accs := as,
                           values := dropped.flatMap fun L => regs.map fun n => (n, L, 0) }
          let s2 := if as.isEmpty && dropped.isEmpty then s1.opSkipped false else s1.launchOp o (x.sem = 1)
          match win with
          | some w => if fs.isEmpty then s2.advance 1
                      else (s2.setFrag { s2.frag with window := some { w with deferred := fs } }).stall 5 .window
          | none => s2.settle fs 1)

/-- The bytes a store takes from D of a lane (R290). -/
def storeBytes (x : MI) (s : State) (L : Nat) : List Byte :=
  let v : Nat :=
    if s.pilot then
      (match x.d with
       | .s n => (List.range (MI.nregs x)).foldl (fun a i => a + (s.rdS (n.toNat + i)).toNat * 2 ^ (32 * i)) 0
       | _ => 0)
    else (List.range (MI.nregs x)).foldl (fun a i => a + (s.rdV (vnum x.d + i) L).toNat * 2 ^ (32 * i)) 0
  byteList (MI.bytes x) v

/-- Lines that the bytes of a store cover wholly. -/
def wholeLines (ps : List (Nat × Nat)) : List Nat :=
  let ls := (ps.map fun p => p.1 / 128).eraseDups
  ls.filter fun l => (List.range 128).all fun i => ps.any fun p => p.1 ≤ l * 128 + i && l * 128 + i < p.1 + p.2

namespace State

/-- The releases that a write of the agent waits for: those of its fences, and its own at a scope (R118, R120). -/
def relsFor (s : State) (rel : Bool) (scope : Nat) : List Rel :=
  s.relsLeft ++ if rel && !s.released scope then [{ scope := scope, upto := s.exe.ids + 1 }] else []

/-- An access of a store or RED cannot be made at issue: it is parked; or it comes after a release, an access to a common byte, one before the
fragment's last split or fusion, or a parked lane below it; or the instruction touches more lines than the write buffer holds (R78, R108, R109,
R114, R118, R290). -/
def holdBack (s : State) (n : Nat) (rel : List Rel) (as : List Acc) (a : Acc) : Bool :=
  let me := s.me
  let lines := ((as.flatMap (·.locs)).filter fun p => isGlobal p.1).map fun p => lineKey me.isl p.1
  a.parked || !rel.isEmpty || bufferSize me < lines.eraseDups.length || s.forkOut.isSome || s.forkLate
    || (s.earlier me.id [s.entry] (s.exe.ids + 1) a.locs).isSome
    || as.any fun p => p.parked && p.lane < a.lane && s.mayMeet me n p a.locs

end State

/-- Stores or REDs of lanes (R290, R293): what may be made at issue is sent, the rest stays behind as an operation; lanes that fault are split
off. A Pilot thread waits instead of leaving an operation behind. -/
def sendStores (x : MI) (s : State) (w : W64) (k : AKind) (red : Option (UKey × Bool)) (kind : LKind) : State :=
  let ls := (s.mlanes x.guard).filter s.ordinary
  let addr (L : Nat) : W64 := s.ea x false w L
  if ls.isEmpty then s.advance 1
  else
    let me := s.me
    let whole : List Nat := if red.isSome then [] else
      wholeLines (ls.flatMap fun L => match (s.laneAccess me L (addr L) (MI.bytes x) k x.skw).2 with | .ok l _ => l | _ => [])
    match State.resolveLanes me k (MI.bytes x) x.skw whole (ls.map fun L => (L, addr L)) s with
    | (s1, none) => s1.stall 7 .retry
    | (s1, some rs) =>
      let as := State.accsOf rs
      let rel := s1.relsFor (x.sem = 2) x.scope.toNat
      let held := as.filter (s1.holdBack (MI.bytes x) rel as)
      let now := as.filter fun a => !held.contains a
      let ps := now.flatMap fun a => State.piecesOf a.ca a.locs (storeBytes x s a.lane)
      if s1.bufferFull me ps then s1.stall 7 .room
      else if s1.pilot && !held.isEmpty then s1.stall 7 .retry
      else
        let s1 := if x.sem = 2 then s1.twinRelease me.id x.scope.toNat else s1
        let s2 := if ps.isEmpty then s1 else s1.push me ps x.hint.toNat red (s1.exe.ids + 1) [s1.entry]
        let s3 := if held.isEmpty then s2 else
          s2.launchOp { kind := kind, lanes := maskOf (held.map (·.lane)), accs := held, rel := rel,
                        operands := held.map fun a => (a.lane, natOf (storeBytes x s a.lane), 0) } false
        s3.settle (State.faultsOf rs) 1

/-- ST (R288, R290). -/
def execSt (x : MI) (s : State) : Out :=
  .next (let r := s.walk [x.a, x.x]
         sendStores x r.2 r.1 .store none (.st x))

/-- The key of a RED (R95, R293) and whether it adds in FP32. -/
def redKey (bitwise : Bool) (x : MI) : UKey × Bool :=
  (⟨if bitwise then 8 + x.sub.setWidth 4 else if x.sub = 6 then 0 else x.sub.setWidth 4, (MI.bytes x)⟩, !bitwise && x.sub = 1)

/-- RED, arithmetic (R293). -/
def execRedArith (x : MI) (s : State) : Out :=
  .next (let r := s.walk [x.a, x.x]
         sendStores x r.2 r.1 .atomic (some (redKey false x)) (.red false x))
/-- RED, bitwise (R293). -/
def execRedBitwise (x : MI) (s : State) : Out :=
  .next (let r := s.walk [x.a, x.x]
         sendStores x r.2 r.1 .atomic (some (redKey true x)) (.red true x))

/-! Atomics (R124, R291, R292). -/

/-- The new value of an atomic: compare-and-swap, or an operation of `elemOp`. -/
def atomOp (bitwise : Bool) (x : MI) (old a b : Nat) : Nat :=
  if bitwise then elemOp (8 + x.sub.toNat) (MI.bytes x) old a
  else if x.sub = 7 then (if old = a then b else old)
  else elemOp x.sub.toNat (MI.bytes x) old a

/-- The operands of a lane's atomic. -/
def atomOperands (bitwise : Bool) (x : MI) (s : State) (L : Nat) : Nat × Nat :=
  let n := (MI.nregs x)
  let reg (i : Nat) : Nat := match x.x with
    | .v k => (s.rdV (k.toNat + i) L).toNat
    | .s k => (s.rdS (k.toNat + i)).toNat
    | _ => 0
  let val (i : Nat) : Nat := if n = 2 then reg i + reg (i + 1) * 2 ^ 32 else reg i
  (val 0, if !bitwise && x.sub = 7 then val n else 0)

/-- Operations of lanes on one location in ascending lane order: what each met, and the final value (R124). -/
def applyLanes (f : Nat → Nat → Nat → Nat) : Nat → List (Nat × Nat × Nat) → List (Nat × Nat) × Nat
  | m, [] => ([], m)
  | m, (L, a, b) :: r => let q := applyLanes f (f m a b) r
                         ((L, m) :: q.1, q.2)

/-- The location of an atomic may be changed now by the maker of the access, or what that needs is asked for (R113). -/
def atomReady (s : State) (w : Who) (hint ca loc n va : Nat) : State × Bool :=
  let lk := lineKey w.isl loc
  if !isGlobal loc || (isHost loc && ca = 3) then (s, true)
  else if s.coh.wbuf.any fun e => e.core = agentKey w && e.line = lk then (s, false)
  else if ca = 3 || (hint = 3 && (s.cline w.isl (w.agent.getD 0) (lineNo lk)).tokens = 0) then
    (if s.pendingAt (agentKey w) loc n then (s, false) else s.homeWrite (s.askFor w lk va 3))
  else s.needOwn (s.askFor w lk va (effHint ca hint))

/-- An atomic group performed: memory, the line's dirtiness, other crews' windows (R124, R127). -/
def atomPerform (bitwise : Bool) (x : MI) (s : State) (w : Who) (loc : Nat) (ops : List (Nat × Nat × Nat)) :
    State × List (Nat × Nat) :=
  let n := (MI.bytes x)
  let r := applyLanes (atomOp bitwise x) (Memory.readN s.mem loc n) ops
  let s1 := { s with mem := Memory.writeN s.mem loc r.2 n }
  let lk := lineKey w.isl loc
  let a := w.agent.getD 0
  let s2 := if isGlobal loc && (s1.cline w.isl a (lineNo lk)).tokens = 144 then
              (s1.setCline w.isl a (lineNo lk) { s1.cline w.isl a (lineNo lk) with dirty := true }).accessDone w.isl a lk
            else if isGlobal loc then s1.l2Written lk else s1
  (if isGlobal loc && a < 128 then s2.rollbackLine (w.isl * 128 + a) lk (some w.id) else s2, r.1)

/-- An atomic of a Pilot thread. -/
def pilotAtom (bitwise : Bool) (x : MI) (s : State) (a : W64) : State :=
  match s.resolveLane s.me .atomic (MI.bytes x) false [] 0 a with
  | (s1, some (.acc c)) =>
    match c.locs with
    | (l, n, va) :: _ =>
      match atomReady s1 s1.me x.hint.toNat c.ca l n va with
      | (s2, false) => s2.stall 7 .retry
      | (s2, true) =>
        let r := atomPerform bitwise x s2 s2.me l [(0, atomOperands bitwise x s2 0)]
        (wrBlock r.1 x.d ((List.range (MI.nregs x)).map fun i => BitVec.ofNat 32 ((r.2.headD (0, 0)).2 / 2 ^ (32 * i)))).advance 1
    | [] => s1.stall 7 .retry
  | (s1, some (.fault f)) => s1.settle [f] 1
  | (s1, some .drop) => s1.advance 1
  | (s1, none) => s1.stall 7 .retry

/-- ATOM (R291): a class-A operation. A helper lane never stores, so it takes no part (R10, R285). -/
def startAtom (bitwise : Bool) (x : MI) (s0 : State) : State :=
  let r := s0.walk [x.a]
  let s := r.2
  let ls := s.mlanes x.guard
  if ls.isEmpty then (s.opSkipped false).advance 1
  else if s.pilot then
    if (s.relsFor (x.sem.getLsbD 1) x.scope.toNat).isEmpty then pilotAtom bitwise x s (s.ea x true r.1 0) else s.stall 5 .retry
  else
    let ord := ls.filter s.ordinary
    match State.resolveLanes s.me .atomic (MI.bytes x) false [] (ord.map fun L => (L, s.ea x true r.1 L)) s with
    | (s1, none) => s1.stall 7 .retry
    | (s1, some rs) =>
      let as := State.accsOf rs
      let d := vnum x.d
      let regs := if d = 255 then [] else (List.range (MI.nregs x)).map fun i => vix s1.sup (d + i)
      let o : LOp := { kind := .atom bitwise x, lanes := maskOf (as.map (·.lane)), dests := regs.map RegId.v, accs := as,
                       rel := s1.relsFor (x.sem.getLsbD 1) x.scope.toNat,
                       operands := as.map fun a => (a.lane, atomOperands bitwise x s1 a.lane) }
      let s2 := if as.isEmpty then s1.opSkipped false else s1.launchOp o (x.sem.getLsbD 0)
      let s2 := if x.sem.getLsbD 1 then s2.twinRelease s2.ckey x.scope.toNat else s2
      s2.settle (State.faultsOf rs) 1

/-- ATOM, arithmetic. -/
def execAtomArith (x : MI) (s : State) : Out := .next (startAtom false x s)
/-- ATOM, bitwise. -/
def execAtomBitwise (x : MI) (s : State) : Out := .next (startAtom true x s)

/-! Prefetch and cache control (R294, R295). -/

/-- A fill begun for a translated global line (R294). -/
def prefetchFill (l2 : Bool) (s : State) (me : Who) (l ca va : Nat) : State :=
  let lk := lineKey me.isl l
  if ca = 3 || !isGlobal l then s
  else if l2 then
    (match s.homeRead (s.askFor me lk va 3) with
     | (s2, true) => (let q := s2.askFor me lk 0 0; s2.fillL2 lk (effHint ca 0) q.ways q.turn).1
     | (s2, false) => s2)
  else (s.needRead (s.askFor me lk va (effHint ca 0))).1

/-- One lane's prefetch, and its access where it is parked; an address that would fault or lies in an aperture is dropped (R78, R294). None where a
translation must be tried again. -/
def prefetchLane (l2 : Bool) (r : State × Option (List Acc)) (L : Nat) (a : W64) : State × Option (List Acc) :=
  let s := r.1
  let me := s.me
  match r.2, s.apHit { me with acc := L } a.toNat [0, 1, 2, 3, 4, 5] with
  | none, _ | _, some _ => r
  | some as, none =>
    match s.laneAccess me L a 1 .prefetch false with
    | (s1, .ok ((l, _) :: _) ca) => (prefetchFill l2 s1 me l ca a.toNat, r.2)
    | (s1, .park va) => ({ s1 with exe.ids := s1.exe.ids + 1 }, some (as ++ [{ lane := L, va := a, parked := true, pseq := s1.exe.ids + 1, pva := va }]))
    | (s1, .busy) => (s1, none)
    | (s1, _) => (s1, r.2)

/-- PREF: no register, no fault (R294). Parked lanes stay behind as an operation; a Pilot thread waits for its parked prefetch (R78). -/
def execPref (x : MI) (s : State) : Out :=
  .next (let r := s.walk [x.a, x.x]
         if r.2.pilot && r.2.parkWait then r.2.stall 7 .retry
         else
           let q := (r.2.mlanes x.guard).foldl (fun q L => prefetchLane (x.sub = 1) q L (r.2.ea x false r.1 L)) (r.2, some [])
           match q.2 with
           | none => q.1.stall 7 .retry
           | some [] => q.1.unpark.advance 1
           | some (a :: as) =>
             if q.1.pilot then q.1.parkStall a.pva
             else (q.1.launchOp { kind := .pref (x.sub = 1), lanes := maskOf ((a :: as).map (·.lane)), accs := a :: as } false).advance 1)

/-- The agent's copy of a line written back, and given up under `.wbi` (R295). -/
def cleanLineOf (inv : Bool) (s : State) (lk : Nat) : State :=
  let me := s.me
  let a := me.agent.getD 0
  let c := s.cline me.isl a (lineNo lk)
  let s1 := if c.dirty then (s.setCline me.isl a (lineNo lk) { c with dirty := false }).setLine lk { s.line lk with l2dirty := true } else s
  if inv then s1.evictL1 me.isl a (lineNo lk) else s1

/-- A store, atomic or RED of the fragment that is still to be performed, and may touch one of the lines (R295). -/
def earlierWrite (s : State) (ls : List (Nat × Nat × Nat)) : Option Nat :=
  let lines := (ls.filter fun p => isGlobal p.1).map fun p => (p.1 / 128 * 128, 128, p.2.2 / 128 * 128)
  (s.crew.ops.find? fun o => !s.pilot && isWrite o.2 && shares [s.entry] o.2.owners
    && o.2.accs.any fun a => s.mayMeet s.me (State.accBytes o.2) a lines).map (·.1)

/-- CCTL (R295). An address in the SP, CM or BSN aperture is accepted without effect. -/
def execCctl (x : MI) (s0 : State) : Out :=
  .next (
    let r := s0.walk [x.a, x.x]
    let s := r.2
    let ls := s.mlanes x.guard
    let ak := s.myAgentKey
    if ls.isEmpty then s.advance 1
    else if x.sub = 2 then
      { s with coh.icache := s.coh.icache.filter fun e => e.1 / 2 ^ 45 / 4096 ≠ ak }.advance 1
    else match State.resolveLanes s.me .cctl 1 false [] (ls.map fun L => (L, s.ea x false r.1 L)) s with
      | (s1, none) => s1.stall 7 .retry
      | (s1, some rs) =>
        let as := State.accsOf rs
        let ps := (as.flatMap (·.locs)).filter fun p => isGlobal p.1
        let lines := ps.map fun p => lineKey s1.isl p.1
        match earlierWrite s1 ps with
        | some id => s1.stall 7 (.op id)
        | none =>
          match as.find? (·.parked) with
          | some a => s1.parkStall a.pva
          | none =>
          if s1.coh.wbuf.any fun e => e.core = ak && lines.contains e.line then s1.stall 7 .retry
          else (lines.eraseDups.foldl (cleanLineOf (x.sub = 1)) s1).settle (State.faultsOf rs) 1)

end Sys2Proof.Machine
end

