-- ==== Sys2Proof/Machine/Landing.lean ====
section
/-! DEFINITION. Fences, tile windows and landing counters (R42, R75, R118-R130, R287, R296-R301). -/

namespace Sys2Proof.Machine

open Sys2Proof

namespace State

/-- An instruction that acts once for the whole fragment acts: its guard is true in some lane (R287). -/
def acts (s : State) (g : Guard) : Bool := if s.pilot then s.qguard g else s.act g ≠ 0

/-! Fences. -/

/-- The fragment goes on in a speculative window behind its fence (R126, R127). -/
def openWindow (s : State) (sc : Bool) (scope : BitVec 3) : State :=
  let w : Window := { scope := scope, sc := sc, hold := s.frag.lastHold, fence := s.ctl, after := s.ctl, first := s.exe.ids + 1, snap := {} }
  let s1 := (s.setFrag { s.frag with window := some w }).advance 1
  let f := s1.frag
  if f.window.isNone then s1
  else
    let r := s1.crew.runs.get {} f.run
    let left := { r with leftA := r.leftA - inFlight s1.crew f.run false, leftB := r.leftB - inFlight s1.crew f.run true }
    s1.setFrag { f with window := some { w with after := f.ctl, run := f.run, runAt := left } }

/-- The window of the current fragment is gone, its work final: what the fence acquires is acquired (R45, R126). -/
def endWindow (s : State) : State :=
  match s.frag.window with
  | none => s
  | some w => ((s.setCrew { s.crew with firm := s.crew.firm ||| w.raised }).setFrag { s.frag with window := none }).twinAcquire s.ckey w.scope.toNat

/-- The current fragment's window is closed, its fence complete: at a clause boundary it may now join (R126). -/
def closeWindow (s : State) : State :=
  let s1 := s.endWindow
  if s1.ctl.cpos = 0 then s1.arrive else s1

/-- Values of address registers that other crews could still use are gone, up to the newest that this writer replaced (R35, R75). -/
def settleOlder (s : State) : State :=
  let me := s.me
  let c := s.ctx me.isl me.spn
  let left (l : List (Nat × W64)) : List (Nat × W64) := (l.reverse.takeWhile fun o => o.1 ≠ me.wid).reverse
  s.setCtx me.isl me.spn { c with older := (c.older.map fun o => (o.1, left o.2)).filter fun o => !o.2.isEmpty }

end State

/-- FENCE (R75, R118-R123, R126, R296). A FENCE.rel stalls nothing: later writes wait for it. A FENCE.T waits until the agent's writes are past
their translation completion points. -/
def execFence (x : MI) (s : State) : Out :=
  .next (
    let scope := x.scope.toNat
    let sc := decide (x.sub = 1)
    if !s.acts x.guard then s.advance 1
    else match s.takeErr fun _ => true with
    | some s1 => s1
    | none =>
      if x.sub = 2 then (if s.transDone then s.settleOlder.advance 1 else s.stall 5 (.fence 6))
      else
        let s1 := if x.sem.getLsbD 1 then (if sc then s else s.addRel scope).twinRelease s.me.id scope else s
        if x.sem = 2 then s1.advance 1
        else if s.fenceDone sc scope (s.exe.ids + 1) then (s1.twinAcquire s.me.id scope).advance 1
        else if s.pilot then s.stall 5 .retry
        else if !s.mayGo s.myPrecinct true then s.stall 5 .retry      -- stopped at the fence (R129, R379)
        else s1.openWindow sc x.scope)

/-- TWIN: a tile window of the gang (R42, R297). -/
def execTwin (x : RI) (s0 : State) : Out :=
  .next (
    let r := s0.walk [x.a, x.b]
    let s := r.2
    let base := (s.u32 r.1 x.lit x.a).toNat
    let rows := (s.u32 r.1 x.lit x.b).toNat
    let g := s.gang
    if !s.acts x.guard then s.advance (RI.len x)
    else if 2047 < base || 2048 < rows || (rows ≠ 0 && g.spSize * 2048 < (base + rows) * 128) then
      s.moorAll 7 (some (BitVec.ofNat 64 (base * 128)))
    else
      let n := x.subN % 4
      let old := if g.crews.length ≤ 1 then [] else [({ n := n, writer := s.ckey, old := g.twin.get 0 n } : TwinOld)]
      { s with exe.gangs := s.exe.gangs.put s.gangKey { g with twin := g.twin.put n (BitVec.ofNat 64 (base + rows * 2 ^ 16))
                                                               twinOld := g.twinOld ++ old } }.advance (RI.len x))

/-! Landing counters (R298, R299): EXPECTED, LANDED, ERRORS, PHASE, reserved. -/

/-- A count of `n` bytes with `e` errors on the counter at a location (R299). -/
def countOn (s : State) (loc n e : Nat) : State :=
  let expected := Memory.readN s.mem loc 4
  let landed := Memory.readN s.mem (loc + 4) 4
  let errors := Memory.readN s.mem (loc + 8) 2
  let m1 := Memory.writeN s.mem loc (expected + 2 ^ 32 - n % 2 ^ 32) 4
  let m2 := Memory.writeN m1 (loc + 4) (landed + n) 4
  { s with mem := Memory.writeN m2 (loc + 8) (min (errors + e) 0xFFFF) 2 }

namespace State

/-- An address tested as R300 and R142 order it, as `n` aligned bytes of the gang's scratchpad: the offset, or the cause. A Pilot has no
scratchpad (R23). -/
def spTest (s : State) (w : Who) (a : W64) (align n : Nat) : Except Byte Nat :=
  let va := a.toNat
  if 2 ^ 52 ≤ va then .error 2
  else if va % align ≠ 0 then .error 3
  else if va < 0x10000 then .error 1
  else match s.apHit w va [0, 1, 2, 3, 4, 5] with
  | some (x, base) =>
    if !w.sup && fld (s.apReg w x) 1 1 = 0 then .error 2
    else if x ≠ 1 || w.gang.isNone then .error 2
    else if s.apLimit w 1 < va - base + n then .error 7
    else .ok (va - base)
  | none => .error 2

/-- The flat location of a scratchpad offset of the gang. -/
def spLoc (s : State) (w : Who) (o : Nat) : Nat := (s.apLoc w 1 o).getD 0

/-- The counters of the active ordinary lanes: lanes with locations, and faults. `words` are the words of the counter that the instruction reads,
by their offset (R57). -/
def counters (s : State) (x : MI) (w : W64) (words : List Nat) : List (Nat × Nat) × List LFault :=
  let me := s.me
  let rs : List (Nat × Except LFault Nat) := ((s.mlanes x.guard).filter s.ordinary).map fun L =>
    let a := s.ea x false w L
    let me := { me with acc := L }
    (L, match s.spTest me a 16 16 with
        | .error c => .error { lane := L, cause := c, addr := some a, fpte := some 0 }
        | .ok o => if words.any fun n => s.badRead (s.spLoc me o + n) 4 then .error { lane := L, cause := 4, addr := some a }
                   else .ok (s.spLoc me o))
  (rs.filterMap fun r => match r.2 with | .ok l => some (r.1, l) | .error _ => none,
   rs.filterMap fun r => match r.2 with | .error f => some f | .ok _ => none)

/-- Errors corrected in the words of the counters that an instruction reads (R57). -/
def softCounters (s : State) (cs : List (Nat × Nat)) (words : List Nat) : State :=
  s.countSoft s.me (cs.flatMap fun c => words.map fun n => (c.2 + n, 4))

/-- An operation in flight that comes before an access to the counters: one to a common byte, or one from before a split or fusion (R108, R109). -/
def counterBusy (s : State) (cs : List (Nat × Nat)) : Option Nat :=
  match s.forkOut with
  | some id => some id
  | none => s.earlier s.ckey [s.entry] (s.exe.ids + 1) (cs.map fun c => (c.2, 16, 0))

end State

/-- SETC: each lane arms its counter; of lanes on one counter the highest stands (R300). -/
def execSetc (x : MI) (s0 : State) : Out :=
  .next (
    let r := s0.walk [x.a, x.x]
    let s := r.2
    let (cs, fs) := s.counters x r.1 [8]
    match s.counterBusy cs with
    | some id => s.stall 7 (.op id)
    | none =>
      let top := cs.filter fun c => cs.all fun d => d.2 ≠ c.2 || d.1 ≤ c.1
      if !s.relsLeft.isEmpty then s.stall 7 .retry
      else (top.foldl (fun (t : State) c =>
        let phase := Memory.readN t.mem (c.2 + 10) 2
        t.store c.2 (byteList 16 ((s.rdV (vnum x.d) c.1).toNat + (phase + 1) % 2 ^ 16 * 2 ^ 80))) (s.softCounters cs [8])).settle fs 1)

/-- WAITC: waits for every lane's counter, then reads its errors and phase (R301). -/
def execWaitc (x : MI) (s0 : State) : Out :=
  .next (
    let r := s0.walk [x.a, x.x]
    let s := r.2
    let (cs, fs) := s.counters x r.1 [0, 8]
    match s.counterBusy cs with
    | some id => s.stall 7 (.op id)
    | none =>
      match cs.find? fun c => Memory.readN s.mem c.2 4 ≠ 0 with
      | some c =>
        if fs.isEmpty then s.stall 4 (.counter c.2)
        else
          let s1 := s.moorLanes fs false
          if s1.frag.state = .moored && !s.sup then s.stall 4 (.counter c.2)
          else if s1.frag.state = .moored then s1
          else s1.stall 4 (.counter c.2)
      | none =>
        let m := maskOf (cs.map (·.1)) ||| (s.act x.guard &&& s.helpers)
        let v (L : Nat) : W32 := match cs.find? fun c => c.1 = L with
          | some c => BitVec.ofNat 32 (Memory.readN s.mem (c.2 + 8) 4)
          | none => 0
        (((s.softCounters cs [0, 8]).wrV (vnum x.d) m v).twinAcquire s.me.id 3).settle fs 1)

/-- TESTC: samples every lane's counter (R301). -/
def execTestc (x : MI) (s0 : State) : Out :=
  .next (
    let r := s0.walk [x.a, x.x]
    let s := r.2
    let (cs, fs) := s.counters x r.1 [0]
    match s.counterBusy cs with
    | some id => s.stall 7 (.op id)
    | none =>
      let m := maskOf (cs.map (·.1)) ||| (s.act x.guard &&& s.helpers)
      let yes (L : Nat) : Bool := cs.any fun c => c.1 = L && Memory.readN s.mem c.2 4 = 0
      let s1 := (s.softCounters cs [0]).wrP x.d m yes
      (if cs.any (fun c => yes c.1) then s1.twinAcquire s.me.id 3 else s1).settle fs 1)

end Sys2Proof.Machine
end

