-- ==== Sys2Proof/Machine/Walkers.lean ====
section
/-! DEFINITION. The walker instructions (R208-R210, R257-R260). -/

namespace Sys2Proof.Machine

open Sys2Proof

/-- The walker and the dimension an instruction names in SUB (R257, R259). -/
def RI.wn (x : RI) : Nat := x.subN % 8
def RI.wfield (x : RI) : Nat := x.subN / 8 % 8
def RI.wdim (x : RI) : Nat := x.subN / 64 % 4

/-- A walker bound from the bytes of its descriptor (R208). -/
def bindWalker (bs : List Byte) : Walker :=
  let dim (d : Nat) : WDim := { count := BitVec.ofNat 16 (natOf ((bs.drop (8 + 6 * d)).take 2)),
                                stride := BitVec.ofNat 32 (natOf ((bs.drop (10 + 6 * d)).take 4)) }
  { base := BitVec.ofNat 64 (natOf (bs.take 8)), d0 := dim 0, d1 := dim 1, d2 := dim 2, d3 := dim 3 }

def Walker.dim (w : Walker) (d : Nat) : WDim := match d with | 0 => w.d0 | 1 => w.d1 | 2 => w.d2 | _ => w.d3
def Walker.setDim (w : Walker) (d : Nat) (x : WDim) : Walker :=
  match d with | 0 => { w with d0 := x } | 1 => { w with d1 := x } | 2 => { w with d2 := x } | _ => { w with d3 := x }

namespace State

/-- An access of the agent as a whole: its lane is the lowest of MASK (DESIGN CHOICE, unsafe: log 21). -/
def firstLane (s : State) : Nat := if s.pilot then 0 else (lanesOf s.frag.mask).headD 0

/-- Parts of a read resolved, lowest first (R258): pieces with virtual addresses, or the first fault. -/
def partLocs (s : State) (w : Who) (L : Nat) (a : W64) (width : Nat) : Nat → State × LRes × List (Nat × Nat × Nat)
  | 0 => (s, .ok [] 0, [])
  | n + 1 =>
    match s.laneAccess w L a width .load false with
    | (s1, .ok ls ca) =>
      let mine := s1.withVas w L a ls
      if s1.badPieces ls then (s1, .fault 4 a 0, [])
      else match s1.partLocs w L (a + BitVec.ofNat 64 width) width n with
      | (s2, .ok _ c2, r) => (s2, .ok [] (if n = 0 then ca else max ca c2), mine ++ r)
      | r => r
    | (s1, r) => (s1, r, [])

/-- A place without a replay record of a walker. -/
def forget (n : Nat) (c : Ctl) : Ctl := if c.wrv.any fun v => v.1.toNat = n then { c with wrv := none } else c

/-- Replay records that name a walker are discarded: those of the crew's fragments, and that of the place its handler returns to, or a Pilot
thread's (R210, R258). -/
def dropReplays (s : State) (n : Nat) : State :=
  if s.pilot then s.setThread { s.thread with saved := forget n s.thread.saved }
  else { s.setCrew { s.crew with saved := forget n s.crew.saved } with exe.frags := s.exe.frags.map fun f =>
    if f.1 / 320 = s.core && f.2.crew = s.frag.crew then (f.1, { f.2 with ctl := forget n f.2.ctl }) else f }

end State

/-- WBIND: the walker takes the descriptor its operand locates, or every lane is moored (R258). -/
def execWbind (x : RI) (s : State) : Out :=
  .next (
    if !s.qguard x.guard then s.advance (RI.len x)
    else
      let w := s.me
      match s.partLocs w s.firstLane (s.u64 0 x.lit x.a) 8 4 with
      | (s1, .fault c a f, _) => s1.moorAll c (some a) (some f)
      | (s1, .ok _ ca, ps) =>
        if s1.forkLate then s1.stall 7 .retry else
        match (if s1.pilot then none else s1.forkOut <|> s1.earlier s1.ckey [s1.entry] (s1.exe.ids + 1) ps) with
        | some id => s1.stall 7 (.op id)
        | none =>
          match s1.readAll w 0 ca ps with
          | (s2, none) => s2.stall 7 .retry
          | (s2, some bs) => (((s2.noteSeen s2.mySrc s2.exe.ids ps).setWalker (RI.wn x) (bindWalker bs)).dropReplays (RI.wn x)).advance (RI.len x)
      | (s1, _, _) => s1.stall 7 .retry)

/-- WSET: one field of the walker (R259). -/
def execWset (x : RI) (s : State) : Out :=
  .next (
    let k := s.walker (RI.wn x)
    let d := k.dim (RI.wdim x)
    let v := s.u32 0 x.lit x.a
    let k' := match RI.wfield x with
      | 0 => { k with base := s.u64 0 x.lit x.a }
      | 1 => k.setDim (RI.wdim x) { d with idx := v.setWidth 16 }
      | 2 => k.setDim (RI.wdim x) { d with count := v.setWidth 16 }
      | _ => k.setDim (RI.wdim x) { d with stride := v }
    (if s.qguard x.guard then s.setWalker (RI.wn x) k' else s).advance (RI.len x))

/-- WGET: one field, the next value, or the flags and the number of dimensions (R260). -/
def execWget (x : RI) (s : State) : Out :=
  .next (
    let k := s.walker (RI.wn x)
    let d := k.dim (RI.wdim x)
    let bit (b : Bool) (n : Nat) : Nat := if b then 2 ^ n else 0
    let s1 := match RI.wfield x with
      | 0 => s.wrS64 x.d k.base
      | 1 => s.wrS x.d (d.idx.setWidth 32)
      | 2 => s.wrS x.d (d.count.setWidth 32)
      | 3 => s.wrS x.d d.stride
      | 4 => s.wrS64 x.d k.value
      | _ => s.wrS x.d (BitVec.ofNat 32 (bit k.d0.e 0 + bit k.d1.e 1 + bit k.d2.e 2 + bit k.d3.e 3 + 16 * k.dims.length))
    (if s.qguard x.guard then s1 else s).advance (RI.len x))

end Sys2Proof.Machine
end

