-- ==== Sys2Proof/Machine/Matrix.lean ====
section
/-! DEFINITION. Format blocks, accumulator tiles and the matrix instructions, and the fragment load (R170, R171, R181-R183,
R302, R308-R323). -/

namespace Sys2Proof.Machine

open Sys2Proof

namespace State

/-! Tiles (R308, R309). -/

def tileKey (s : State) (n : Nat) : Nat := s.core * 64 + s.gang.tileBase + n
def tileElem (s : State) (n e : Nat) : W32 := Tbl.get 0 (s.exe.tiles.get [] (s.tileKey n)) e
/-- A tile with the elements for which `f` gives a value replaced. -/
def setTile (s : State) (n : Nat) (f : Nat → Option W32) : State :=
  let t := (List.range 256).map fun e => (e, (f e).getD (s.tileElem n e))
  { s with exe.tiles := s.exe.tiles.put (s.tileKey n) t }

/-! Rows in memory (R302, R319, R321). -/

/-- Pieces cut at line boundaries, with their virtual addresses. -/
def lineSplit (va : Nat) : List (Nat × Nat) → List (Nat × Nat × Nat)
  | [] => []
  | (l, n) :: r =>
    (List.range ((l % 128 + n + 127) / 128)).map (fun i =>
      let lo := max l (l / 128 * 128 + 128 * i)
      (lo, min (l + n) (l / 128 * 128 + 128 * (i + 1)) - lo, va + (lo - l))) ++ lineSplit (va + n) r

/-- A row of `n` bytes resolved in R24's order (R319): its pieces and the page's attribute, or its fault. -/
def rowAccess (s : State) (w : Who) (k : AKind) (skw : Bool) (L : Nat) (a : W64) (n : Nat) : State × LRes × List (Nat × Nat × Nat) :=
  if 2 ^ 52 ≤ a.toNat then (s, .fault 2 a 0, [])
  else if a.toNat % 16 ≠ 0 then (s, .fault 3 a 0, [])
  else match s.resolveRange w k L a n with
  | (s1, .ok ls ca) =>
    let ps := match s1.apHit w a.toNat [0, 1, 2, 3, 4, 5] with
      | some (0, _) => s1.withVas w L a ls
      | some (1, base) =>
        if skw then
          (List.range (n / 4)).map fun i => (s1.spLoc w (s1.spOffset w (s1.gangAt (w.gang.getD 0)) (a.toNat - base + 4 * i)), 4, a.toNat + 4 * i)
        else lineSplit a.toNat ls
      | _ => lineSplit a.toNat ls
    if noAtomic k ca ls then (s1, .fault 2 a 0, [])
    else match ps.find? fun p => k ≠ .atomic && (if k = .store then s1.badWrite [] p.1 p.2.1 else s1.badRead p.1 p.2.1) with
      | some p => (s1, .fault 4 (BitVec.ofNat 64 p.2.2) 0, [])
      | none => (s1, .ok ls ca, ps)
  | (s1, r) => (s1, r, [])

end State

/-- What a row comes to: an access, nothing (a helper lane's row that would fault), or a fault of the fragment. -/
inductive RowR
  | acc (a : Acc)
  | none
  | fault (c : Byte) (a fpte : W64)
  deriving DecidableEq, Repr

namespace State

/-- Rows resolved in ascending order: the accesses, the rows that read as zeros, or the lowest row's fault; none where one
must be tried again. -/
def rowsGo (w : Who) (k : AKind) (skw : Bool) (n : Nat) (helper : Nat → Bool) :
    List (Nat × W64) → State → State × Option (List (Nat × RowR))
  | [], s => (s, some [])
  | (i, a) :: r, s =>
    let here : State × Option RowR :=
      match s.rowAccess { w with acc := i } k skw s.firstLane a n with
      | (s1, .ok _ ca, ps) => (s1, some (.acc { lane := i, va := a, locs := ps, ca := ca }))
      | (s1, .park va, _) => (s1, some (.acc { lane := i, va := a, parked := true, pva := va }))
      | (s1, .fault c f p, _) => (s1, some (if helper i then .none else .fault c f p))
      | (s1, .busy, _) => (s1, none)
    match here with
    | (s1, none) => (s1, none)
    | (s1, some x) =>
      match rowsGo w k skw n helper r s1 with
      | (s2, some xs) => (s2, some ((i, x) :: xs))
      | y => y

/-- Errors corrected in the rows that an instruction reads, or stores in part, are counted (R57). -/
def softRows (s : State) (as : List Acc) : State := s.countSoft s.me (as.flatMap fun a => a.locs.map fun p => (p.1, p.2.1))

/-- The fault of the lowest-numbered faulting row. -/
def rowFault (rs : List (Nat × RowR)) : Option (Byte × W64 × W64) :=
  rs.findSome? fun r => match r.2 with | .fault c a p => some (c, a, p) | _ => none
def rowAccs (rs : List (Nat × RowR)) : List Acc := rs.filterMap fun r => match r.2 with | .acc a => some a | _ => none

end State

/-! Format blocks (R312-R314). -/

/-- An operand descriptor of a format block. -/
structure OpDesc where
  ty : Ty
  sc : Bool
  e4 : Bool
  blen : Nat
  soff : Nat
  deriving DecidableEq, Repr

/-- A descriptor and its scale word, where valid for use (R313). -/
def opDesc (w sw : W32) : Option OpDesc :=
  let sc := w.getLsbD 8
  let sf := w.getLsbD 7
  let blk := (w.extractLsb' 5 2).toNat
  match Ty.ofCode (w.extractLsb' 0 5) with
  | none => none
  | some t =>
    let mode : Bool :=
      match t with
      | .q4 | .q8 => sc && !sf && 1 ≤ blk
      | .e4m3 | .e5m2 | .e3m2 | .e2m3 | .e2m1 => if sc then blk ≤ 1 else blk = 0 && !sf
      | .i4 | .s8 | .n8 | .f16 | .bf16 => !sc && !sf && blk = 0
      | _ => false
    if w.getLsbD 31 && w.extractLsb' 9 22 = 0 && mode && (!sc || (sw.extractLsb' 18 14 = 0 && sw.extractLsb' 0 4 = 0)) then
      some ⟨t, sc, sf, 16 * 2 ^ blk, (sw.extractLsb' 0 18).toNat⟩
    else none

/-- Integer operands, which pair only with one another. -/
def intMma (t : Ty) : Bool := t = .s8 || t = .n8 || t = .i4

/-- A format block valid for MMA: its two descriptors. -/
def mmaDescs (fb : List W32) : Option (OpDesc × OpDesc) :=
  match opDesc (fb.getD 0 0) (fb.getD 1 0), opDesc (fb.getD 2 0) (fb.getD 3 0) with
  | some a, some b => if a.ty.width = b.ty.width && intMma a.ty = intMma b.ty then some (a, b) else none
  | _, _ => none

/-- The depth of an MMA (R310). -/
def depthOf (t : Ty) : Nat := if t.width = 4 then 256 else if t.width = 16 then 64 else 128

def State.fblock (s : State) (n : Nat) : List W32 := s.crew.fbs.get [] n

/-- SETFB (R314). -/
def execSetfb (x : RI) (s : State) : Out :=
  .next (
    let n := match x.d with | .num k => k.toNat | _ => 0
    let a := match x.a with | .s k => k.toNat | _ => 0
    (if s.acts x.guard then s.setCrew { s.crew with fbs := s.crew.fbs.put n ((List.range 4).map fun i => s.rdS (a + i)) } else s).advance 1)

/-! The sums of an MMA (R170, R171, R181-R183). -/

/-- The value of a block scale, or of a group's scale (its lower 16 bits); NaN where it spoils its products. -/
def scaleNum (d : OpDesc) (v : Nat) : Num :=
  if d.ty.isGroup then
    (match decodeF (fmtOfTy .f16) (v % 2 ^ 16) with | .fin s n k e st => .fin s n k e st | _ => .nan)
  else if d.e4 then (if 0x7F ≤ v % 256 then .nan else decodeF (fmtOfTy .e4m3) (v % 256))
  else if v % 256 = 0xFF then .nan else .dy false 1 ((v % 256 : Nat) - 127 : Int)

/-- An integer element, with a reserved `.i4` code read as 0 (R169). -/
def intElem (t : Ty) (v : Nat) : Int :=
  match t with
  | .i4 => if v = 8 then 0 else (BitVec.ofNat 4 v).toInt
  | .s8 => (BitVec.ofNat 8 v).toInt
  | _ => v

/-- An element's value; a quantised element's is q − z (R181). -/
def elemNum (d : OpDesc) (scale : Nat) (v : Nat) : Num :=
  if d.ty.isGroup then .int ((v : Int) - (BitVec.ofNat 8 (scale / 2 ^ 16)).toInt) else decodeF (fmtOfTy d.ty) v

/-- The codes of a line of an operand (R310): element k lies at bit w k, for every width. -/
def lineCodes (t : Ty) (line : Nat) : List Nat := (List.range (depthOf t)).map fun k => line / 2 ^ (t.width * k) % 2 ^ t.width

/-- A sum of products at unlimited precision, its scales applied (R181, R182). -/
def blockSum (ps : List (Num × BitVec 6)) (sa sb : Num) : Num × BitVec 6 :=
  let bad : BitVec 6 := if sa.isNan || sb.isNan then fNV else 0
  let t : Num × BitVec 6 := if ps.any (·.2 ≠ 0) then (.nan, fNV) else sumN false (ps.map (·.1))
  let u := mulN t.1 sa
  let v := mulN u.1 sb
  (if v.1.isZero then .zero false else v.1, bad ||| t.2 ||| u.2 ||| v.2)

/-- One output element of a floating-point or quantised MMA: lines of elements and of scale words of A and B (R181). -/
def mmaElem (da db : OpDesc) (as bs : List Num) (sa sb : List Nat) (c : W32) : W32 × BitVec 6 :=
  let k := depthOf da.ty
  let l := min (if da.sc then da.blen else 128) (if db.sc then db.blen else 128)
  let l := if da.sc || db.sc then l else 16
  let scale (d : OpDesc) (ss : List Nat) (b : Nat) : Num := if d.sc then scaleNum d (ss.getD (b * l / d.blen) 0) else .int 1
  (List.range (k / l)).foldl (fun (acc : W32 × BitVec 6) b =>
    let ps := (((as.drop (b * l)).take l).zip ((bs.drop (b * l)).take l)).map fun p => mulN p.1 p.2
    let t := blockSum ps (scale da sa b) (scale db sb b)
    let r := sumN false [decodeF (fmtOfTy .f32) acc.1.toNat, t.1]
    let q := cvtFloat (fmtOfTy .f32) {} r.1
    (BitVec.ofNat 32 q.1, acc.2 ||| t.2 ||| r.2 ||| q.2)) (c, 0)

/-- Element values of a line with the zero points of its groups. -/
def lineNums (d : OpDesc) (ss : List Nat) (line : Nat) : List Num :=
  (lineCodes d.ty line).zipIdx.map fun v => elemNum d (ss.getD (v.2 / d.blen) 0) v.1

/-- One output element of an integer MMA (R183). -/
def mmaInt (ta tb : Ty) (as bs : List Nat) (c : W32) : W32 :=
  c + BitVec.ofInt 32 ((as.zip bs).foldl (fun t p => t + intElem ta p.1 * intElem tb p.2) 0)

/-- The tile after an MMA: lines of A and B as numbers, scale words of each line, the tile before. -/
def mmaTile (da db : OpDesc) (a b : List Nat) (sa sb : List (List Nat)) (c : Nat → W32) : List W32 × BitVec 6 :=
  if intMma da.ty then
    let as := a.map (lineCodes da.ty)
    let bs := b.map (lineCodes db.ty)
    let rc : Bool := (da.ty = .i4 && as.any (·.contains 8)) || (db.ty = .i4 && bs.any (·.contains 8))
    ((List.range 256).map fun e => mmaInt da.ty db.ty (as.getD (e / 16) []) (bs.getD (e % 16) []) (c e), if rc then fRC else 0)
  else
    let as := a.zipIdx.map fun l => lineNums da (sa.getD l.2 []) l.1
    let bs := b.zipIdx.map fun l => lineNums db (sb.getD l.2 []) l.1
    let rs := (List.range 256).map fun e =>
      mmaElem da db (as.getD (e / 16) []) (bs.getD (e % 16) []) (sa.getD (e / 16) []) (sb.getD (e % 16) []) (c e)
    (rs.map (·.1), rs.foldl (fun f r => f ||| r.2) 0)

namespace State

/-- The lines of an operand in a block of 16 registers; lanes that are not active read as zero (R316). -/
def opLines (s : State) (base : Nat) (m : Mask) : List Nat :=
  (List.range 16).map fun j => natOf (lanes32.flatMap fun L => byteList 4 (if m.getLsbD L then (s.rdV (base + j) L).toNat else 0))

/-- Where an operand's scale array lies in the gang's window: offset and length (R316). -/
def scaleRange (d : OpDesc) (c : Nat) : Nat × Nat :=
  (d.soff + 16 * c, 16 * (depthOf d.ty / d.blen) * (if d.ty.isGroup then 4 else 1))

/-- The scale words of each line, read from the scratchpad. -/
def scaleWords (s : State) (w : Who) (d : OpDesc) (c : Nat) : List (List Nat) :=
  let nb := depthOf d.ty / d.blen
  let n := if d.ty.isGroup then 4 else 1
  (List.range 16).map fun i => (List.range nb).map fun b =>
    Memory.readN s.mem (s.spLoc w ((scaleRange d c).1 + n * (i * nb + b))) n

end State

/-- MMA (R315-R317). The latches of R317 hold what reading the registers would give. -/
def execMma (x : EI) (s0 : State) : Out :=
  .next (
    let r := s0.walk [x.c]
    let s := r.2
    let m := s.act x.guard
    if m = 0 then (s.opSkipped true).advance 1
    else match mmaDescs (s.fblock x.fb.toNat) with
    | none => s.moorAll 0x10 none
    | some (da, db) =>
      let me := s.me
      let cw := if x.sub.getLsbD 2 then s.u32 r.1 none x.c else 0
      let ca := (cw.extractLsb' 0 16).toNat
      let cb := (cw.extractLsb' 16 16).toNat
      let used := (if da.sc then [State.scaleRange da ca] else []) ++ (if db.sc then [State.scaleRange db cb] else [])
      let size := s.gang.spSize * 2048
      let base := fld (s.apReg me 1) 23 29 * 2 ^ 23
      let beyond := (used.filter fun u => size < u.1 + u.2).map fun u => max u.1 size
      match beyond with
      | o :: os =>
        s.moorAll 7 (some (BitVec.ofNat 64 (base + os.foldl min o)))
      | [] =>
        match used.findSome? fun u => ((List.range u.2).find? fun i => s.badRead (s.spLoc me (u.1 + i)) 1).map fun i => u.1 + i with
        | some o => s.moorAll 4 (some (BitVec.ofNat 64 (base + o)))
        | none =>
        if !used.isEmpty && !s.released 3 then s.stall 5 (.fence 3)       -- the fork edge, for its reads of the scratchpad (R131)
        else
          let n := match x.d with | .tile t => t.toNat | _ => 0
          let old (e : Nat) : W32 := if x.sub.getLsbD 3 then 0 else s.tileElem n e
          let t := mmaTile da db (s.opLines (vnum x.a) m) (s.opLines (vnum x.b) m)
            (if da.sc then s.scaleWords me da ca else []) (if db.sc then s.scaleWords me db cb else []) old
          let s1 := (s.countSoft me (used.map fun u => (s.spLoc me u.1, u.2))).setTile n fun e => some (t.1.getD e 0)
          let l : Latch := { crew := s.ckey, a := vnum x.a, b := vnum x.b, lanes := m }
          let s2 := { s1 with exe.latches := s1.exe.latches.put (s.core * 4 + s.frag.crew / 16) l }
          (s2.launchOp { kind := .mma, lanes := m, stat := t.2 } false).advance 1)

/-- ACLR (R318). -/
def execAclr (x : EI) (s : State) : Out :=
  .next (
    let n := match x.d with | .tile t => t.toNat | _ => 0
    (if s.acts x.guard then (List.range (x.sub.toNat % 64 + 1)).foldl (fun s i => s.setTile (n + i) fun _ => some 0) s else s).advance 1)

namespace State

/-- The addresses of rows 0 to 15 (R319): with an index register, those of the lanes that take part. -/
def rowAddrs (s : State) (base : W64) (pitch : Nat) (idx : Option (Nat × Mask)) : List (Nat × W64) :=
  match idx with
  | none => (List.range 16).map fun i => (i, base + BitVec.ofNat 64 (i * pitch))
  | some (v, m) => ((List.range 16).filter (m.getLsbD ·)).map fun i => (i, base + BitVec.ofNat 64 ((s.rdV v i).toNat * pitch))

end State

/-- A source element widened into a tile (R319): its bits, FP32, or INT32. -/
def widen (st v : Nat) : W32 :=
  match st with
  | 1 => BitVec.ofNat 32 (cvtFloat (fmtOfTy .f32) {} (decodeF (fmtOfTy .f16) v)).1
  | 2 => BitVec.ofNat 32 (cvtFloat (fmtOfTy .f32) {} (decodeF (fmtOfTy .bf16) v)).1
  | 3 => (BitVec.ofNat 8 v).signExtend 32
  | 4 => (BitVec.ofNat 16 v).signExtend 32
  | _ => BitVec.ofNat 32 v

/-- ALD from memory (R319): the rows are read, then the tile is written. -/
def aldMemory (x : EI) (s : State) (w : W64) (m : Mask) : State :=
  let n := match x.d with | .tile t => t.toNat | _ => 0
  let st := x.sub.toNat / 4 % 16
  let width := match st with | 0 => 32 | 3 => 8 | _ => 16
  let gath := x.sub.getLsbD 12
  let rows := s.rowAddrs (s.u64 w none x.a) (s.u32 w none x.b).toNat (if gath then some (vnum x.c, m) else none)
  if !s.released 3 then s.stall 5 (.fence 3)
  else if s.parkWait then s.stall 7 .retry
  else match State.rowsGo s.me .load (x.sub.getLsbD 14) (2 * width) (fun i => gath && s.helpers.getLsbD i) rows s with
  | (s1, none) => s1.stall 7 .retry
  | (s1, some rs) =>
    match State.rowFault rs with
    | some (c, a, p) => s1.moorAll c (some a) (some p)
    | none =>
      match (State.rowAccs rs).find? (·.parked) with
      | some a => s1.parkStall a.pva
      | none =>
      let s1 := s1.unpark
      let read := rs.foldl (fun (q : State × Option (List (Nat × Nat))) r =>
        match q, r.2 with
        | (s, some l), .acc a =>
          (match s.readAll s.me 0 a.ca a.locs with
                | (s2, some bs) => (s2, some (l ++ [(r.1, natOf bs)]))
                | (s2, none) => (s2, none))
        | (s, some l), _ => (s, some (l ++ [(r.1, 0)]))
        | q, _ => q) (s1, some [])
      match read with
      | (s2, none) => s2.stall 7 .retry
      | (s2, some l) =>
        let s3 := (s2.softRows (State.rowAccs rs)).setTile n fun e =>
          (l.find? fun r => r.1 = e / 16).map fun r => widen st (r.2 / 2 ^ (width * (e % 16)) % 2 ^ width)
        (s3.launchOp { kind := .ald, lanes := m } false).advance 1

/-- ALD (R319). -/
def execAld (x : EI) (s0 : State) : Out :=
  .next (
    let r := s0.walk [x.a, x.b]
    let s := r.2
    let m := s.act x.guard
    let n := match x.d with | .tile t => t.toNat | _ => 0
    if m = 0 then (s.opSkipped true).advance 1
    else if x.sub.extractLsb' 0 2 = 0 then
      let s1 := s.setTile n fun e => if m.getLsbD (e % 32) then some (s.rdV (vnum x.a + e / 32) (e % 32)) else none
      (s1.launchOp { kind := .ald, lanes := m } false).advance 1
    else aldMemory x s r.1 m)

/-! ADRN (R320-R323). -/

/-- The result type of an ADRN. -/
def adrnTy (dt : Nat) : Ty :=
  match dt with
  | 0 => .f32 | 1 => .f16 | 2 => .bf16 | 3 => .e4m3 | 4 => .e5m2 | 5 => .fx128 | 9 => .s16 | 10 => .s8 | _ => .s32
def EI.dt (x : EI) : Nat := x.sub.toNat / 4 % 16

/-- An element converted to the result type (R321). -/
def drainElem (x : EI) (seed unit : W32) (e : Nat) (v : W32) : Nat × BitVec 6 :=
  let t := adrnTy (EI.dt x)
  let c : Cv := { rnd := x.sub.toNat / 64 % 8, ovf := x.sub.toNat / 512 % 4, sr := srBits seed (e % 32) (e / 32) }
  convert t (if 8 ≤ EI.dt x then .s32 else .f32) c unit v.toNat

/-- The tile operation of an ADRN: drained elements cleared under `.clr`. -/
def drainTile (x : EI) (s : State) (n : Nat) (drained : Nat → Bool) : State :=
  if x.sub.getLsbD 13 then s.setTile n fun e => if drained e then some 0 else none else s

/-- ADRN to registers: each lane's elements into its registers at completion (R311, R321). -/
def drainRegs (x : EI) (s : State) (m : Mask) : State :=
  let n := match x.d with | .tile t => t.toNat | _ => 0
  let wd := (adrnTy (EI.dt x)).width
  let per := 32 / wd
  let regs := List.range (8 / per)
  let elem (e : Nat) := drainElem x s.crew.srseed 0 e (s.tileElem n e)
  let vals := regs.flatMap fun r => (lanesOf m).map fun L =>
    let es := (List.range per).map fun t => elem ((32 * r + L) * per + t)
    (r, L, es.zipIdx.foldl (fun v q => v + q.1.1 * 2 ^ (wd * q.2)) 0, if s.helpers.getLsbD L then 0 else es.foldl (fun f q => f ||| q.2) 0)
  let o : LOp := { kind := .adrn x, lanes := m, dests := regs.map fun r => .v (vix s.sup (vnum x.a + r)),
                   values := vals.map fun v => (vix s.sup (vnum x.a + v.1), v.2.1, BitVec.ofNat 32 v.2.2.1),
                   stat := vals.foldl (fun f v => f ||| v.2.2.2) 0 }
  ((drainTile x s n fun e => m.getLsbD (e / per % 32)).launchOp o false).advance 1

/-- The kind of access of a row an ADRN writes. -/
def adrnKind (x : EI) : AKind := if x.sub.getLsbD 11 then .atomic else .store
/-- Bytes of a row. -/
def adrnRow (x : EI) : Nat := 2 * (adrnTy (EI.dt x)).width

/-- ADRN to memory: rows resolved now, written at completion (R321). -/
def drainMemory (x : EI) (s : State) (w : W64) (m : Mask) : State :=
  let n := match x.d with | .tile t => t.toNat | _ => 0
  let wd := (adrnTy (EI.dt x)).width
  let b := s.u32 w none x.b
  let scat := x.sub.getLsbD 12
  let rows := s.rowAddrs (s.u64 w none x.a) (b.toNat % 2 ^ 24) (if scat then some (vnum x.c, m &&& ~~~s.helpers) else none)
  if s.parkWait then s.stall 7 .retry
  else match State.rowsGo s.me (adrnKind x) (x.sub.getLsbD 14) (adrnRow x) (fun _ => false) rows s with
  | (s1, none) => s1.stall 7 .retry
  | (s1, some rs) =>
    match State.rowFault rs with
    | some (c, a, p) => s1.moorAll c (some a) (some p)
    | none =>
      match (State.rowAccs rs).find? (·.parked) with
      | some a => s1.parkStall a.pva
      | none =>
      let s1 := s1.unpark
      let data := rows.map fun r =>
        let es := (List.range 16).map fun j => drainElem x s.crew.srseed (b >>> 24) (16 * r.1 + j) (s.tileElem n (16 * r.1 + j))
        (r.1, es.zipIdx.foldl (fun v q => v + q.1.1 * 2 ^ (wd * q.2)) 0, es.foldl (fun f q => f ||| q.2) 0)
      let o : LOp := { kind := .adrn x, lanes := m, accs := State.rowAccs rs, operands := data.map fun d => (d.1, d.2.1, 0),
                       stat := data.foldl (fun f d => f ||| d.2.2) 0 }
      ((drainTile x (s1.softRows (State.rowAccs rs)) n fun e => rows.any fun r => r.1 = e / 16).launchOp o false).advance 1

/-- ADRN (R320, R321). -/
def execAdrn (x : EI) (s0 : State) : Out :=
  .next (
    let r := s0.walk [x.a, x.b]
    let s := r.2
    let m := s.act x.guard
    if m = 0 then (s.opSkipped true).advance 1
    else if x.sub.extractLsb' 0 2 = 0 then drainRegs x s m
    else drainMemory x s r.1 m)

/-! LDF (R302). -/

/-- The rows of an LDF resolved in the SP aperture, in ascending order. -/
def ldfRow (s : State) (me : Who) (skw : Bool) (i : Nat) (a : W64) : RowR :=
  match s.spTest me a 16 1 with
  | .error c => .fault c a 0
  | .ok o =>
    let lim := s.apLimit me 1
    if lim < o + 128 then .fault 7 (a + BitVec.ofNat 64 (lim - o)) 0
    else
      let ws := (List.range 32).map fun k =>
        (s.spLoc me (if skw then s.spOffset me (s.gangAt (me.gang.getD 0)) (o + 4 * k) else o + 4 * k), 4, a.toNat + 4 * k)
      match ws.find? fun p => s.badRead p.1 4 with
      | some p => .fault 4 (BitVec.ofNat 64 p.2.2) 0
      | none => .acc { lane := i, va := a, locs := ws }

/-- LDF: rows of the active index lanes, placed as an A fragment at completion (R302, R310). -/
def execLdf (x : EI) (s0 : State) : Out :=
  .next (
    let r := s0.walk [x.b, x.c]
    let s := r.2
    let m := s.act x.guard
    if m = 0 then (s.opSkipped false).advance 1
    else
      let fb := s.fblock x.fb.toNat
      match opDesc (fb.getD 0 0) 0 with       -- word 0 alone (R313)
      | none => s.moorAll 0x10 none
      | some _ =>
        let rows := s.rowAddrs (s.u64 r.1 none x.b) (s.u32 r.1 none x.c).toNat (some (vnum x.a, m))
        let rs := rows.map fun q =>
          (q.1, match ldfRow s { s.me with acc := q.1 } (x.sub.getLsbD 0) q.1 q.2 with
                | .fault c a p => if s.helpers.getLsbD q.1 then RowR.none else .fault c a p
                | y => y)
        match State.rowFault rs with
        | some (c, a, p) => s.moorAll c (some a) (some p)
        | none =>
          let d := vnum x.d
          let o : LOp := { kind := .ldf, lanes := m, dests := (List.range 16).map fun j => .v (vix s.sup (d + j)),
                           accs := State.rowAccs rs, operands := [(0, d, 0)] }
          ((s.softRows (State.rowAccs rs)).launchOp o (x.sub.getLsbD 1)).advance 1)

end Sys2Proof.Machine
end

