-- ==== Sys2Proof/Machine/Complete.lean ====
section
/-! DEFINITION. The completion of long-latency operations and of parked accesses (R78, R108, R124, R212-R214, R288-R293, R302,
R310, R322, R323, R380). -/

namespace Sys2Proof.Machine

open Sys2Proof

namespace State

/-! Faults of accesses that were parked (R78, R380). -/

/-- The fragment of a crew that holds a lane. -/
def holderOf (s : State) (ck L : Nat) : Option (Nat × Frag) :=
  (s.fragsOfCrew (ck / 64) (ck % 64)).find? fun f => f.2.mask.getLsbD L

/-- The fragment may be moored for an access that it made earlier: it stands in user mode and is not registered at a
barrier. -/
def canMoorLate (f : Frag) : Bool :=
  !f.ctl.sup && f.xmask = 0 && (f.state = .ready || f.state = .waiting) &&
    (match f.waitFor with | .barrier _ _ => false | _ => true)

/-- Lanes of a fragment are moored at the instruction that made the access; none while no berth entry is free: the fault then stays undelivered,
since R199's mooring in place needs the fragment to stand at the instruction (DESIGN CHOICE, unsafe: log 137). -/
def moorLate (s : State) (k : Nat) (o : LOp) (m : Mask) (c : Byte) : Option State :=
  let s1 := s.rollback k
  let f := s1.fragAt k
  let core := k / 320
  let joined : Bool := f.waitFor = .join
  if f.mask &&& ~~~m = 0 then
    let s2 := { s1.putFrag k { f with window := none, ctl := o.ctl, waitFor := .none } with cur := .frag core (k % 320) }
    let s3 := if joined then s2.addPend core f.token 1 else s2
    some { s3.moorHere c 0 false false with cur := s.cur }
  else match s1.freeEntry core f.crew with
  | none => none
  | some e =>
    let n : Frag := { mask := m, state := .moored, ctl := o.ctl, cause := c, order := s1.exe.orders + 1 }
    let s2 := s1.splitOff core f (k % 320) e n
    some ({ s2 with exe.orders := s2.exe.orders + 1 }.putFrag k { s2.fragAt k with mask := f.mask &&& ~~~m })

/-- An operation that was issued in a speculative window which is still open (R126). -/
def inWindow (s : State) (ck id : Nat) (o : LOp) : Bool :=
  let f := s.fragAt (ck / 64 * 320 + o.entry)
  f.crew = ck % 64 && f.window.any fun w => w.first ≤ id

/-- The lanes of faults with a cause moored, in every fragment of the crew that holds some and can be moored (R369): the lanes moored so far with
them. -/
def lateGroup (ck : Nat) (o : LOp) (fs : List LFault) (q : State × Mask) (c : Byte) : State × Mask :=
  let mine := fs.filter (·.cause = c)
  (q.1.fragsOfCrew (ck / 64) (ck % 64)).foldl (fun (q : State × Mask) f =>
    let m := f.2.mask &&& maskOf (mine.map (·.lane))
    let here := mine.filter fun x => m.getLsbD x.lane
    let s1 := (q.1.putCrew ck (noteFaults (q.1.crewAt ck) here)).countErrs (q.1.crewWho ck o.sup) 1 (if c = 4 then here.length else 0)
    if here.isEmpty || !canMoorLate f.2 then q
    else match s1.moorLate f.1 o m c with
      | some s2 => (s2, q.2 ||| m)
      | none => q) q

/-- A fault of an access made in supervisor mode: a double fault, once, with the lowest cause and its lowest lane (R373, R380). The fragment that
holds the lane now is frozen at the instruction, be it back in user mode or not (DESIGN CHOICE, unsafe: log 137). -/
def lateFreeze (s : State) (ck : Nat) (o : LOp) (fs : List LFault) : State :=
  match lowest fs with
  | none => s
  | some f =>
    match s.holderOf ck f.lane with
    | none => s
    | some (k, _) =>
      let s1 := ((s.putCrew ck (noteFaults (s.crewAt ck) fs)).countErrs (s.crewWho ck o.sup) 1 (fs.filter (·.cause = 4)).length).rollback k
      let s2 := s1.putFrag k { s1.fragAt k with ctl := o.ctl, window := none }
      { { s2 with cur := .frag (k / 320) (k % 320) }.freeze f.cause (f.addr.getD 0) with cur := s.cur }

/-- Faults that accesses of an operation have met after their instruction went on (R78, R369, R373, R380): the lanes for which they are over. Those of
a load in an open window wait until its fence completes (R128). -/
def lateFaults (s : State) (ck id : Nat) (o : LOp) (fs : List LFault) : State × Mask :=
  let held := fs.filter fun f => (s.holderOf ck f.lane).isSome
  let gone := maskOf ((fs.filter fun f => (s.holderOf ck f.lane).isNone).map (·.lane))
  if held.isEmpty then (s, gone)
  else if s.inWindow ck id o then (s, gone)
  else if o.sup then (s.lateFreeze ck o held, maskOf (fs.map (·.lane)))
  else (causesOf held).foldl (lateGroup ck o held) (s, gone)

/-! Accesses of loads, stores and REDs. -/

/-- What an access of an operation comes to now. -/
inductive AccR
  | keep (a : Acc)
  | done (vals : List (Nat × Nat × W32))
  deriving DecidableEq, Repr

/-- A parked access translated again, in the order in which the accesses of its TLB were parked (R78). -/
def retry (s : State) (w : Who) (ck : Nat) (k : AKind) (width : Nat) (skw : Bool) (a : Acc) : State × AccR :=
  let help := (s.crewAt ck).helpers.getLsbD a.lane
  let bad (c : Byte) (addr : W64) (p : Option W64) : AccR :=
    if help then .done []
    else .keep { a with fault := some { lane := a.lane, cause := c, addr := some addr, fpte := p }, replay := false }
  if !a.parked || a.fault.isSome || !(a.pseq = 0 || s.mayReplay w.isl w.tlb (a.pseq, w.spn, a.pva)) then (s, .keep a)
  else match s.laneAccess w a.lane a.va width k skw with
  | (s1, .ok ls ca) =>
    if noAtomic k ca ls then (s1, bad 2 a.va (some 0))
    else if s1.needsBad k [] ls then (s1, bad 4 a.va none)
    else (s1.countSoft w ls, .keep { a with parked := false, locs := s1.withVas w a.lane a.va ls, ca := ca })
  | (s1, .fault c f p) => (s1, bad c f (some p))
  | (s1, .park va) => ({ s1 with exe.ids := s1.exe.ids + 1 }, .keep { a with pseq := s1.exe.ids + 1, pva := va, replay := false })
  | (s1, .busy) => (s1, .keep a)

/-- Lines that a load in a window has read (R126). -/
def noteLines (s : State) (ck id : Nat) (o : LOp) (a : Acc) : State :=
  let k := ck / 64 * 320 + o.entry
  let f := s.fragAt k
  match f.window with
  | some w =>
    if f.crew = ck % 64 && w.first ≤ id then
      let ls := (a.locs.filter fun p => isGlobal p.1).map fun p => lineKey (ck / 64 / 128) p.1
      s.putFrag k { f with window := some { w with lines := w.lines ++ ls } }
    else s
  | none => s

/-- What comes before the accesses of an operation is still to be performed: an access of its fragments made before a split or fusion that it
came after (R109), and, for writes, a release (R118, R120). -/
def opWaits (s : State) (ck : Nat) (o : LOp) : Bool :=
  ((s.crewAt ck).ops.any fun x => x.1 ≤ o.after && shares o.owners x.2.owners && isAccess x.2) || s.lateStores ck o.owners o.after || !s.freeToWrite (s.opSrc ck o) o.rel

/-- One access of a load, store, RED or parked prefetch performed, if it can be. -/
def accStep (s : State) (ck id : Nat) (o : LOp) (a : Acc) : State × AccR :=
  let w := { s.crewWho ck o.sup with po := id }
  let go (k : AKind) (x : MI) (body : State → Acc → State × AccR) : State × AccR :=
    match s.retry w ck k (MI.bytes x) x.skw a with
    | (s1, .keep b) =>
      let below := isWrite o && o.accs.any fun p => p.parked && p.lane < b.lane && s1.mayMeet w (MI.bytes x) p b.locs
      if b.parked || below || s1.opWaits ck o || (s1.earlier ck o.owners id b.locs).isSome then (s1, .keep b)
      else body s1 b
    | r => r
  let send (x : MI) (red : Option (UKey × Bool)) (s1 : State) (b : Acc) : State × AccR :=
    let v := ((o.operands.find? fun p => p.1 = b.lane).map fun p => p.2.1).getD 0
    let ps := piecesOf b.ca b.locs (byteList (MI.bytes x) v)
    if s1.bufferFull w ps then (s1, .keep b) else (s1.push w ps x.hint.toNat red id o.owners, .done [])
  match o.kind with
  | .ld x =>
      let ds := o.dests.filterMap fun r => match r with | .v n => some n | _ => none
      let q := go .load x fun s1 b =>
        match s1.readAll { w with spec := s1.inWindow ck id o } x.hint.toNat b.ca b.locs with
        | (s2, some bs) => ((s2.noteSeen (s2.opSrc ck o) id b.locs).noteLines ck id o b,
                            .done ((ds.zip (loadWords x bs)).map fun p => (p.1, b.lane, p.2)))
        | (s2, none) => (s2, .keep b)
      match q with
      | (s1, .done []) => (s1, .done (ds.map fun n => (n, a.lane, 0)))      -- a helper lane that would fault reads zero (R10)
      | r => r
  | .st x => go .store x (send x none)
  | .red bw x => go .atomic x (send x (some (redKey bw x)))
  | .pref l2 =>
      match s.retry w ck .prefetch 1 false a with
      | (s1, .keep b) =>
        if b.fault.isSome then (s1, .done [])
        else if b.parked then (s1, .keep b)
        else (match b.locs with | p :: _ => prefetchFill l2 s1 w p.1 b.ca b.va.toNat | [] => s1, .done [])
      | (s1, _) => (s1, .done [])                                            -- an address that would fault is dropped (R294)
  | _ => (s, .keep a)

/-- The accesses of an operation in turn: what is left, and the values read. -/
def accsGo (ck id : Nat) (o : LOp) : List Acc → State → State × List Acc × List (Nat × Nat × W32)
  | [], s => (s, [], [])
  | a :: r, s =>
    match s.accStep ck id o a with
    | (s1, .keep b) => let q := accsGo ck id o r s1
                       (q.1, b :: q.2.1, q.2.2)
    | (s1, .done vs) => let q := accsGo ck id o r s1
                        (q.1, q.2.1, vs ++ q.2.2)

/-! Atomics: lanes on one location together (R124, R292). -/

/-- Parked lanes of an atomic translated again. -/
def retryAtom (ck : Nat) (o : LOp) (x : MI) : List Acc → State → State × List Acc
  | [], s => (s, [])
  | a :: r, s =>
    match s.retry (s.crewWho ck o.sup) ck .atomic (MI.bytes x) false a with
    | (s1, .keep b) => let q := retryAtom ck o x r s1
                       (q.1, b :: q.2)
    | (s1, .done _) => retryAtom ck o x r s1

def headLoc (a : Acc) : Nat := match a.locs with | p :: _ => p.1 | [] => 0

/-- The groups of an atomic, one for each location, performed where they can be. -/
def atomGo (ck id : Nat) (o : LOp) (bw : Bool) (x : MI) : List Nat → List Acc → State → State × List Acc × List (Nat × Nat × W32)
  | [], accs, s => (s, accs, [])
  | l :: ls, accs, s =>
    let w := { s.crewWho ck o.sup with po := id }
    let mine := accs.filter fun a => !a.parked && headLoc a = l
    let n := MI.bytes x
    match mine with
    | [] => atomGo ck id o bw x ls accs s
    | a :: _ =>
      let ready : State × Bool :=
        if s.opWaits ck o || (s.earlier ck o.owners id a.locs).isSome then (s, false)
        else atomReady s w x.hint.toNat a.ca l n (match a.locs with | p :: _ => p.2.2 | [] => 0)
      match ready with
      | (s1, false) => atomGo ck id o bw x ls accs s1
      | (s1, true) =>
        let ops := mine.map fun b => ((o.operands.find? fun p => p.1 = b.lane).getD (b.lane, 0, 0))
        let r := atomPerform bw x s1 w l ops
        let ds := o.dests.filterMap fun r => match r with | .v k => some k | _ => none
        let vals := r.2.flatMap fun q => ds.zipIdx.map fun d => (d.1, q.1, BitVec.ofNat 32 (q.2 / 2 ^ (32 * d.2)))
        let q := atomGo ck id o bw x ls (accs.filter fun b => b.parked || headLoc b ≠ l) r.1
        (q.1, q.2.1, vals ++ q.2.2)

/-! LDF (R302, R310): byte 4L of row j in lane L of register j. -/

def ldfValues (s : State) (o : LOp) : List (Nat × Nat × W32) :=
  let ds := o.dests.filterMap fun r => match r with | .v n => some n | _ => none
  ds.zipIdx.flatMap fun d =>
    let row : List Byte := match o.accs.find? fun a => a.lane = d.2 with
      | some a => s.readPieces (a.locs.map fun p => (p.1, p.2.1))
      | none => []
    (lanesOf o.lanes).map fun L => (d.1, L, BitVec.ofNat 32 (natOf ((row.drop (4 * L)).take 4)))

/-! ADRN to memory (R321-R323). -/

/-- What comes before an operation of an engine has been performed (R131). -/
def opForked (s : State) (ck id : Nat) (o : LOp) : Bool := s.relDone (s.opSrc ck o) 3 id

/-- Every piece of a row may be written. -/
def rowReady (w : Who) (ca : Nat) : List (Nat × Nat × Nat) → State → State × Bool
  | [], s => (s, true)
  | (l, n, va) :: r, s =>
    let a := atomReady s w 0 ca l n va
    let b := rowReady w ca r a.1
    (b.1, a.2 && b.2)

/-- The bytes of a row after the ADRN: the results, or what was there plus the results (R322). -/
def rowNew (x : EI) (old v : Nat) : Nat :=
  if adrnKind x = .atomic then
    let wd := (adrnTy (EI.dt x)).width
    (List.range 16).foldl (fun t j =>
      t + elemOp (if EI.dt x = 0 then 1 else 0) (wd / 8) (old / 2 ^ (wd * j) % 2 ^ wd) (v / 2 ^ (wd * j) % 2 ^ wd) * 2 ^ (wd * j)) 0
  else v

/-- An error of an add-on-store is kept for a fragment of those the ADRN comes before (R323). -/
def giveErr (s : State) (ck : Nat) (o : LOp) (a : W64) : State :=
  let flag : BitVec 8 := match ((s.crewAt ck).runs.find o.run).bind (·.fb) with | some k => BitVec.ofNat 8 k | none => 255
  match (s.fragsOfCrew (ck / 64) (ck % 64)).find? fun f => o.owners.contains (f.1 % 320) with
  | some (k, f) => s.putFrag k { f with errs := f.errs ++ [(flag, a)] }
  | none => s

/-- One row written, when its lines allow. -/
def rowStep (s : State) (ck id : Nat) (o : LOp) (x : EI) (a : Acc) : State × Bool :=
  let w := { s.crewWho ck o.sup with po := id }
  let ps := a.locs.map fun p => (p.1, p.2.1)
  let v := ((o.operands.find? fun p => p.1 = a.lane).map fun p => p.2.1).getD 0
  match rowReady w a.ca a.locs s with
  | (s1, false) => (s1, false)
  | (s1, true) =>
    if adrnKind x = .atomic && s1.badPieces ps then (s1.giveErr ck o a.va, true)
    else
      let s2 := s1.writePieces ps (byteList (adrnRow x) (rowNew x (natOf (s1.readPieces ps)) v))
      let ag := w.agent.getD 0
      ((a.locs.filter fun p => isGlobal p.1).foldl (fun s p =>
        let lk := lineKey w.isl p.1
        let c := s.cline w.isl ag (lineNo lk)
        ((if c.tokens = 144 then (s.setCline w.isl ag (lineNo lk) { c with dirty := true }).accessDone w.isl ag lk else s).rollbackLine
          (w.isl * 128 + ag) lk (some w.id))) (s2.hostWrites w a.ca id 0 ps), true)

def rowsStep (ck id : Nat) (o : LOp) (x : EI) : List Acc → State → State × List Acc
  | [], s => (s, [])
  | a :: r, s =>
    match s.rowStep ck id o x a with
    | (s1, true) => rowsStep ck id o x r s1
    | (s1, false) => let q := rowsStep ck id o x r s1
                     (q.1, a :: q.2)

/-! Completion (R212-R214). -/

/-- Register values written in their lanes, by stored register number. -/
def writeValues (c : Crew) (vs : List (Nat × Nat × W32)) : Crew :=
  vs.foldl (fun c v =>
    let old := c.vregs.get [] v.1
    { c with vregs := c.vregs.put v.1 (lanes32.map fun L => if L = v.2.1 then v.2.2 else old.getD L 0) }) c

/-- The scope of an acquire. -/
def acqScope (o : LOp) : Nat := match o.kind with | .ld m | .atom _ m => m.scope.toNat | _ => 3

/-- An operation with nothing left to perform: its registers, its flags of `sys.astat`, its clause flag, the scoreboard. -/
def completeOp (s : State) (ck id : Nat) (o : LOp) : State :=
  let c := writeValues (s.crewAt ck) (o.values.filter fun v => o.lanes.getLsbD v.2.1)
  let c1 := { c with astat := c.astat ||| o.stat, firm := c.firm ||| o.stat, ops := c.ops.del id }
  let s1 := s.putCrew ck (match opClassB o with
    | some true => runDone c1 o.run 0 1
    | some false => runDone c1 o.run 1 0
    | none => c1)
  if (s1.fragsOfCrew (ck / 64) (ck % 64)).any fun f => f.2.acquire = some id then s1.twinAcquire ck (acqScope o) else s1

/-- Accesses that are left to be performed at their homes wait in the queues of lines that are blocked there (R85, R94): those for whose line the
agent has neither a request nor a copy. -/
def waitAtHome (s : State) (ck id : Nat) (o : LOp) : State :=
  let w := s.crewWho ck o.sup
  let a := w.agent.getD 0
  let lks := ((o.accs.filter fun x => !x.parked).flatMap fun x => (x.locs.filter fun p => isGlobal p.1).map fun p => lineKey w.isl p.1).eraseDups
  s.holdLines (.op ck id) (lks.filter fun lk => (s.cline w.isl a (lineNo lk)).tokens = 0 && (s.reqsOf w.isl a).all fun r => r.line ≠ lk)

/-! Translation again of accesses that are still to be performed (R73, R74, R77, R106). -/

/-- Accesses of operations of crews are translated again, as if they had been parked and released. -/
def reparkBy (s : State) (sel : Nat → Nat → LOp → Acc → Bool) : State :=
  let n := s.exe.ids + 1
  let va (a : Acc) : Nat := match a.locs with | p :: _ => p.2.2 | [] => a.va.toNat
  let again (a : Acc) : Acc := { a with parked := true, locs := [], pseq := n, pva := va a }
  let op (ck : Nat) (o : Nat × LOp) : Nat × LOp := (o.1, { o.2 with accs := o.2.accs.map fun a => if sel ck o.1 o.2 a then again a else a })
  let crews := s.exe.crews.map fun (c : Nat × Crew) => (c.1, { c.2 with ops := c.2.ops.map (op c.1) })
  let rs := s.exe.crews.flatMap fun c => c.2.ops.flatMap fun o => (o.2.accs.filter (sel c.1 o.1 o.2)).map fun a =>
    ({ isl := c.1 / 64 / 128, tlb := c.1 / 64 % 128 / 8, spn := s.spnOfGang (s.gangAt (c.1 / 64 * 16 + c.2.gang)),
       page := va a / 65536 * 65536, size := 65536, below := n + 1 } : Release)
  if rs.isEmpty then s else { s with exe.crews := crews, exe.ids := n, trn.released := s.trn.released ++ rs }

/-- Those of some cores that are still to be performed in some lines (R106). -/
def repark (s : State) (core line : Nat → Bool) : State :=
  s.reparkBy fun ck _ _ a => core (ck / 64) && a.locs.any fun p => isGlobal p.1 && line (lineKey (ck / 64 / 128) p.1)

/-- An access that has not been sent from its core: a store or RED that has not entered the write buffer; a load or atomic that waits for what comes
before it; a load of an open window, which only the L1 serves (R73, R126). -/
def atCore (s : State) (ck id : Nat) (o : LOp) (a : Acc) : Bool :=
  let ak := agentKey (s.crewWho ck o.sup)
  !a.parked && match o.kind with
  | .st _ | .red _ _ | .pref _ => true
  | .ld _ => s.inWindow ck id o || s.opWaits ck o || (s.earlier ck o.owners id a.locs).isSome || a.locs.any fun p => s.pendingAt ak p.1 p.2.1
  | .atom _ _ => s.opWaits ck o || (s.earlier ck o.owners id a.locs).isSome || a.locs.any fun p =>
      isGlobal p.1 && s.coh.wbuf.any fun e => e.core = ak && e.line = lineKey (ck / 64 / 128) p.1
  | .mma | .ald | .ldf | .adrn _ => false

/-- Once one of a crew's replayed accesses has parked again, or met a fault that waits to be taken, the others hold no fragment back any more: they may
wait behind it (R78, R380). -/
def replaysOver (s : State) (ck : Nat) (o : LOp) : State :=
  if !(o.accs.any fun a => a.parked && !a.replay) then s
  else
    let c := s.crewAt ck
    let clear (a : Acc) : Acc := { a with replay := false }
    s.putCrew ck { c with ops := c.ops.map fun (x : Nat × LOp) => (x.1, { x.2 with accs := x.2.accs.map clear }) }

/-- An operation goes as far as it can, and completes when it has nothing left. -/
def progressOp (s : State) (ck id : Nat) : State :=
  match (s.crewAt ck).ops.find id with
  | none => s
  | some o =>
    let r : State × LOp := match o.kind with
      | .ld _ | .st _ | .red _ _ | .pref _ =>
        let q := accsGo ck id o o.accs s
        (q.1, { o with accs := q.2.1, values := o.values ++ q.2.2 })
      | .atom bw x =>
        let p := retryAtom ck o x o.accs s
        let q := atomGo ck id o bw x ((p.2.map headLoc).eraseDups) p.2 p.1
        (q.1, { o with accs := q.2.1, values := o.values ++ q.2.2 })
      | .ldf =>
        if s.opWaits ck o || o.accs.any fun a => (s.earlier ck o.owners id a.locs).isSome then (s, o)
        else (s, { o with values := s.ldfValues o, accs := [] })
      | .adrn x =>
        if o.accs.isEmpty || !s.opForked ck id o then (s, o)
        else let q := rowsStep ck id o x o.accs s
             (q.1, { o with accs := q.2 })
      | .mma | .ald => (s, o)
    let f := r.1.lateFaults ck id r.2 (r.2.accs.filterMap (·.fault))
    let gone (a : Acc) : Bool := a.fault.isSome && f.2.getLsbD a.lane
    let c := f.1.crewAt ck
    match c.ops.find id with
    | none => f.1
    | some now =>
      let o1 := { r.2 with owners := now.owners, entry := now.entry, accs := r.2.accs.filter fun a => !gone a, lanes := r.2.lanes &&& ~~~f.2 }
      if o1.accs.isEmpty then f.1.completeOp ck id o1
      else (replaysOver (f.1.putCrew ck { c with ops := c.ops.put id o1 }) ck o1).waitAtHome ck id o1

end State

/-- LONG_LATENCY_COMPLETE (R213): an operation performs what accesses it can; when none is left it completes. -/
def execLongLatencyComplete (crew op : Nat) (s : State) : Out :=
  .next (
    let st := (s.precinct (s.precinctOfCore (crew / 64))).state
    if st = .running || st = .halting then s.progressOp crew op else s)

end Sys2Proof.Machine
end

