-- ==== Sys2Proof/Machine/Link.lean ====
section
/-! DEFINITION. Flits on links: coding, routes, ports, transmission, and how acknowledgements reach a source (R4, R31, R144,
R394-R402). -/

namespace Sys2Proof.Machine

open Sys2Proof

/-! Coding (R398, R399). -/

/-- One byte of the reflected CRC-32. -/
def crcBits : Nat → W32 → W32
  | 0, c => c
  | n + 1, c => crcBits n (if c.getLsbD 0 then (c >>> 1) ^^^ 0xEDB88320 else c >>> 1)
def crc32 (bs : List Byte) : W32 := ~~~(bs.foldl (fun c b => crcBits 8 (c ^^^ b.setWidth 32)) 0xFFFFFFFF)

/-- Header bytes 0 to 11 as a number. -/
def flitHead (f : Flit) : Nat :=
  let bit (b : Bool) : Nat := if b then 1 else 0
  f.route.toNat + f.hops.toNat * 2 ^ 16 + f.taken.toNat * 2 ^ 20 + f.dst.toNat * 2 ^ 24 + f.src.toNat * 2 ^ 29
    + f.cls.toNat * 2 ^ 34 + f.typ.toNat * 2 ^ 36 + bit f.first * 2 ^ 39 + bit f.last * 2 ^ 40 + f.seq.toNat * 2 ^ 41
    + bit f.cmb * 2 ^ 53 + f.rsv.toNat % 2 ^ 10 * 2 ^ 54 + f.optag.toNat * 2 ^ 64 + f.flen.toNat * 2 ^ 80
    + f.rsv.toNat / 2 ^ 10 * 2 ^ 89

def padTo (n : Nat) (bs : List Byte) : List Byte := bs.take n ++ List.replicate (n - bs.length) 0

def flitCrc (f : Flit) : W32 := crc32 (byteList 12 (flitHead f) ++ padTo 256 f.payload)

/-- KIND of R164. -/
def kindCode : OpKind → Nat
  | .put => 0 | .puts => 1 | .get => 2 | .radd => 3 | .notify => 4
def kindOf (n : Nat) : OpKind := match n with | 0 => .put | 1 => .puts | 2 => .get | 3 => .radd | _ => .notify

/-- The 32 bytes of an operation descriptor (R399). -/
def descBytes (d : Desc) : List Byte :=
  byteList 8 d.ta.toNat ++ byteList 4 d.len.toNat ++ byteList 2 (d.spn.toNat + if d.sup then 2 ^ 12 else 0)
    ++ byteList 1 (kindCode d.kind) ++ byteList 1 d.rty.toNat ++ byteList 4 d.n.toNat ++ byteList 4 d.inc.toNat
    ++ byteList 1 d.emask.toNat ++ byteList 1 d.ncon.toNat ++ byteList 6 0

def descOf (bs : List Byte) : Desc :=
  let f (lo n : Nat) : Nat := natOf ((bs.drop lo).take n)
  { ta := BitVec.ofNat 64 (f 0 8), len := BitVec.ofNat 32 (f 8 4), spn := BitVec.ofNat 12 (f 12 2), sup := f 12 2 / 2 ^ 12 % 2 = 1,
    kind := kindOf (f 14 1 % 8), rty := BitVec.ofNat 2 (f 15 1), n := BitVec.ofNat 32 (f 16 4), inc := BitVec.ofNat 32 (f 20 4),
    emask := BitVec.ofNat 8 (f 24 1), ncon := BitVec.ofNat 8 (f 25 1) }

/-! The grid (R4, R392, R395): ports 0 N, 1 E, 2 S, 3 W. -/

def gridNext (isl p : Nat) : Option Nat :=
  match p with
  | 0 => if isl + 5 < 20 then some (isl + 5) else none
  | 1 => if isl % 5 < 4 then some (isl + 1) else none
  | 2 => if 5 ≤ isl then some (isl - 5) else none
  | _ => if isl % 5 ≠ 0 then some (isl - 1) else none

def opposite (p : Nat) : Nat := (p + 2) % 4
/-- Hop `k` of a route. -/
def hopOf (route k : Nat) : Nat := route / 4 ^ k % 4

namespace State

def populated (s : State) (isl : Nat) : Bool := isl < 20 && s.mgt.mod.pop.getLsbD isl && s.mgt.mod.healthy.getLsbD isl
/-- The island at the far end of a port's link, where both sites are populated (R392). -/
def neighbour (s : State) (isl p : Nat) : Option Nat :=
  match gridNext isl p with
  | some j => if s.populated isl && s.populated j then some j else none
  | none => none

def port (s : State) (isl p : Nat) : Port := s.eng.fab.ports.get {} (isl * 4 + p)
def setPort (s : State) (isl p : Nat) (x : Port) : State := { s with eng.fab.ports := s.eng.fab.ports.put (isl * 4 + p) x }
def linkUp (s : State) (isl p : Nat) : Bool := (s.port isl p).link = 2

def chart (s : State) (isl e : Nat) : W64 := s.eng.fab.chart.get 0 (isl * 4096 + e)
/-- An id that R29 lets an operation use: V and RV set. -/
def usable (s : State) (isl e : Nat) : Bool := (e < 20 || 32 ≤ e) && fld (s.chart isl e) 0 2 = 3

/-! Acknowledgements for a source: `op` is source × 65536 + tag. -/

def pushAck (s : State) (a : Ack) : State := { s with eng.acks := s.eng.acks ++ [a] }
/-- One that the Harbourmaster carries (R400). -/
def pushHm (s : State) (a : Ack) : State := { s with eng.hmacks := s.eng.hmacks ++ [a] }

/-- The constituents of a combined RADD: source × 65536 + tag (R399). -/
def constituents (f : Flit) : List Nat :=
  let n := (descOf f.payload).ncon.toNat
  (List.range n).map fun i =>
    let w := natOf ((f.payload.drop (160 + 4 * i)).take 4)
    w % 32 * 65536 + w / 65536

/-- The source operations a flit of a request or of data belongs to. -/
def flitOps (f : Flit) : List Nat := if f.cmb then constituents f else [f.src.toNat * 65536 + f.optag.toNat]

/-- A flit of the operation is lost: its source sends no more of it, and no later flit of it is placed (DESIGN CHOICE, unsafe: log 116). -/
def loseOp (s : State) (o : Nat) : State :=
  match s.eng.ops.find o with
  | some x => { s with eng.ops := s.eng.ops.put o { x with lost := true } }
  | none => s

/-- A flit of an operation of the module has been lost, or the operation has ended. -/
def isLost (s : State) (op : Nat) : Bool := match s.eng.ops.find op with | some o => o.lost | none => op / 65536 < 32

/-- A flit lost with its link, or without a route: the Harbourmaster delivers what R400 says. The credit of a flit of a request or of data
comes back to its source (DESIGN CHOICE, unsafe: log 116). -/
def lose (s : State) (f : Flit) : State :=
  let back := f.dst.toNat * 65536 + f.optag.toNat
  match f.typ.toNat with
  | 6 => s.pushHm { op := back, cause := none }
  | 7 => s.pushHm { op := back, cause := some (f.payload.headD 6) }
  | 3 => (s.loseOp back).pushHm { op := back, cause := some 6 }
  | _ => (flitOps f).foldl (fun s o =>
      let s1 := (s.loseOp o).pushHm { op := o, cause := some 6 }
      if f.cls.toNat < 2 then
        { s1 with eng.fab.credits := s1.eng.fab.credits.upd 0 ((o / 65536 * 20 + f.dst.toNat) * 2 + f.cls.toNat) (· - 1) }
      else s1) s

/-! Transmission (R400, R401). -/

/-- Flits leave a port's queue while fewer than 1,024 are unacknowledged: TAKEN, SEQ and CRC are written afresh. -/
def pumpGo : Nat → Port → Nat → Port
  | 0, x, _ => x
  | n + 1, x, t =>
    match x.queue with
    | [] => x
    | (_, _, f) :: q =>
      if 1024 ≤ x.unacked.length then x
      else
        let x := if x.unacked.isEmpty then { x with progress := t } else x
        let f1 := { f with taken := f.taken + 1, seq := x.seq }
        let f2 := { f1 with crc := flitCrc f1 }
        pumpGo n { x with queue := q, wire := x.wire ++ [f2], unacked := x.unacked ++ [{ flit := f2, at_ := t }], seq := x.seq + 1 } t

def pump (s : State) (isl p : Nat) : State :=
  let x := s.port isl p
  s.setPort isl p (pumpGo x.queue.length x s.clock)

/-- Two RADD flits that an OE die may combine, with their operations and elements (R409). -/
def raddOf (f : Flit) : Option (Desc × List Nat × (Nat → Option Nat)) :=
  let d := descOf f.payload
  if f.typ ≠ 4 || d.rty ≠ 3 then none
  else if f.cmb then
    some (d, constituents f, fun i => if d.emask.getLsbD i then some (natOf ((f.payload.drop (32 + 16 * i)).take 16)) else none)
  else
    some (d, flitOps f, fun i => if d.ta.toNat % 128 / 16 = i then some (natOf ((f.payload.drop 32).take 16)) else none)

/-- The combined flit takes the earlier one's header; its payload holds the sums and the constituents (R399, R409). -/
def combineFlits (f g : Flit) : Option Flit :=
  match raddOf f, raddOf g with
  | some (d, os, x), some (e, ps, y) =>
    if f.dst ≠ g.dst || d.spn ≠ e.spn || d.ta.toNat / 128 ≠ e.ta.toNat / 128 || 24 < os.length + ps.length then none
    else
      let elem (i : Nat) : Option Nat := match x i, y i with
        | some a, some b => some ((a + b) % 2 ^ 128) | some a, none => some a | none, b => b
      let mask := (List.range 8).foldl (fun m i => if (elem i).isSome then m + 2 ^ i else m) 0
      let d' := { d with ta := BitVec.ofNat 64 (d.ta.toNat / 128 * 128), emask := BitVec.ofNat 8 mask,
                         ncon := BitVec.ofNat 8 (os.length + ps.length) }
      let body := (List.range 8).flatMap fun i => byteList 16 ((elem i).getD 0)
      let cons := (os ++ ps).flatMap fun o => byteList 4 (o / 65536 + o % 65536 * 65536)
      some { f with cmb := true, flen := 256, payload := padTo 256 (descBytes d' ++ body ++ cons) }
  | _, _ => none

/-- A flit combined with one of a queue that came within 200 ns (400 clocks) and still stands there, where there is one (R409). -/
def combineIn (t : Nat) (f : Flit) : List (Nat × Nat × Flit) → Option (List (Nat × Nat × Flit))
  | [] => none
  | (v, u, g) :: r =>
    match (if t ≤ u + 400 then combineFlits g f else none) with
    | some h => some ((v, u, h) :: r)
    | none => (combineIn t f r).map ((v, u, g) :: ·)

/-- A flit joins a queue behind the flits of its own channel. Flits of other channels have buffers of their own and may leave before or after it:
its place among them is free (R401). A flit of a grid that a circuit carries stands before all flits that none carries (`pri`, R406). -/
def joinQueue (pri : Flit → Bool) (vc t c : Nat) (f : Flit) (q : List (Nat × Nat × Flit)) : List (Nat × Nat × Flit) :=
  let after (p : Nat × Nat × Flit → Bool) : Nat := q.length - (q.reverse.takeWhile fun e => !p e).length
  let own := after fun e => e.1 = vc
  let k := if pri f then after fun e => pri e.2.2 else own + Config.freeChoice c % (q.length - own + 1)
  q.take k ++ (vc, t, f) :: q.drop k

/-- The channel of a flit: that of its class on its first link, then the pass-through sub-lane TAKEN of the port by which it came (R401). -/
def channelOf (f : Flit) : Nat :=
  if f.taken = 0 then f.cls.toNat else 4 * f.taken.toNat + opposite (hopOf f.route.toNat (f.taken.toNat - 1))

/-- The links of a route: island and port of each hop. -/
def routeLinks (s : State) : Nat → Nat → Nat → List (Nat × Nat)
  | 0, _, _ => []
  | n + 1, route, i =>
    (i, route % 4) :: (match s.neighbour i (route % 4) with | some j => s.routeLinks n (route / 4) j | none => [])

/-- The granted circuits of a gang's grid towards an island (R406). -/
def circuitsTo (s : State) (gk dest : Nat) : List Circuit :=
  s.eng.fab.circuits.filter fun c => c.granted && c.dest = dest && (s.gangAt gk).used && c.task = (s.gangAt gk).task

/-- A circuit of a flit's grid holds colours on a link, which the grid's flits to DEST use first (R406). -/
def carried (s : State) (isl p : Nat) (f : Flit) : Bool :=
  f.cls.toNat < 3 && f.typ.toNat ≠ 3 && f.typ.toNat < 6 && match s.eng.ops.find (f.src.toNat * 65536 + f.optag.toNat) with
    | some o => !o.pilot && (s.circuitsTo o.gang f.dst.toNat).any fun c => (s.routeLinks c.hops c.route.toNat c.isl).contains (isl, p)
    | none => false

/-- The Chart entry by which an operation of a gang leaves: with the route of an explicit circuit of its grid, where one is granted (R398, R406). -/
def entryFor (s : State) (isl gk dest : Nat) : W64 :=
  let e := s.chart isl dest
  match (s.circuitsTo gk dest).find? (·.expl) with
  | some c => BitVec.ofNat 64 (e.toNat % 2 ^ 8 + c.hops % 16 * 2 ^ 8 + c.route.toNat * 2 ^ 12)
  | none => e

/-- The queues of an OE die: that of a port, then those of its other ports. -/
def diePorts (p : Nat) : List Nat := p :: (List.range 4).filter (· ≠ p)

/-- A flit is queued for a port, combined with one that stands at its die (R409), or on its own. -/
def enqueue (s : State) (isl p : Nat) (f : Flit) : State :=
  let x := s.port isl p
  if x.link ≠ 2 then s.lose f
  else
    let s1 := s.setPort isl p { x with dem := x.dem + 1 }
    match (diePorts p).findSome? fun r => (combineIn s1.clock f (s1.port isl r).queue).map (r, ·) with
    | some (r, q) => s1.setPort isl r { s1.port isl r with queue := q }
    | none =>
      { s1.setPort isl p { s1.port isl p with queue := joinQueue (s.carried isl p) (channelOf f) s.clock s.choices f x.queue } with
        choices := s.choices + 1 }

/-- A flit sent from an island by a Chart entry. -/
def sendBy (s : State) (isl : Nat) (e : W64) (f : Flit) : State :=
  s.enqueue isl (hopOf (fld e 12 16) 0) { f with route := BitVec.ofNat 16 (fld e 12 16), hops := BitVec.ofNat 4 (fld e 8 4), taken := 0 }

/-- A flit with no route yet. -/
def bareFlit (src dst cls typ : Nat) (first last : Bool) (tag : Nat) (payload : List Byte) : Flit :=
  { route := 0, hops := 0, taken := 0, dst := BitVec.ofNat 5 dst, src := BitVec.ofNat 5 src, cls := BitVec.ofNat 2 cls,
    typ := BitVec.ofNat 3 typ, first := first, last := last, seq := 0, cmb := false, rsv := 0, optag := BitVec.ofNat 16 tag,
    flen := BitVec.ofNat 9 payload.length, crc := 0, payload := payload }

/-- The Ultra Ethernet endpoint that an entry names (R394). -/
def uep (e : W64) : Nat := fld e 3 1

/-- What an endpoint sends a far source, by the Chart entry of the source's id (R160). -/
def sendFar (s : State) (isl op : Nat) (cause : Option Byte) (reply : Option (Nat × Nat × List Byte)) : State :=
  { s with eng.fab.ueOut := s.eng.fab.ueOut ++
      [{ isl := isl, ep := uep (s.chart isl (op / 65536)), to_ := op / 65536, op := op % 65536, cause := cause, reply := reply }] }

/-- The acknowledgement of an operation leaves its target (R144, R160, R400). -/
def sendAck (s : State) (isl op : Nat) (cause : Option Byte) : State :=
  let src := op / 65536
  if src = isl then s.pushAck { op := op, cause := cause }
  else if 32 ≤ src then s.sendFar isl op cause none
  else if s.usable isl src then
    s.sendBy isl (s.chart isl src) (bareFlit isl src 2 (if cause.isSome then 7 else 6) true true (op % 65536) cause.toList)
  else s.pushHm { op := op, cause := cause }

/-! Credits (R402): 32 for each destination and each of the request and data classes. -/

def creditKey (isl dst cls : Nat) : Nat := (isl * 20 + dst) * 2 + cls
def hasCredit (s : State) (isl dst cls : Nat) : Bool := s.eng.fab.credits.get 0 (creditKey isl dst cls) < 32
def takeCredit (s : State) (isl dst cls : Nat) : State :=
  { s with eng.fab.credits := s.eng.fab.credits.upd 0 (creditKey isl dst cls) (· + 1) }
/-- The destination has moved a flit into its arrival path. -/
def owedCredit (s : State) (src dst cls : Nat) : State :=
  { s with eng.fab.returns := s.eng.fab.returns.upd 0 (creditKey src dst cls) (· + 1) }

end State

/-- CREDIT_RETURN (R402): a credit the destination owes comes back to its source. -/
def execCreditReturn (isl dst cls : Nat) (s : State) : Out :=
  .next (
    let k := State.creditKey isl dst cls
    let n := s.eng.fab.returns.get 0 k
    if n = 0 then s
    else { s with eng.fab.returns := s.eng.fab.returns.put k (n - 1), eng.fab.credits := s.eng.fab.credits.upd 0 k (· - 1) })

end Sys2Proof.Machine
end

