-- ==== Sys2Proof/Machine/Remote.lean ====
section
/-! DEFINITION. Island operations: their issue, what happens at the source, and their arrival at the target (R28-R31, R131,
R141-R163, R303-R307). -/

namespace Sys2Proof.Machine

open Sys2Proof

/-- Bytes of an element of a RADD (R155). -/
def raddSize (rty : Nat) : Nat := match rty with | 0 => 4 | 3 => 16 | _ => 8

/-- Bytes an operation counts on its landing counter (R141). -/
def countedBytes (o : IslOp) : Nat :=
  match o.kind with | .radd => raddSize o.rty | .notify => 4 | _ => o.len

/-- The lowest number from `n` on that is free, within a bound. -/
def firstFree (p : Nat → Bool) : Nat → Nat → Nat
  | 0, n => n
  | fuel + 1, n => if p n then n else firstFree p fuel (n + 1)

namespace State

/-! Issue (R141, R142, R303-R305). -/

/-- An operation is saved in the image of a precinct that is swapped out: nothing of it happens until that comes back (R151, R380). -/
def opSaved (s : State) (op : Nat) : Bool := s.mgt.images.any fun m => (m.2.ops.find op).isSome

/-- Something of an operation with a tag of an island is still under way: the tag is not used again (DESIGN CHOICE, unsafe: log 116). -/
def tagInUse (s : State) (op : Nat) : Bool :=
  let on (f : Flit) : Bool := (flitOps f).contains op || f.dst.toNat * 65536 + f.optag.toNat = op
  (s.eng.ops.find op).isSome || s.opSaved op || (s.eng.acks ++ s.eng.hmacks).any (·.op = op) || s.eng.progs.any (fun p => p.1 % 2 ^ 40 = op)
    || s.eng.arrivals.any (fun a => (a.2.op :: a.2.cons).contains op)
    || s.eng.fab.ports.any fun p => p.2.wire.any on || p.2.reorder.any on || p.2.unacked.any (on ·.flit) || p.2.queue.any (on ·.2.2)

/-- A fresh tag of an island. -/
def freshTag (s : State) (isl : Nat) : Nat :=
  firstFree (fun t => !s.tagInUse (isl * 65536 + t % 65536)) 65536 (s.exe.ids % 65536) % 65536

/-- Operations in flight of a core, those of its Tender among them, or of a Pilot (R141, R329). -/
def opsOf (s : State) (pilot : Bool) (k : Nat) : Nat :=
  (s.eng.ops.filter fun o => o.2.pilot = pilot && (if pilot then o.2.crew / 4 else o.2.crew / 64) = k).length

/-- How many a core or a Pilot may have (R141). -/
def opsMax (pilot : Bool) : Nat := if pilot then 64 else 256

/-- An operation enters the source's table. -/
def addOp (s : State) (o : IslOp) : State :=
  let k := o.isl * 65536 + s.freshTag o.isl
  let s1 := { s with eng.ops := s.eng.ops.put k o, exe.ids := s.exe.ids + 1 }
  if o.pilot || o.req.isSome then s1
  else { s1 with exe.gangs := s1.exe.gangs.upd {} o.gang fun g => { g with engineOps := g.engineOps + 1 } }

/-- The fault that every participating lane takes, with the kind of address it reports: 0 ta, 1 the counter's, 2 la (R142). -/
def issueFault (s : State) (id : W32) (lc : W64) (len : Nat) (path : Nat) (ent : W32) : Option (Byte × Nat) :=
  if 4096 ≤ id.toNat || !s.usable s.isl id.toNat then some (6, 0)
  else match (if lc = 0 then none else match s.spTest s.me lc 16 16 with | .error c => some c | .ok _ => none) with
  | some c => some (c, 1)
  | none =>
    if 2 ^ 24 < len || (32 ≤ id.toNat && path ≠ 0 && (ent.toNat / 2 ^ 16 % 8 = 7 || 2 ^ 19 ≤ ent.toNat)) then some (2, 2) else none

/-- The local ranges of lanes resolved in turn (R142): faults, or not yet. -/
def localRanges (w : Who) (k : AKind) (len : Nat) : List (Nat × W64) → State → State × Option (List LFault)
  | [], s => (s, some [])
  | (L, a) :: r, s =>
    match s.resolveRange { w with acc := L } k L a len with
    | (s1, .park va) => (s1.parkHere va, none)
    | (s1, .busy) => (s1, none)
    | (s1, .fault c f p) =>
      (match localRanges w k len r s1 with
       | (s2, some fs) => (s2, some ({ lane := L, cause := c, addr := some f, fpte := some p } :: fs))
       | y => y)
    | (s1, .ok _ _) => localRanges w k len r s1

end State

/-- The value a lane contributes to a RADD (R155). -/
def contribution (x : EI) (s : State) (w : W64) (L : Nat) : Nat :=
  match x.sub.toNat / 4 % 4 with
  | 0 => (s.v32 w none x.a L).toNat
  | 1 => (s.v64 w none x.a L).toNat
  | 2 => ((s.v32 w none x.a L).signExtend 64).toNat
  | _ => (s.rdV64 (vnum x.a) L).toNat + (s.rdV64 (vnum x.a + 2) L).toNat * 2 ^ 64

/-- An island-operation instruction: one operation for each participating lane, all issued together (R141, R142, R305). -/
def issueOps (kind : OpKind) (x : EI) (s0 : State) : State :=
  let r := s0.walk [x.d, x.a]
  let s := r.2
  let w := r.1
  let parts := (s.mlanes x.guard).filter s.ordinary
  let b := match x.b with | .s k => k.toNat | _ => 0
  let id := s.rdS b
  let lc := s.rdS64 (b + 2)
  let moves : Bool := kind = .put || kind = .puts || kind = .get
  let len := if moves then (s.rdS (b + 1)).toNat else 0
  let rty := x.sub.toNat / 4 % 4
  let ta (L : Nat) : W64 := match kind with | .notify => 0 | .get => s.v64 w none x.a L | _ => s.v64 w none x.d L
  let la (L : Nat) : W64 := match kind with | .put | .puts => s.v64 w none x.a L | .get => s.v64 w none x.d L | _ => 0
  if parts.isEmpty then s.advance 1
  else match s.issueFault id lc len (x.sub.toNat / 16 % 4) (s.rdS (b + 4)) with
  | some (c, which) =>
    s.settle (parts.map fun L => { lane := L, cause := c, addr := some (match which with | 0 => ta L | 1 => lc | _ => la L) }) 1
  | none =>
    if s.parkWait then s.stall 7 .retry else
    let skew (L : Nat) : Bool := kind = .radd && (ta L).toNat % raddSize rty ≠ 0
    let badTa := (parts.filter skew).map fun L => ({ lane := L, cause := 3, addr := some (ta L) } : LFault)
    let rest := parts.filter fun L => !skew L
    match State.localRanges s.me (if kind = .get then .store else .load) len (if moves then rest.map fun L => (L, la L) else []) s with
    | (s1, none) => s1.stall 7 .retry
    | (s1, some fs) =>
      let s1 := s1.unpark
      let go := rest.filter fun L => fs.all (·.lane ≠ L)
      if State.opsMax s1.pilot < s1.opsOf s1.pilot (if s1.pilot then s1.cluster else s1.core) + go.length then s1.stall 7 .room
      else
        let at_ : Option Nat := if lc = 0 then none else match s1.spTest s1.me lc 16 16 with | .ok o => some (s1.spLoc s1.me o) | .error _ => none
        let s2 := go.foldl (fun s2 L => s2.addOp
          { isl := s1.isl, who := s1.cur, lane := L, crew := if s1.pilot then s1.tkey else s1.ckey, pilot := s1.pilot,
            owners := [s1.entry], gang := s1.gangKey, fork := s1.exe.ids + 1, kind := kind, spn := s1.spn,
            sup := s1.sup, dest := id.toNat, entry := if s1.pilot then s1.chart s1.isl id.toNat else s1.entryFor s1.isl s1.gangKey id.toNat, la := la L, ta := ta L, len := len,
            n := s1.rdS (b + 5), inc := s1.rdS (b + 6), rty := rty, value := if kind = .radd then contribution x s w L else 0,
            lc := at_, ent := if x.sub.toNat / 16 % 4 = 0 then 6 * 2 ^ 16 else (s1.rdS (b + 4)).toNat % 2 ^ 19,
            pin := x.sub.toNat / 16 % 4 = 2, rel := if kind = .notify && x.sub.getLsbD 6 then x.sub.toNat / 128 % 8 else 0,
            lastSeen := s1.clock }) s1
        (s2.twinRelease s1.me.id 4).settle (badTa ++ fs) 1

/-- PUT. -/
def execPut (x : EI) (s : State) : Out := .next (issueOps .put x s)
/-- PUTS. -/
def execPuts (x : EI) (s : State) : Out := .next (issueOps .puts x s)
/-- GET. -/
def execGet (x : EI) (s : State) : Out := .next (issueOps .get x s)
/-- RADD. -/
def execRadd (x : EI) (s : State) : Out := .next (issueOps .radd x s)
/-- NOTIFY. -/
def execNotify (x : EI) (s : State) : Out := .next (issueOps .notify x s)

/-! Notify counters (R152-R154, R306). -/

/-- A counter has reached a threshold (R154). -/
def reached (c t : W32) : Bool := !(c - t).getLsbD 31

def State.counter (s : State) (k : Nat) : W32 := s.eng.notify.get 0 k
/-- The counter of a precinct's relative index, by its key: island × 16384 + absolute number. -/
def State.counterKey (s : State) (p n : Nat) : Nat := p / 16 * 16384 + (s.precinct p).nbase + n

/-- WAITN (R154, R306). -/
def execWaitn (x : RI) (s0 : State) : Out :=
  .next (
    let r := s0.walk [x.a, x.b]
    let s := r.2
    let n := (s.u32 r.1 x.lit x.a).toNat
    let t := s.u32 r.1 x.lit x.b
    let k := s.counterKey s.myPrecinct n
    if !s.acts x.guard then s.advance (RI.len x)
    else if (s.precinct s.myPrecinct).ncount ≤ n then s.moorAll 2 none
    else if reached (s.counter k) t then (s.twinAcquire s.me.id (x.subN % 8)).advance (RI.len x)
    else s.stall 4 (.notify k t))

/-- TESTN (R154, R306). -/
def execTestn (x : RI) (s0 : State) : Out :=
  .next (
    let r := s0.walk [x.a, x.b]
    let s := r.2
    let n := (s.u32 r.1 x.lit x.a).toNat
    let yes := reached (s.counter (s.counterKey s.myPrecinct n)) (s.u32 r.1 x.lit x.b)
    if !s.acts x.guard then s.advance (RI.len x)
    else if (s.precinct s.myPrecinct).ncount ≤ n then s.moorAll 2 none
    else
      let s1 := if s.pilot then s.wrQ x.d yes else s.wrP x.d (s.act x.guard) fun _ => yes
      (if yes then s1.twinAcquire s1.me.id (x.subN % 8) else s1).advance (RI.len x))

/-- RFENCE: every island operation issued before has ended (R145, R307). -/
def execRfence (x : RI) (s : State) : Out :=
  .next (
    if !s.acts x.guard then s.advance 1
    else match s.takeErr fun _ => true with
    | some s1 => s1
    | none => if s.eng.ops.any fun o => s.mine o.2 then s.stall 5 .rfence else (s.twinAcquire s.me.id 4).advance 1)

namespace State

/-! Failures and ends (R144, R147-R150). -/

/-- `sys.rerr` and `sys.rerra` after a failure (R150, R164). -/
def noteRemote (u : Uni) (o : IslOp) (cause : Byte) (addr : W64) : Uni :=
  if u.rerr.getLsbD 63 then
    { u with rerr := BitVec.ofNat 64 (2 ^ 63 + min (fld u.rerr 32 16 + 1) 0xFFFF * 2 ^ 32 + fld u.rerr 0 32) }
  else
    { u with rerr := BitVec.ofNat 64 (2 ^ 63 + 2 ^ 32 + cause.toNat * 2 ^ 16 + kindCode o.kind * 2 ^ 12 + o.dest),
             rerra := addr &&& 0xFFFFFFFFFFFFF }

def failRemote (s : State) (o : IslOp) (cause : Byte) (addr : W64) : State :=
  if o.pilot then
    let t := s.exe.threads.get {} o.crew
    { s with exe.threads := s.exe.threads.put o.crew { t with uni := noteRemote t.uni o cause addr } }
  else
    let c := s.crewAt o.crew
    s.putCrew o.crew { c with uni := noteRemote c.uni o cause addr }

/-- The operation's bytes are counted on its landing counter, once (R147). -/
def countLocal (s : State) (k : Nat) (e : Nat) : State :=
  match s.eng.ops.find k with
  | none => s
  | some o =>
    if o.localDone then s
    else
      let s1 := { s with eng.ops := s.eng.ops.put k { o with localDone := true } }
      match o.lc with | some l => countOn s1 l (countedBytes o) e | none => s1

/-- The operation ends (R144). -/
def endOp (s : State) (k : Nat) : State :=
  match s.eng.ops.find k with
  | none => s
  | some o =>
    let s1 := { s with eng.ops := s.eng.ops.del k }
    let s2 := if o.pilot || o.req.isSome then s1
      else { s1 with exe.gangs := s1.exe.gangs.upd {} o.gang fun g => { g with engineOps := g.engineOps - 1 } }
    match o.req with
    | none => s2
    | some (core, id, _) =>
      { s2 with eng.tenders := s2.eng.tenders.put core ((s2.eng.tenders.get [] core).map fun q =>
          if q.id = id then { q with open_ := q.open_ - 1 } else q) }

/-! At the source (R131, R143, R147, R399, R402). -/

/-- Where an operation stands in program order. -/
def opSource (s : State) (o : IslOp) : Src :=
  if o.pilot then { ck := 2 ^ 40 + o.crew, os := o.owners, ak := o.isl * 144 + 128 + o.crew / 4 % 16 }
  else { ck := o.crew, os := o.owners, ak := agentKey (s.crewWho o.crew o.sup) }

/-- The scope of the release that its issue is: panel, or system for a far island, and that of NOTIFY.rel (R131, R135). -/
def forkScope (o : IslOp) : Nat := max (if 32 ≤ o.dest then 5 else 4) o.rel

/-- What came before the operation in its fragment has been performed (R131). A Tender reads a PUT's bytes itself. -/
def forked (s : State) (o : IslOp) : Bool := o.data.isSome || s.relDone (s.opSource o) (forkScope o) o.fork

/-- The maker of the operation's local accesses: its source is translated in the cluster's TLB, a GET's landings in the arrival TLB (R68). -/
def opWho (s : State) (o : IslOp) : Who :=
  let w : Who :=
    if o.pilot then { isl := o.isl, tlb := 0, spn := o.spn, sup := o.sup, id := 2 ^ 40 + o.crew, wid := 4 * (s.exe.threads.get {} o.crew).uid + 1 }
    else { s.crewWho o.crew o.sup with spn := o.spn, gang := some o.gang, agent := none }
  { w with tlb := tlbOfOp o, acc := o.lane }

def opDescr (o : IslOp) : Desc :=
  { ta := o.ta, len := BitVec.ofNat 32 o.len, spn := BitVec.ofNat 12 o.spn, sup := o.sup, kind := o.kind, rty := BitVec.ofNat 2 o.rty,
    n := o.n, inc := o.inc, emask := 0, ncon := 0 }

/-- The next piece an operation sends: its length, and whether it is the last. A GET asks for 8 KiB with each flit, for 4,096 bytes with each
packet (R399, R402, R411). -/
def nextPiece (o : IslOp) : Nat × Bool :=
  let most := match o.kind with
    | .radd | .notify => 0
    | .get => if 32 ≤ o.dest then 4096 else 8192
    | _ => if 32 ≤ o.dest then 4096 else if o.begun then 256 else 224
  let n := min most (o.len - o.sent)
  (n, o.len ≤ o.sent + n)

/-- The class of an operation's flits (R398, R401), and their type. -/
def opClass (k : OpKind) : Nat := match k with | .get => 0 | .notify => 2 | _ => 1
def opType (k : OpKind) : Nat := match k with | .put => 0 | .puts => 1 | .get => 2 | .radd => 4 | .notify => 5

/-- A credit stands ready for the operation's next flit. -/
def creditReady (s : State) (o : IslOp) : Bool :=
  o.dest = o.isl || 32 ≤ o.dest || o.kind = .notify || s.hasCredit o.isl o.dest (opClass o.kind)

/-- Credits of pieces go back to their sources. -/
def giveCredits (s : State) (isl : Nat) (credit : Option Nat) (ops : List Nat) : State :=
  match credit with
  | some c => ops.foldl (fun s o => s.owedCredit (o / 65536) isl c) s
  | none => s

end State

/-! Bytes that come in pieces are written by whole lines of their destination, each as soon as all of it is there: so every 16-byte unit, and
every line that an operation covers wholly, is written at once (R58, R143, R146). -/

/-- The bytes that end at `ofs` among those kept, and those that begin there. -/
def keptBefore (es : List (Nat × List Byte)) (ofs : Nat) : Option (Nat × List Byte) := es.find? fun e => e.1 + e.2.length = ofs
def keptAfter (es : List (Nat × List Byte)) (ofs : Nat) : Option (Nat × List Byte) := es.find? fun e => e.1 = ofs && !e.2.isEmpty

/-- A piece at an offset joined with the bytes kept beside it: the offset and bytes that may be written now, and what is kept. -/
def cutLines (base len : Nat) (es : List (Nat × List Byte)) (ofs : Nat) (bs : List Byte) : Nat × List Byte × List (Nat × List Byte) :=
  if bs.isEmpty then (ofs, [], es)
  else
    let l := keptBefore es ofs
    let r := keptAfter es (ofs + bs.length)
    let rest := es.filter fun e => some e ≠ l && some e ≠ r
    let lo := match l with | some e => e.1 | none => ofs
    let all := (match l with | some e => e.2 | none => []) ++ bs ++ (match r with | some e => e.2 | none => [])
    let hi := lo + all.length
    let a := if lo = 0 then lo else min hi (lo + (128 - (base + lo) % 128) % 128)
    let b := if hi = len then hi else max a (hi - (base + hi) % 128)
    let keep (x : Nat) (ys : List Byte) : List (Nat × List Byte) := if ys.isEmpty then [] else [(x, ys)]
    if b ≤ a then (lo, [], rest ++ [(lo, all)])
    else (a, (all.drop (a - lo)).take (b - a), rest ++ keep lo (all.take (a - lo)) ++ keep b (all.drop (b - lo)))

namespace State

/-- The operation fails when its first flit arrives, before any byte is placed: no context, or a counter that its precinct does not have
(R30, R148). -/
def refusedAtOnce (s : State) (isl : Nat) (d : Desc) : Bool :=
  let c := s.ctx isl d.spn.toNat
  !c.live || ((d.kind = .puts || d.kind = .notify) && (s.precinct c.precinct).ncount ≤ d.n.toNat)

/-- A piece comes to its target (R144, R148, R158, R399): the first brings the descriptor; a piece without one, one of an operation that has
failed, and one after a flit that was lost are discarded. -/
def receive (s : State) (isl op : Nat) (first last : Bool) (d : Option Desc) (data : List Byte) (credit : Option Nat) (cons : List Nat) :
    State :=
  let k := isl * 2 ^ 40 + op
  let ops := if cons.isEmpty then [op] else cons
  if ops.any s.isLost then s.giveCredits isl credit ops
  else match (if first then d.map fun x => ({ desc := x } : Prog) else s.eng.progs.find k) with
  | none => s.giveCredits isl credit ops
  | some p =>
    if p.failed then
      { s with eng.progs := if last then s.eng.progs.del k else s.eng.progs.put k { p with lastSeen := s.clock } }.giveCredits isl credit ops
    else if first && s.refusedAtOnce isl p.desc then
      ops.foldl (fun s o => s.sendAck isl o (some 2))
        ({ s with eng.progs := if last then s.eng.progs else s.eng.progs.put k { p with failed := true, lastSeen := s.clock } }.giveCredits isl credit ops)
    else
      let n := if p.desc.kind = .get then min 8192 (p.desc.len.toNat - p.rx) else data.length
      let moves : Bool := p.desc.kind = .put || p.desc.kind = .puts
      let q := if moves then cutLines p.desc.ta.toNat p.desc.len.toNat p.edges p.rx data else (p.rx, data, p.edges)
      let a : Arr := { isl := isl, src := op / 65536, op := op, desc := p.desc, ofs := q.1, len := if moves then q.2.1.length else n,
                       data := q.2.1, last := last, credit := credit, cons := cons }
      { s with eng.progs := s.eng.progs.put k { p with rx := p.rx + n, edges := q.2.2, lastRx := last, lastSeen := s.clock },
               eng.arrivals := s.eng.arrivals.put (s.exe.ids + 1) a, exe.ids := s.exe.ids + 1 }

/-- The entropy of packet `k` of an operation (R161). -/
def entropy (o : IslOp) (k : Nat) : Nat :=
  let e := o.ent % 2 ^ 16
  if o.pin then e else (e + k % 2 ^ (o.ent / 2 ^ 16)) % 2 ^ 16

/-- A piece leaves its source: within the island (R31), as a flit, or as a packet of the Ultra Ethernet endpoint that the Chart entry names,
which keeps it (R160, R161, R411). -/
def emit (s : State) (k : Nat) (o : IslOp) (last : Bool) (data : List Byte) : State :=
  if o.dest = o.isl then s.receive o.isl k (!o.begun) last (some (opDescr o)) data none []
  else if 32 ≤ o.dest then
    let n := o.sent / 4096
    { s with eng.ops := s.eng.ops.put k { o with packets := o.packets ++
        [{ k := n, ent := entropy o n, ep := uep o.entry, payload := data, first := s.clock }] } }
  else
    let f := bareFlit o.isl o.dest (opClass o.kind) (opType o.kind) (!o.begun) last (k % 65536)
      ((if o.begun then [] else descBytes (opDescr o)) ++ data)
    (if o.kind = .notify then s else s.takeCredit o.isl o.dest (opClass o.kind)).sendBy o.isl o.entry f

/-- The bytes of the next piece, read where the source stands now. -/
inductive SrcRes
  | ok (s : State) (bs : List Byte)
  | wait (s : State)
  | fault (s : State) (c : Byte)

/-- The operation's local access is parked, behind those that its TLB parked before (R78). -/
def parkOp (s : State) (k : Nat) (o : IslOp) (va : Nat) : State :=
  { s with eng.ops := s.eng.ops.put k { o with parked := some (s.exe.ids + 1, va) }, exe.ids := s.exe.ids + 1 }

/-- A parked local access may not be translated again yet: it is not released (R78), or its precinct does not run (R380). -/
def opHeld (s : State) (o : IslOp) : Bool :=
  let st := (s.precinct (s.ctx o.isl o.spn).precinct).state
  match o.parked with
  | some p => !s.mayReplay o.isl (tlbOfOp o) (p.1, o.spn, p.2) || !(st = .running || st = .halting)
  | none => false

/-- Errors in source bytes are counted at the core that reads them (R57, R59). -/
def countSource (s : State) (o : IslOp) (k n : Nat) : State := if o.pilot then s else s.countErrs (s.crewWho o.crew o.sup) k n

/-- The source bytes of the next piece: an uncorrectable line is not sent, to an island of the module or to an endpoint (R59, R148). -/
def readSource (s : State) (k : Nat) (o : IslOp) (n : Nat) : SrcRes :=
  match o.data with
  | some d => .ok s ((d.drop o.sent).take n)
  | none =>
    match o.kind with
    | .radd => .ok s (byteList (raddSize o.rty) o.value)
    | .notify | .get => .ok s []
    | _ =>
      if s.opHeld o then .wait s
      else match s.resolveRange (s.opWho o) .load o.lane (o.la + BitVec.ofNat 64 o.sent) n with
      | (s1, .ok ls ca) =>
        if s1.badPieces ls then .fault (s1.countSource o 1 1) 4
        else match s1.gatherPieces o.isl ca false ls with
          | (s2, true) => .ok (s2.countSource o 0 ((ls.map fun p => s2.softIn p.1 p.2).sum)) (s2.readPieces ls)
          | (s2, false) => .wait s2
      | (s1, .fault c _ _) => .fault s1 (if c = 7 then 2 else c)
      | (s1, .park va) => .wait (s1.parkOp k o va)
      | (s1, _) => .wait s1

/-- The operation still has something to send. -/
def unsent (o : IslOp) : Bool := !o.lost && (!o.begun || o.sent < o.len)

/-- A failure before local completion is an error on the landing counter: of reading the source, and of a GET at its target or on the way (R147). -/
def lateErr (o : IslOp) : Nat := if o.kind = .get then 1 else 0

end State

/-- ISLAND_OP_LOCAL_COMPLETE (R147): the operation reads and sends its next piece; with the last of a PUT, PUTS, RADD or
NOTIFY, local completion counts its bytes. -/
def execIslandOpLocalComplete (k : Nat) (s : State) : Out :=
  .next (
    match s.eng.ops.find k with
    | none => s
    | some o =>
      if !State.unsent o || !s.forked o || !s.creditReady o then s
      else
        let (n, last) := State.nextPiece o
        match s.readSource k o n with
        | .wait s1 => s1
        | .fault s1 c => (((s1.countLocal k 1).failRemote o c o.la).endOp k)
        | .ok s1 bs =>
          let s2 := s1.emit k o last bs
          match s2.eng.ops.find k with
          | none => s2
          | some p =>
            let s3 := { s2 with eng.ops := s2.eng.ops.put k { p with begun := true, sent := o.sent + n, lastSeen := s.clock, parked := none } }
            if last && o.kind ≠ .get then s3.countLocal k 0 else s3)

namespace State

/-! At the target (R28, R30, R143, R146, R148, R153, R156, R158, R159). -/

/-- The maker of an operation's accesses at its target. -/
def arrWho (a : Arr) : Who := { isl := a.isl, tlb := 16, spn := a.desc.spn.toNat, sup := a.desc.sup, id := 2 ^ 42 }

/-- A piece is done with: its credit goes back. -/
def dropArr (s : State) (n : Nat) (a : Arr) : State :=
  { s with eng.arrivals := s.eng.arrivals.del n }.giveCredits a.isl a.credit (if a.cons.isEmpty then [a.op] else a.cons)

/-- The operations a piece answers for. -/
def ackOps (a : Arr) : List Nat := if a.cons.isEmpty then [a.op] else a.cons

/-- The operation fails at its target (R148). -/
def failArr (s : State) (n : Nat) (a : Arr) (c : Byte) : State :=
  let k := a.isl * 2 ^ 40 + a.op
  let s1 := s.dropArr n a
  let s2 := match s1.eng.progs.find k with
    | some p => { s1 with eng.progs := if p.mid.isSome then s1.eng.progs.put k { p with ended := true }
                                       else if p.lastRx then s1.eng.progs.del k else s1.eng.progs.put k { p with failed := true } }
    | none => s1
  let s3 := (s2.eng.arrivals.filter fun b => b.2.isl = a.isl && b.2.op = a.op).foldl (fun s b => s.dropArr b.1 b.2) s2
  (ackOps a).foldl (fun s o => s.sendAck a.isl o (some c)) s3

/-- Every byte of the operation has come (R144, R149, R162). -/
def whole (p : Prog) : Bool :=
  p.lastRx && (!(p.desc.kind = .put || p.desc.kind = .puts) || p.rx = p.desc.len.toNat)

/-- The tags of the writes of an operation at its target, and of the landing of a GET, that the host is to complete (R144). -/
def ownArr (isl op : Nat) : Nat := 4 * (isl * 2 ^ 40 + op) + 1
def ownLand (op : Nat) : Nat := 4 * op + 2

/-- Writes of uncached host memory are acknowledged where the host has completed them, for a far island at system scope; the bridge's acceptance is
enough at panel scope (R113, R144, R160). -/
def arrOwes (s : State) (a : Arr) : Bool := a.far && s.hostOwes (ownArr a.isl a.op)

/-- A piece has been performed; with the last one the operation is complete: its increment, its acknowledgement. The operation's number stays with a
far one, whose packets may come again (R162). -/
def doneArr (s : State) (n : Nat) (a : Arr) : State :=
  let k := a.isl * 2 ^ 40 + a.op
  if s.arrOwes a then { s with eng.arrivals := s.eng.arrivals.put n { a with done := true, res := none, parked := none } } else
  let s1 := s.dropArr n a
  match s1.eng.progs.find k with
  | none => s1
  | some p =>
    if !whole p || s1.eng.arrivals.any fun b => b.2.isl = a.isl && b.2.op = a.op then s1
    else
      let s2 := { s1 with eng.progs := if p.mid.isSome then s1.eng.progs.put k { p with ended := true } else s1.eng.progs.del k }
      let key := s2.counterKey (s2.ctx a.isl a.desc.spn.toNat).precinct a.desc.n.toNat
      let s3 := if a.desc.kind = .puts || a.desc.kind = .notify then { s2 with eng.notify := s2.eng.notify.upd 0 key (· + a.desc.inc) } else s2
      if a.desc.kind = .get then s3 else (ackOps a).foldl (fun s o => s.sendAck a.isl o none) s3

/-- The replies to a piece of a GET, 256 bytes at a time, or one packet with the entropy of its request (R144, R161, R394, R399, R402). -/
def replyGo (a : Arr) : Nat → State → Nat → List Byte → State
  | 0, s, _, _ => s
  | fuel + 1, s, ofs, bs =>
    let now := bs.take 256
    let rest := bs.drop 256
    let last : Bool := a.last && rest.isEmpty
    let src := a.op / 65536
    let k := a.isl * 2 ^ 40 + a.op
    if 32 ≤ src then s.sendFar a.isl a.op none (some (ofs / 4096, a.ent, bs))
    else
      let s1 : State :=
        if src = a.isl then s.pushAck { op := a.op, cause := none, reply := some (ofs, now, last) }
        else
          let e := match s.eng.progs.find k with | some p => p.entry.getD (s.chart a.isl src) | none => s.chart a.isl src
          let s0 := match s.eng.progs.find k with | some p => { s with eng.progs := s.eng.progs.put k { p with entry := some e } } | none => s
          if fld e 0 2 = 3 then s0.sendBy a.isl e (bareFlit a.isl src 1 3 (ofs = 0) last (a.op % 65536) now)
          else (s0.loseOp a.op).pushHm { op := a.op, cause := some 6 }
      if rest.isEmpty then s1 else replyGo a fuel s1 (ofs + 256) rest

/-- The offsets of the elements a RADD adds to, with the values (R155, R399). -/
def raddParts (a : Arr) : List (Nat × Nat) :=
  if a.cons.isEmpty then [(0, natOf a.data)]
  else ((List.range 8).filter (a.desc.emask.getLsbD ·)).map fun i => (16 * i, natOf ((a.data.drop (16 * i)).take 16))

/-- The cluster of the island that an arrival reaches through XSP or XCM; the null guard lies in no aperture (R18, R22). -/
def arrCluster (s : State) (a : Arr) : Option Nat :=
  let va := a.desc.ta.toNat + a.ofs
  if a.desc.kind = .notify || va < 0x10000 then none
  else match s.apHit (arrWho a) va [0, 1, 2, 3, 4, 5] with
    | some (4, base) => some (a.isl * 16 + (va - base) / 2 ^ 18 / 8)
    | some (5, base) => some (a.isl * 16 + (va - base) / 2 ^ 19)
    | _ => none

/-- An arrival is held: a debug halt stands, or it reaches an on-chip aperture whose core or cluster its context's precinct owns while that is
swapped out (R158). -/
def arrHeld (s : State) (a : Arr) : Bool :=
  let pr := (s.ctx a.isl a.desc.spn.toNat).precinct
  let out : Bool := (s.precinct pr).state = .swapped || (s.precinct pr).state = .exchanging
  s.mgt.dhalt.get false a.isl || (out && (s.arrCluster a).any (s.holdsCluster pr ·))

/-- The 512 entries of an island's arrival path for arrivals that are parked or held are taken (R79, R158). -/
def arrFull (s : State) (isl : Nat) : Bool :=
  512 ≤ (s.eng.arrivals.filter fun a => a.2.isl = isl && (a.2.held || a.2.parked.isSome)).length

/-- The range a piece touches at its target: offset and length. A GET reads 16-byte units whole (R146); a combined RADD its line. -/
def arrRange (a : Arr) : Nat × Nat :=
  let ta := a.desc.ta.toNat
  match a.desc.kind with
  | .get =>
    let lo := a.ofs - min a.ofs ((ta + a.ofs) % 16)
    let end_ := a.ofs + a.len
    (lo, min (max end_ a.desc.len.toNat) (end_ + (16 - (ta + end_) % 16) % 16) - lo)
  | .radd => (0, if a.cons.isEmpty then raddSize a.desc.rty.toNat else 128)
  | .notify => (0, 0)
  | _ => (a.ofs, a.len)

def arrKind (k : OpKind) : AKind := match k with | .get => .remoteRead | .radd => .remoteAdd | _ => .remoteWrite

/-- The storage that a piece has resolved to, or what becomes of it: a resolved translation stays until the piece is performed (R73, R76). -/
def resolveArr (s : State) (a : Arr) : State × LRes :=
  match a.res with
  | some r => (s, .ok r.1 r.2)
  | none =>
    let w := arrWho a
    let q := arrRange a
    if a.desc.kind = .radd then
      match s.laneAccess w 0 a.desc.ta (if a.cons.isEmpty then q.2 else 16) .remoteAdd false with
      | (s1, .ok ((l, _) :: _) ca) => (s1, .ok [(l, q.2)] ca)
      | r => r
    else s.resolveRange w (arrKind a.desc.kind) 0 (a.desc.ta + BitVec.ofNat 64 q.1) q.2

/-- Lines of global memory that pieces touch; a write of uncached host memory goes to the host. -/
def linesOfPieces (isl ca : Nat) (ls : List (Nat × Nat)) : List Nat :=
  ((ls.filter fun p => isGlobal p.1 && !(isHost p.1 && ca = 3)).flatMap fun p => linesOfRange isl p.1 p.2).eraseDups

/-- Lines that are to be written at the L2 are made resident there and marked dirty, a step at a time (R49, R51, R53); those of an uncached page are
never allocated (R50). -/
def residentPieces (s : State) (isl ca hint : Nat) (ways : BitVec 16) (ls : List (Nat × Nat)) : State × Bool :=
  (if ca = 3 then [] else linesOfPieces isl ca ls).foldl (fun r lk => let t := r.1.fillL2 lk hint ways {}; (t.1, r.2 && t.2)) (s, true)

def dirtyPieces (s : State) (isl ca : Nat) (ls : List (Nat × Nat)) : State :=
  (linesOfPieces isl ca ls).foldl (fun s lk => let x := s.line lk; if x.inL2 then s.setLine lk { x with l2dirty := true } else s) s

/-- Pieces ready to be written at their homes: resident in the L2, every copy gathered. -/
def readyToWrite (s : State) (isl ca hint : Nat) (ways : BitVec 16) (ls : List (Nat × Nat)) : State × Bool :=
  match s.residentPieces isl ca hint ways ls with
  | (s1, false) => (s1, false)
  | (s1, true) => s1.gatherPieces isl ca true ls

/-- Writes that a page of uncached host memory takes are the host's to complete (R106, R113); `own` is the operation that makes them. -/
def writeAt (s : State) (w : Who) (ca own : Nat) (ls : List (Nat × Nat)) (bs : List Byte) : State :=
  ((s.writePieces ls bs).dirtyPieces w.isl ca ls).hostWrites w ca (s.exe.ids + 1) own ls

/-- Bytes read at an offset with the 16-byte units that the operation has read before put in their place (R146). -/
def overlay (lo : Nat) (bs : List Byte) : List (Nat × List Byte) → List Byte
  | [] => bs
  | (p, u) :: r =>
    let o := overlay lo bs r
    if lo ≤ p && p + u.length ≤ lo + o.length then o.take (p - lo) ++ u ++ o.drop (p - lo + u.length) else o

/-- The units at the two ends of a piece of a GET that its neighbours share. -/
def sharedUnits (a : Arr) (lo : Nat) (bs : List Byte) : List (Nat × List Byte) :=
  let ta := a.desc.ta.toNat
  let end_ := a.ofs + a.len
  (if lo < a.ofs then [(lo, bs.take (16 - (ta + lo) % 16))] else [])
    ++ if end_ < lo + bs.length then
        let u := end_ - min end_ ((ta + end_) % 16)
        let v := max lo u
        [(v, bs.drop (v - lo))]
      else []

/-- A reply of a GET waits for the pieces before it, which travel by one route (R401). -/
def inTurn (s : State) (a : Arr) : Bool :=
  a.desc.kind ≠ .get || a.far || !(s.eng.arrivals.any fun b => b.2.isl = a.isl && b.2.op = a.op && b.2.ofs < a.ofs)

/-- A piece whose storage is known is performed, fails, or waits for its lines. -/
def landArr (s : State) (n : Nat) (a : Arr) (ls : List (Nat × Nat)) (ca : Nat) : State :=
  let w := arrWho a
  match a.desc.kind with
  | .notify => s.doneArr n a
  | .put | .puts =>
    match s.readyToWrite a.isl ca (effHint ca 0) 0xFFFF ls with
    | (s1, true) => (s1.writeAt w ca (ownArr a.isl a.op) ls a.data).doneArr n a
    | (s1, false) => s1.holdLines (.arr n) (linesOfPieces a.isl ca ls)
  | .get =>
    if s.badPieces ls then s.failArr n a 4
    else match s.gatherPieces a.isl ca false ls with
      | (s1, true) =>
        let k := a.isl * 2 ^ 40 + a.op
        let lo := (arrRange a).1
        let us := match s1.eng.progs.find k with | some p => p.units | none => []
        let bs := overlay lo (s1.readPieces ls) us
        let s2 := match s1.eng.progs.find k with
          | some p => { s1 with eng.progs := s1.eng.progs.put k { p with units := p.units ++ sharedUnits a lo bs } }
          | none => s1
        (replyGo a (a.len / 256 + 1) s2 a.ofs ((bs.drop (a.ofs - lo)).take a.len)).doneArr n a
      | (s1, false) => s1.holdLines (.arr n) (linesOfPieces a.isl ca ls)
  | .radd =>
    if s.badPieces ls then s.failArr n a 4
    else match s.readyToWrite a.isl ca (effHint ca 0) 0xFFFF ls with
      | (s1, true) =>
        let size := raddSize a.desc.rty.toNat
        let l := match ls with | p :: _ => p.1 | [] => 0
        let m := (raddParts a).foldl (fun m p =>
          Memory.writeN m (l + p.1) (Memory.readN m (l + p.1) size + p.2) size) s1.mem
        (({ s1 with mem := m }.dirtyPieces a.isl ca ls).hostWrites w ca (s1.exe.ids + 1) (ownArr a.isl a.op) ls).doneArr n a
      | (s1, false) => s1.holdLines (.arr n) (linesOfPieces a.isl ca ls)

/-- A piece is resolved and performed, fails, or stays where it is (parked, or waiting for its lines). -/
def performArr (s : State) (n : Nat) (a : Arr) : State :=
  let c := s.ctx a.isl a.desc.spn.toNat
  let keep (s : State) (b : Arr) : State := { s with eng.arrivals := s.eng.arrivals.put n b }
  let wait : Bool := match a.parked with
    | some p => !s.mayReplay a.isl 16 (p.1, a.desc.spn.toNat, p.2)
    | none => s.arrFull a.isl
  if !c.live then s.failArr n a 2
  else if wait || !s.inTurn a then s
  else match s.resolveArr a with
  | (s1, .ok ls ca) =>
    let b := { a with res := some (ls, ca), parked := none }
    (keep s1 b).landArr n b ls ca
  | (s1, .fault f _ _) => s1.failArr n a f
  | (s1, .park va) => { keep s1 { a with parked := some (s1.exe.ids + 1, va) } with exe.ids := s1.exe.ids + 1 }
  | (s1, .busy) => s1

/-- An arrival goes on, unless it is held; one that must be is held (R158). -/
def tryArr (s : State) (n : Nat) : State :=
  match s.eng.arrivals.find n with
  | none => s
  | some a =>
    if a.held then s
    else if a.done then s.doneArr n a
    else if s.arrHeld a then
      (if a.parked.isNone && s.arrFull a.isl then s else { s with eng.arrivals := s.eng.arrivals.put n { a with held := true } })
    else s.performArr n a

end State

/-- ISLAND_OP_ARRIVAL (R158): an arrival is resolved and performed, parked, held, or fails. -/
def execIslandOpArrival (isl n : Nat) (s : State) : Out :=
  .next (
    match s.eng.arrivals.find n with
    | none => s
    | some a => if a.isl = isl then s.tryArr n else s)

/-- HELD_ARRIVAL_PLACE (R158): a held arrival is placed when its precinct is resident and no debug halt stands. -/
def execHeldArrivalPlace (isl n : Nat) (s : State) : Out :=
  .next (
    match s.eng.arrivals.find n with
    | none => s
    | some a =>
      if a.isl ≠ isl || !a.held || s.arrHeld a then s
      else { s with eng.arrivals := s.eng.arrivals.put n { a with held := false } }.performArr n { a with held := false })

/-- OPERATION_TIMEOUT (R400): a target forgets an operation of the module that has received no flit for 1 ms; `n` is the operation. -/
def execOperationTimeout (isl n : Nat) (s : State) : Out :=
  .next (
    let k := isl * 2 ^ 40 + n
    match s.eng.progs.find k with
    | none => s
    | some p =>
      if p.lastRx || p.mid.isSome || s.clock < p.lastSeen + 2000000 then s
      else
        let s1 := (s.eng.arrivals.filter fun b => b.2.isl = isl && b.2.op = n).foldl (fun s b => s.dropArr b.1 b.2) s
        { s1 with eng.progs := s1.eng.progs.del k })

/-! Acknowledgements and replies at the source (R144, R147, R150). -/

namespace State

/-- The first acknowledgement of the kind asked for, taken from those that have reached the source. -/
def takeAck (s : State) (p : Ack → Bool) : Option State :=
  let now (a : Ack) : Bool := p a && !s.opSaved a.op
  match s.eng.acks.find? now with
  | some a => some { s with eng.acks := s.eng.acks.erase a }
  | none => (s.eng.hmacks.find? now).map fun a => { s with eng.hmacks := s.eng.hmacks.erase a }

/-- An answer for an operation: one that has reached its source, or one from outside the module for a far operation. -/
def answered (s : State) (op : Nat) (p : Ack → Bool) : Option State :=
  match s.takeAck p with
  | some s1 => some s1
  | none => match s.eng.ops.find op with
    | some o => if 32 ≤ o.dest then some s else none
    | none => none

end State

/-- POSITIVE_ACKNOWLEDGEMENT (R144): the operation ends. -/
def execPositiveAcknowledgement (op : Nat) (s : State) : Out :=
  .next (
    match s.answered op fun a => a.op = op && a.cause.isNone && a.reply.isNone with
    | some s1 => (s1.countLocal op 0).endOp op
    | none => s)

/-- NEGATIVE_ACKNOWLEDGEMENT (R147-R150): the operation fails and ends. -/
def execNegativeAcknowledgement (op : Nat) (cause : Byte) (s : State) : Out :=
  .next (
    match s.answered op fun a => a.op = op && a.cause = some cause with
    | none => s
    | some s1 =>
      match s1.eng.ops.find op with
      | none => s1
      | some o => ((s1.countLocal op (State.lateErr o)).failRemote o cause o.ta).endOp op)

namespace State

/-- A reply that has reached its source, or comes now from outside the module for a far GET, each packet once (R162). -/
def replyHere (s : State) (op ofs : Nat) (data : List Byte) (last : Bool) : State × Bool :=
  let a : Ack := { op := op, cause := none, reply := some (ofs, data, last) }
  if s.opSaved op then (s, false)
  else if s.eng.acks.contains a then (s, true)
  else match s.eng.ops.find op with
    | some o =>
      if 32 ≤ o.dest && o.kind = .get && !o.seen.contains ofs then
        ({ s.pushAck a with eng.ops := s.eng.ops.put op { o with seen := o.seen ++ [ofs] } }, true)
      else (s, false)
    | none => (s, false)

/-- The bytes of a reply placed: with those kept, whole lines of the landing range at a time (R143). None while they cannot be. -/
def landReply (s : State) (op : Nat) (o : IslOp) (ofs : Nat) (data : List Byte) : State × Option (Except Byte Unit) :=
  let q := cutLines o.la.toNat o.len o.edges ofs data
  let n := data.length
  let took (s : State) : State :=
    { s with eng.ops := s.eng.ops.upd o op fun p => { p with got := o.got + n, edges := q.2.2, res := none, parked := none, lastSeen := s.clock } }
  if q.2.1.isEmpty then (took s, some (.ok ()))
  else if s.opHeld o then (s, none)
  else
    let w := s.opWho o
    let r : State × LRes := match o.res with
      | some (x, ls, ca) => if x = q.1 then (s, .ok ls ca) else s.resolveRange w .store o.lane (o.la + BitVec.ofNat 64 q.1) q.2.1.length
      | none => s.resolveRange w .store o.lane (o.la + BitVec.ofNat 64 q.1) q.2.1.length
    match r with
    | (s1, .ok ls ca) =>
      let s2 := { s1 with eng.ops := s1.eng.ops.put op { o with res := some (q.1, ls, ca), parked := none } }
      (match s2.readyToWrite o.isl ca (effHint ca 0) 0xFFFF ls with
       | (s3, true) => (took (s3.writeAt w ca (ownLand op) ls q.2.1), some (.ok ()))
       | (s3, false) => (s3.holdLines (.land op ofs) (linesOfPieces o.isl ca ls), none))
    | (s1, .fault c _ _) => (s1, some (.error (if c = 7 then 2 else c)))
    | (s1, .park va) => (s1.parkOp op o va, none)
    | (s1, .busy) => (s1, none)

/-- A reply of a GET that has come: its bytes are written, and the last of them ends the GET: that of a far GET when the host has completed what it
wrote of uncached host memory (R113, R132). A landing page that is lost after issue fails
the GET with the cause that its translation gives, as a failure in reading its local side (DESIGN CHOICE, unsafe: log 117). -/
def getReply (s : State) (op ofs : Nat) (data : List Byte) (last : Bool) : State :=
  match s.replyHere op ofs data last with
  | (s1, false) => s1
  | (s1, true) =>
    let a : Ack := { op := op, cause := none, reply := some (ofs, data, last) }
    let taken (s : State) : State := { s with eng.acks := s.eng.acks.erase a }
    match s1.eng.ops.find op with
    | none => taken s1
    | some o =>
      let landed (s : State) : State := if 32 ≤ o.dest && s.hostOwes (ownLand op) then s else ((taken s).countLocal op 0).endOp op
      if o.lost then taken s1
      else if o.len ≤ o.got then landed s1
      else match s1.landReply op o ofs data with
      | (s2, none) => s2
      | (s2, some (.error c)) => (((taken s2).countLocal op 1).failRemote o c o.la).endOp op
      | (s2, some (.ok _)) => if o.len ≤ o.got + data.length then landed s2 else taken s2

end State

/-- GET_REPLY (R144). -/
def execGetReply (op ofs : Nat) (data : List Byte) (last : Bool) (s : State) : Out := .next (s.getReply op ofs data last)

end Sys2Proof.Machine
end

