-- ==== Sys2Proof/Machine/Fabric.lean ====
section
/-! DEFINITION. The panel fabric and the Ultra Ethernet endpoints: receiving flits, links, the Chart, steering, colours,
circuits (R392-R412). -/

namespace Sys2Proof.Machine

open Sys2Proof

namespace State

/-! Colours (R393, R403, R408, R412). -/

def colour (s : State) (isl c : Nat) : Colour := s.eng.fab.colours.get {} (isl * 256 + c)
def setColour (s : State) (isl c : Nat) (x : Colour) : State := { s with eng.fab.colours := s.eng.fab.colours.put (isl * 256 + c) x }
/-- A colour that carries no alarm, nor awaits its recovery. -/
def working (s : State) (isl c : Nat) : Bool := let x := s.colour isl c; !x.fault && x.cleared.isNone
def workingColours (s : State) (isl : Nat) : List Nat := (List.range 256).filter (s.working isl)
/-- The colours a port holds (WL of R412). -/
def coloursOf (s : State) (isl p : Nat) : List Nat := (List.range 256).filter fun c => (s.colour isl c).port = p
def wl (s : State) (isl p : Nat) : Nat := (s.coloursOf isl p).length
/-- The ports of an island whose links are up. -/
def linkedPorts (s : State) (isl : Nat) : List Nat := (List.range 4).filter (s.linkUp isl)
/-- A colour held by a floor or a reservation: the highest FLOOR + RES of its port's. -/
def pinned (s : State) (isl c : Nat) : Bool :=
  let p := (s.colour isl c).port
  p < 4 && ((s.coloursOf isl p).filter (c ≤ ·)).length ≤ (s.port isl p).floor + (s.port isl p).res
/-- A colour is assigned to the ingress of an island's port by the far side of its link. -/
def ingress (s : State) (isl c : Nat) : Bool :=
  (List.range 4).any fun p => match s.neighbour isl p with
    | some j => (s.colour j c).port = opposite p && s.linkUp j (opposite p)
    | none => false

/-- The measured phase error of a colour, in units of 0.1°: that of its alarm, else within the ±2° that its controller holds (R407). The value is
free (DESIGN CHOICE, safe: log 140). -/
def phaseError (s : State) (isl c : Nat) : BitVec 8 :=
  let x := s.colour isl c
  if x.alarm then x.phase else BitVec.ofInt 8 ((Config.freeChoice (s.choices + 256 * s.clock + c) % 41 : Nat) - 20)

/-- Colours given out in turn: `n` to each port, one more to the first `extra`, at most 160 (R403). -/
def dealColours (isl n : Nat) : List Nat → Nat → List Nat → State → State
  | [], _, cs, s => cs.foldl (fun s c => s.setColour isl c { s.colour isl c with port := 7 }) s
  | p :: ps, extra, cs, s =>
    let k := min 160 (n + if 0 < extra then 1 else 0)
    dealColours isl n ps (extra - 1) (cs.drop k) ((cs.take k).foldl (fun s c => s.setColour isl c { s.colour isl c with port := p }) s)

/-- The working colours divided equally among the linked ports (R403). -/
def divideColours (s : State) (isl : Nat) : State :=
  let ps := s.linkedPorts isl
  let cs := s.workingColours isl
  if ps.isEmpty then s.dealColours isl 0 [] 0 cs else s.dealColours isl (cs.length / ps.length) ps (cs.length % ps.length) cs

/-! Default routes (R395, R396). -/

/-- Islands with their distance from an island over working links, nearest first. -/
def distGo (s : State) : Nat → Nat → List (Nat × Nat) → List (Nat × Nat)
  | 0, _, seen => seen
  | fuel + 1, d, seen =>
    let next := ((List.range 20).filter fun i => !(seen.any (·.1 = i)) && (List.range 4).any fun p =>
      s.linkUp i p && (match s.neighbour i p with | some j => seen.contains (j, d) | none => false))
    s.distGo fuel (d + 1) (seen ++ next.map fun i => (i, d + 1))

/-- The first of the shortest routes in the order E, W, N, S: its code. -/
def routeGo (s : State) (ds : List (Nat × Nat)) : Nat → Nat → Nat
  | 0, _ => 0
  | d + 1, i =>
    match [1, 3, 0, 2].find? fun p => s.linkUp i p && (match s.neighbour i p with | some j => ds.contains (j, d) | none => false) with
    | some p => p + 4 * s.routeGo ds d ((s.neighbour i p).getD 0)
    | none => 0

/-- The word of a default entry. -/
def defaultEntry (s : State) (i : Nat) (ds : List (Nat × Nat)) : W64 :=
  match ds.find? fun x => x.1 = i with
  | some (_, d) => BitVec.ofNat 64 (s.routeGo ds d i * 2 ^ 12 + d * 2 ^ 8 + 0x13)
  | none => 0x11

/-- A route over working links and populated sites that ends at an island (R397). -/
def routeOk (s : State) (e : Nat) : Nat → Nat → Nat → Bool
  | 0, _, i => i = e
  | n + 1, route, i => s.linkUp i (route % 4) && (match s.neighbour i (route % 4) with | some j => s.routeOk e n (route / 4) j | none => false)

def setChart (s : State) (i e : Nat) (v : W64) : State := { s with eng.fab.chart := s.eng.fab.chart.put (i * 4096 + e) v }

/-- The Harbourmaster writes the default entries, at start every populated id's, and withdraws routes over links that are
down (R394, R396, R397). -/
def writeRoutes (s : State) (start : Bool) : State :=
  let pop := (List.range 20).filter s.populated
  pop.foldl (fun s e =>
    let ds := s.distGo 8 0 [(e, 0)]
    pop.foldl (fun s i =>
      let old := s.chart i e
      if i = e then s.setChart i e 3
      else if start || old.getLsbD 4 then s.setChart i e (s.defaultEntry i ds)
      else if old.getLsbD 1 && !s.routeOk e (fld old 8 4) (fld old 12 16) i then s.setChart i e (old &&& ~~~2#64)
      else s) s) s

/-! Links (R400). -/

/-- Everything queued or kept at a port is lost with its link: of the flits kept there those that the far side has not received, and those
received here that wait for an earlier one (DESIGN CHOICE, unsafe: log 116). -/
def dropPort (s : State) (isl p : Nat) : State :=
  let x := s.port isl p
  let lost := x.queue.map (·.2.2) ++ (x.unacked.map (·.flit)).filter (fun f => !x.acks.contains f.seq.toNat) ++ x.reorder
  let s1 := s.setPort isl p { x with link := 3, queue := [], unacked := [], wire := [], acks := [], repeats := [], reorder := [], steer := [], tgt := none }
  let s2 := (s1.coloursOf isl p).foldl (fun s c => s.setColour isl c { s.colour isl c with port := 7 }) s1
  lost.foldl lose s2

/-- A link goes down in both directions; routes are written anew. -/
def takeDown (s : State) (isl p : Nat) : State :=
  match s.neighbour isl p with
  | some j => ((s.dropPort isl p).dropPort j (opposite p)).writeRoutes false
  | none => s

/-- A link is due to go down: 16 resends of one flit, no progress for 100 µs, or fewer than 4 working colours (R400, R408). -/
def linkFailing (s : State) (isl p : Nat) : Bool :=
  let x := s.port isl p
  x.link = 2 && (x.unacked.any (16 ≤ ·.resends) || (!x.unacked.isEmpty && x.progress + 200000 ≤ s.clock) || s.wl isl p < 4)

/-! Receiving (R398-R401). -/

/-- Bytes of replies to an operation that wait at its source. -/
def repliesWaiting (s : State) (op : Nat) : Nat :=
  (s.eng.acks.map fun a => if a.op = op then (match a.reply with | some (_, d, _) => d.length | none => 0) else 0).sum

/-- A flit has arrived at its island (R398). -/
def deliver (s : State) (isl : Nat) (f : Flit) : State :=
  let body := f.payload.take f.flen.toNat
  let mine := f.dst.toNat * 65536 + f.optag.toNat
  if f.rsv ≠ 0 || f.dst.toNat ≠ isl then
    (match f.typ.toNat with
     | 3 | 6 | 7 => (s.loseOp mine).pushHm { op := mine, cause := some 6 }
     | _ => (flitOps f).foldl (fun s o => s.sendAck isl o (some 6)) s)
  else match f.typ.toNat with
  | 3 =>
    let ofs := s.repliesWaiting mine + (match s.eng.ops.find mine with | some o => o.got | none => 0)
    if s.isLost mine then s else s.pushAck { op := mine, cause := none, reply := some (ofs, body, f.last) }
  | 6 => s.pushAck { op := mine, cause := none }
  | 7 => s.pushAck { op := mine, cause := some (f.payload.headD 6) }
  | _ =>
    let op := f.src.toNat * 65536 + f.optag.toNat
    let data := if f.cmb then (f.payload.drop 32).take 128 else if f.first then body.drop 32 else body
    s.receive isl op f.first f.last (some (descOf f.payload)) data (if f.cls.toNat < 2 then some f.cls.toNat else none)
      (if f.cmb then constituents f else [])

/-- A flit passed on by its receiver: delivered, or queued for its next hop. -/
def passOn (s : State) (isl : Nat) (f : Flit) : State :=
  if f.taken = f.hops then s.deliver isl f else s.enqueue isl (hopOf f.route.toNat f.taken.toNat) f

/-- Flits passed on in sequence order. -/
def passGo (isl p : Nat) : Nat → State → State
  | 0, s => s
  | fuel + 1, s =>
    let r := s.port isl p
    match r.reorder.find? fun f => f.seq = r.expect with
    | none => s
    | some f =>
      passGo isl p fuel ((s.setPort isl p { r with reorder := r.reorder.erase f, expect := r.expect + 1 }).passOn isl f)

end State

/-- FLIT_RECEIVE (R398, R400): a flit reaches an island's port, whole or damaged. How many of its 17 codewords the decoder has corrected is free
(DESIGN CHOICE, safe: log 140). -/
def execFlitReceive (isl p : Nat) (f : Flit) (s : State) : Out :=
  .next (
    match s.neighbour isl p with
    | none => s
    | some j =>
      if !s.linkUp isl p then s
      else
        let s1 := s.pump j (opposite p)
        let x := s1.port j (opposite p)
        let x1 := { x with wire := x.wire.eraseP fun g => g.seq = f.seq }
        let r0 := s1.port isl p
        let r := { r0 with corr := min (r0.corr + Config.freeChoice s.choices % 18) (2 ^ 32 - 1) }
        let s1 := { s1.setPort isl p r with choices := s.choices + 1 }
        if flitCrc f ≠ f.crc then
          (s1.setPort j (opposite p) { x1 with repeats := x1.repeats ++ [f.seq.toNat] }).setPort isl p
            { r with crcf := min (r.crcf + 1) 0xFFFF }
        else
          let s2 := s1.setPort j (opposite p) { x1 with acks := x1.acks ++ [f.seq.toNat] }
          if 1024 ≤ (f.seq - r.expect).toNat || r.reorder.any fun g => g.seq = f.seq then s2
          else
            let s3 := s2.setPort isl p { r with reorder := r.reorder ++ [f] }
            State.passGo isl p (r.reorder.length + 1) s3)

/-- A kept flit is sent again. -/
def resend (s : State) (isl p seq : Nat) : State :=
  let x := s.port isl p
  match x.unacked.find? fun u => u.flit.seq.toNat = seq with
  | none => s
  | some u =>
    s.setPort isl p { x with wire := x.wire ++ [u.flit], resent := min (x.resent + 1) 0xFFFF,
                             unacked := x.unacked.map fun v => if v.flit.seq.toNat = seq then { v with resends := v.resends + 1, at_ := s.clock } else v }

/-- REPEAT_REQUEST (R400): the receiver's request reaches the sender. -/
def execRepeatRequest (isl p seq : Nat) (s : State) : Out :=
  .next (
    let x := s.port isl p
    if x.repeats.contains seq then resend (s.setPort isl p { x with repeats := x.repeats.erase seq }) isl p seq else s)

/-- LINK_ACKNOWLEDGEMENT (R400): the sender lets its copy go. -/
def execLinkAcknowledgement (isl p seq : Nat) (s : State) : Out :=
  .next (
    let x := s.port isl p
    if x.acks.contains seq then
      s.setPort isl p { x with acks := x.acks.erase seq, unacked := x.unacked.filter fun u => u.flit.seq.toNat ≠ seq, progress := s.clock }
    else s)

/-- RESEND_TIMEOUT (R400): 2 µs without an acknowledgement. -/
def execResendTimeout (isl p seq : Nat) (s : State) : Out :=
  .next (
    if (s.port isl p).unacked.any fun u => u.flit.seq.toNat = seq && u.at_ + 4000 ≤ s.clock then resend s isl p seq else s)

/-- LINK_DOWN (R396, R400): a link that fails is down until it has trained again. -/
def execLinkDown (isl p : Nat) (s : State) : Out :=
  .next (if s.linkUp isl p then s.takeDown isl p else s)

/-- LINK_UP (R396, R403): a link has trained. -/
def execLinkUp (isl p : Nat) (s : State) : Out :=
  .next (
    match s.neighbour isl p with
    | none => s
    | some j =>
      let l := (s.port isl p).link
      if (l = 1 || l = 3) && !s.mgt.stoppedIsl.contains isl && !s.mgt.stoppedIsl.contains j then
        let up (s : State) (i q : Nat) : State :=
          s.setPort i q { s.port i q with link := 2, seq := 0, expect := 0, progress := s.clock }
        let s1 := up (up s isl p) j (opposite p)
        ((s1.divideColours isl).divideColours j).writeRoutes false
      else s)

/-! Steering (R404, R405). -/

namespace State

/-- The target of a port from the demand of the last window, never above 160 (R403, R404). -/
def steerTarget (s : State) (isl p : Nat) : Nat :=
  let ps := s.linkedPorts isl
  let a := (s.workingColours isl).length
  let d (q : Nat) : Nat := (s.port isl q).demLast.toNat
  let t := (ps.map d).sum
  let v := if t = 0 then a / ps.length else a * d p / t
  let x := s.port isl p
  min 160 (max (max 16 (x.floor + x.res)) (min v (min 160 x.ceil)))

/-- A colour is unused in the ingress at a port's far end (R405). -/
def unusedAt (s : State) (isl q c : Nat) : Bool := match s.neighbour isl q with | some j => !s.ingress j c | none => false

/-- The colours that may move to a port: unpinned, and unused in the ingress at the port's far end. -/
def movable (s : State) (isl q : Nat) (from_ : Option Nat) : Option Nat :=
  (s.workingColours isl).find? fun c =>
    (match from_ with | some p => (s.colour isl c).port = p && !s.pinned isl c | none => 4 ≤ (s.colour isl c).port)
      && s.unusedAt isl q c

/-- Ports in order of a measure, largest first, lowest number on a tie. -/
def portsBy (f : Nat → Int) : List Nat → List Nat
  | [] => []
  | p :: ps =>
    let r := portsBy f ps
    r.takeWhile (fun q => f p < f q) ++ [p] ++ r.dropWhile fun q => f p < f q

/-- The pairs that steering tries, in its order: from the free colours (4) if any exist, else from the port with the largest surplus, to the port that
is shortest. A pair skipped in this window is passed over, and the next taken (R404; DEDUCED, safe: log 140). -/
def steerPairs (s : State) (isl : Nat) : List (Nat × Nat) :=
  let ps := (s.linkedPorts isl).filter fun p => (s.port isl p).tgt.isSome
  let short (p : Nat) : Int := ((s.port isl p).tgt.getD 0 : Int) - s.wl isl p
  let free := if (s.workingColours isl).any fun c => 4 ≤ (s.colour isl c).port then [4] else []
  let give := free ++ (portsBy (fun p => - short p) ps).filter fun p => 1 ≤ - short p
  (((portsBy short ps).filter fun q => 2 ≤ short q).flatMap fun q => give.map (·, q)).filter fun x =>
    !((s.eng.fab.skips.get [] isl).contains x)

/-- The colour that a pair would move. -/
def pairColour (s : State) (isl : Nat) (x : Nat × Nat) : Option Nat := s.movable isl x.2 (if x.1 = 4 then none else some x.1)

/-- The next move of the window, colour and port, with the pairs that have none to move (R404). -/
def nextMove (s : State) (isl : Nat) : Option (Nat × Nat) × List (Nat × Nat) :=
  let ps := s.steerPairs isl
  let dead := ps.takeWhile fun x => (s.pairColour isl x).isNone
  (((ps.drop dead.length).head?).bind fun x => (s.pairColour isl x).map (·, x.2), dead)

/-- A move begins: the far die is asked (R405). -/
def startMove (s : State) (isl : Nat) : State :=
  let n := s.nextMove isl
  let s1 := { s with eng.fab.skips := s.eng.fab.skips.upd [] isl (· ++ n.2) }
  match n.1 with
  | none => { s1 with eng.fab.move := s1.eng.fab.move.del isl }
  | some (c, q) =>
    let x := s1.port isl q
    { s1.setPort isl q { x with steer := x.steer ++ [.propose c (s1.colour isl c).port q] } with
      eng.fab.move := s1.eng.fab.move.put isl (c, q, s1.clock + 4000) }

/-- A window begins: the demand of the last is taken, and the targets are fixed (R404). -/
def openSteering (s : State) (isl : Nat) : State :=
  let s1 := (List.range 4).foldl (fun (s : State) p =>
    let x := s.port isl p
    s.setPort isl p { x with demLast := BitVec.ofNat 32 x.dem, dem := 0 }) s
  let s2 := (List.range 4).foldl (fun (s : State) p =>
    s.setPort isl p { s.port isl p with tgt := if s1.linkUp isl p then some (s1.steerTarget isl p) else none }) s1
  { s2 with eng.fab.windows := s2.eng.fab.windows.put isl s.clock, eng.fab.skips := s2.eng.fab.skips.del isl }

end State

/-- STEER_WINDOW (R404): the demand of the window is taken and the moves of the next begin. -/
def execSteerWindow (isl : Nat) (s : State) : Out :=
  .next (
    if s.clock < s.eng.fab.windows.get 0 isl + 20000 then s else (s.openSteering isl).startMove isl)

/-- STEERING_MESSAGE (R405): the message at the far side of a port's link; both dies
switch 2 µs after a move was asked for, when the colour is unused in the far ingress then. -/
def execSteeringMessage (isl p : Nat) (m : SteerMsg) (s : State) : Out :=
  .next (
    match s.neighbour isl p with
    | none => s
    | some j =>
      let y := s.port j (opposite p)
      if !y.steer.contains m then s
      else
        match m with
        | .propose c a b =>
          let s1 := s.setPort j (opposite p) { y with steer := y.steer.erase m }
          s1.setPort isl p { s1.port isl p with steer := (s1.port isl p).steer ++ [.agree c a b] }
        | .agree c a b =>
          let due := match s.eng.fab.move.find isl with | some (d, q, t) => d = c && q = b && t ≤ s.clock | none => false
          let stale := match s.eng.fab.move.find isl with | some (d, q, _) => !(d = c && q = b) | none => true
          if stale then s.setPort j (opposite p) { y with steer := y.steer.erase m }
          else if due then
            let s1 := s.setPort j (opposite p) { y with steer := y.steer.erase m }
            (if s1.working isl c && (s1.colour isl c).port = a && s1.unusedAt isl b c then s1.setColour isl c { s1.colour isl c with port := b }
             else s1).startMove isl
          else s)

/-! Colours and registers of the fabric (R408, R412). -/

/-- QUADRATURE_ALARM (R408): the colour is faulty and leaves its port. -/
def execQuadratureAlarm (isl c : Nat) (phase : BitVec 8) (s : State) : Out :=
  .next (
    let x := s.colour isl c
    if 256 ≤ c || 20 ≤ isl then s
    else (s.setColour isl c { x with phase := phase, alarm := true, fault := true, cleared := none, port := 7 }).postModule isl 0 c x.port)

/-- COLOUR_FAULT_CLEAR (R408, R412): a write of 1 to FAULT. -/
def execColourFaultClear (isl c : Nat) (s : State) : Out :=
  .next (
    let x := s.colour isl c
    if s.booted && x.fault then s.setColour isl c { x with fault := false, cleared := some s.clock } else s)

/-- COLOUR_RECOVER (R408): held at quadrature for 1 ms after FAULT was cleared, the colour is free. -/
def execColourRecover (isl c : Nat) (s : State) : Out :=
  .next (
    let x := s.colour isl c
    match x.cleared with
    | some t => if t + 2000000 ≤ s.clock then s.setColour isl c { x with cleared := none, alarm := false } else s
    | none => s)

/-- STEER_WRITE (R412). -/
def execSteerWrite (isl p : Nat) (v : W64) (s : State) : Out :=
  .next (
    let fl := fld v 0 8
    let ce := fld v 8 8
    let x := s.port isl p
    let others := (((List.range 4).filter fun q => q ≠ p && (s.port isl q).link ≠ 0).map fun q => (s.port isl q).floor + (s.port isl q).res).sum
    if !s.booted || 20 ≤ isl || 4 ≤ p then s
    else if ce < fl || fl < 16 || 160 < fl || ce < 16 || 160 < ce || (s.workingColours isl).length < others + fl + x.res then
      { s with eng.fab.fstat := s.eng.fab.fstat.upd 0 isl (· ||| 2) }
    else s.setPort isl p { x with floor := fl, ceil := ce })

/-- CHART_WRITE (R394, R397). -/
def execChartWrite (isl e : Nat) (v : W64) (s : State) : Out :=
  .next (
    if !s.booted || !s.populated isl || 4096 ≤ e || e = isl || (e < 32 && !s.populated e) then s
    else
      let far : Bool := v.getLsbD 2 && 32 ≤ e && s.mgt.mod.mode ≠ 2
      let w := v &&& (if 32 ≤ e then 0xFFFFF1F#64 else 0xFFFFF1B#64)
      let ok := far || !v.getLsbD 1 || (fld w 8 4 ≤ 8 && s.routeOk e (fld w 8 4) (fld w 12 16) isl && fld w 8 4 ≠ 0)
      let s1 := s.setChart isl e (if ok then w else w &&& ~~~2#64)
      if ok then s1 else { s1 with eng.fab.fstat := s1.eng.fab.fstat.upd 0 isl (· ||| 1) })

/-- PEER_ENTRY_WRITE (R411): a word of a far id's peer entry; reserved bytes stay zero. -/
def execPeerEntryWrite (isl off : Nat) (v : W64) (s : State) : Out :=
  .next (
    let e := 32 + off / 32
    let w := off / 8 % 4
    if !s.booted || !s.populated isl || off % 8 ≠ 0 || 4096 ≤ e then s
    else
      let v' := if w < 2 then v else if w = 2 then v &&& 0xFFF00FFFFFF#64 else 0
      { s with eng.fab.peers := s.eng.fab.peers.put ((isl * 4096 + e) * 4 + w) v' })

/-! Circuits (R406). -/

namespace State

/-- A circuit is granted whole or not at all. -/
def askCircuit (s : State) (c : Circuit) : State × Circuit :=
  let ls := s.routeLinks c.hops c.route.toNat c.isl
  let fits := ls.all fun l =>
    let x := s.port l.1 l.2
    let sum := (((List.range 4).filter fun q => (s.port l.1 q).link ≠ 0).map fun q => (s.port l.1 q).floor + (s.port l.1 q).res).sum
    x.floor + x.res + c.w ≤ 160 && sum + c.w ≤ (s.workingColours l.1).length
  if fits then
    (ls.foldl (fun s l => s.setPort l.1 l.2 { s.port l.1 l.2 with res := (s.port l.1 l.2).res + c.w }) s, { c with granted := true, asked := s.clock })
  else (s, { c with granted := false, asked := s.clock })

/-- Circuits of a task that are not granted, asked for in turn, each for itself. -/
def askEach (task : Nat) (all : Bool) : List Circuit → State → State × List Circuit
  | [], s => (s, [])
  | c :: cs, s =>
    let r := if c.task = task && !c.granted && (all || c.asked + 200000 ≤ s.clock) then s.askCircuit c else (s, c)
    let q := askEach task all cs r.1
    (q.1, r.2 :: q.2)

/-- Every circuit of a task that is not granted is asked for. -/
def askCircuits (s : State) (task : Nat) (all : Bool) : State :=
  let r := askEach task all s.eng.fab.circuits s
  { r.1 with eng.fab.circuits := r.2 }

/-- The reservations of a task end (R388, R406); `forget` removes the entries too. -/
def endCircuits (s : State) (task : Nat) (forget : Bool) : State :=
  let s1 := s.eng.fab.circuits.foldl (fun s c =>
    if c.task = task && c.granted then
      (s.routeLinks c.hops c.route.toNat c.isl).foldl (fun s l => s.setPort l.1 l.2 { s.port l.1 l.2 with res := (s.port l.1 l.2).res - c.w }) s
    else s) s
  { s1 with eng.fab.circuits :=
      if forget then s1.eng.fab.circuits.filter (·.task ≠ task)
      else s1.eng.fab.circuits.map fun c => if c.task = task then { c with granted := false } else c }

end State

/-- CIRCUIT_RETRY (R406): not while the grid's precinct is halted or swapped out, when its reservations are released (R388). -/
def execCircuitRetry (isl task : Nat) (s : State) : Out :=
  .next (if (s.task task).any fun t => t.isl = isl && (s.precinct t.precinct).state = .running then s.askCircuits task false else s)

/-! Ultra Ethernet (R160-R163, R410, R411). -/

/-- UE_PACKET_RECEIVE (R162, R410): a packet of the supported mode is placed as it arrives, each once (DEDUCED, unsafe: log 136); others are
counted. A trimmed packet is a request to resend the packet it was. -/
def execUePacketReceive (isl ep : Nat) (x : UePacket) (s : State) : Out :=
  .next (
    let op := x.src * 65536 + x.op % 65536
    let k := isl * 2 ^ 40 + op
    if !x.rud || 4096 < x.payload.length then { s with eng.fab.uedrop := s.eng.fab.uedrop.upd 0 (isl * 2 + ep) (· + 1) }
    else if !s.populated isl || x.src < 32 || 4096 ≤ x.src then s
    else if x.trim then
      let mine := isl * 65536 + x.op % 65536
      (match s.eng.ops.find mine with
       | some o =>
         if o.dest = x.src then
           let ps := o.packets.map fun p => if p.k = x.k then { p with resends := p.resends + 1 } else p
           { s with eng.ops := s.eng.ops.put mine { o with packets := ps } }
         else s
       | none => s)
    else
      let new : Prog := { desc := x.desc, mid := some x.op }
      let had := s.eng.progs.find k
      let later : Bool := had.any fun q => q.mid.any (x.op < ·)
      let p : Prog := match had with | some q => if q.mid = some x.op then q else new | none => new
      if later || p.ended || p.ks.contains x.k then s
      else
        let n := if x.desc.kind = .get then min 4096 (x.desc.len.toNat - 4096 * x.k) else x.payload.length
        let moves : Bool := p.desc.kind = .put || p.desc.kind = .puts
        let q := if moves then cutLines p.desc.ta.toNat p.desc.len.toNat p.edges (4096 * x.k) x.payload else (4096 * x.k, x.payload, p.edges)
        let p1 := { p with rx := p.rx + n, ks := p.ks ++ [x.k], lastRx := max 1 x.npkts ≤ p.ks.length + 1, lastSeen := s.clock }
        if p.ks.isEmpty && s.refusedAtOnce isl x.desc then
          { s with eng.progs := s.eng.progs.put k { p1 with ended := true } }.sendAck isl op (some 2)
        else
          let a : Arr := { isl := isl, src := x.src, op := op, far := true, desc := x.desc, ofs := q.1,
                           len := if moves then q.2.1.length else n, data := q.2.1, last := p1.lastRx, ent := x.ent }
          { s with eng.progs := s.eng.progs.put k { p1 with edges := q.2.2 }, eng.arrivals := s.eng.arrivals.put (s.exe.ids + 1) a,
                   exe.ids := s.exe.ids + 1 })

/-- A packet's retry budget is spent (R411): it has been resent 8 times, or was first sent 4 ms (8,000,000 clocks) ago. -/
def State.abandoned (s : State) (o : IslOp) : Bool := o.packets.any fun p => 8 ≤ p.resends || p.first + 8000000 ≤ s.clock

/-- UE_PACKET_ABANDON (R163, R411): the transport gives up a packet whose budget is spent; the operation fails with cause 0x06. -/
def execUePacketAbandon (op : Nat) (s : State) : Out :=
  .next (
    match s.eng.ops.find op with
    | some o => if 32 ≤ o.dest && s.abandoned o then ((s.countLocal op (State.lateErr o)).failRemote o 6 o.ta).endOp op else s
    | none => s)

end Sys2Proof.Machine
end

