-- ==== Sys2Proof/Machine/Launch.lean ====
section
/-! DEFINITION. Launch records, kernel descriptors, dependency blocks and circuit lists, and room for a gang on a core (R27,
R36, R37, R184, R186, R203, R308, R354-R363, R406). -/

namespace Sys2Proof.Machine

open Sys2Proof

/-! Records (R354-R356, R406). -/

/-- What a grid asks for: the record's fields and, where no O flag takes them from it, the descriptor's. -/
structure Need where
  ngangs : Nat
  lanes : Nat
  regs : Nat
  tiles : Nat
  scratch : Nat
  clmem : Nat
  group : Nat
  cor : Bool
  anycl : Bool
  pilot : Bool
  cores : Nat                      -- CORES; 0 names every core of the precinct
  pack : Bool
  entry : Nat
  deriving DecidableEq, Repr

/-- A field of a record or a descriptor. -/
def recF (bs : List Byte) (lo n : Nat) : Nat := natOf ((bs.drop lo).take n)

/-- Flags of a launch record (R354): OLANES, OREGS, OSCR, OCLU, COR, ANYCL, PILOT. -/
def recFlag (r : List Byte) (k : Nat) : Bool := recF r 56 4 / 2 ^ k % 2 = 1

def needOf (r k : List Byte) : Need :=
  { ngangs := recF r 8 4
    lanes := if recFlag r 0 then recF r 12 2 % 2 ^ 11 else recF k 8 2
    regs := if recFlag r 1 then recF r 14 1 else recF k 10 1
    tiles := recF r 15 1 % 2 ^ 7
    scratch := if recFlag r 2 then recF r 16 4 else recF k 12 4
    clmem := if recFlag r 3 then recF r 20 4 else recF k 16 4
    group := max 1 (recF r 44 4)
    cor := recFlag r 4, anycl := recFlag r 5, pilot := recFlag r 6
    cores := recF r 64 16
    pack := recF r 80 1 / 16 % 2 = 1
    entry := recF k 0 8 }

def crewsOf (n : Need) : Nat := (n.lanes + 31) / 32
def granulesOf (n : Need) : Nat := (n.regs + 7) / 8
def spOf (n : Need) : Nat := (n.scratch + 2047) / 2048
def cmOf (n : Need) : Nat := (n.clmem + 4095) / 4096

/-- A reserved bit of a launch record is nonzero. -/
def recReserved (r : List Byte) : Bool :=
  2 ^ 52 ≤ recF r 0 8 || recF r 12 4 / 2 ^ 11 % 2 ^ 5 ≠ 0 || recF r 12 4 / 2 ^ 31 ≠ 0 || 2 ^ 19 ≤ recF r 16 4 || 2 ^ 20 ≤ recF r 20 4
    || 2 ^ 52 ≤ recF r 32 8 || 2 ^ 14 ≤ recF r 40 4 || 2 ^ 5 ≤ recF r 44 4 || 2 ^ 52 ≤ recF r 48 8 || 2 ^ 7 ≤ recF r 56 4
    || recF r 60 4 ≠ 0 || recF r 80 1 / 4 % 4 ≠ 0 || recF r 80 1 / 32 ≠ 0 || 8 ≤ recF r 81 1 || recF r 82 6 ≠ 0
    || 2 ^ 52 ≤ recF r 88 8 || 2 ^ 52 ≤ recF r 96 8 || recF r 104 24 ≠ 0

/-- A field of a launch record lies outside its range. -/
def recRange (r : List Byte) : Bool :=
  if recFlag r 6 then
    recF r 8 4 / 16 ≠ 0 || recF r 12 4 ≠ 0 || recF r 16 4 ≠ 0 || recF r 20 4 ≠ 0 || recF r 44 4 ≠ 0 || recF r 88 8 ≠ 0
      || recF r 56 4 % 16 ≠ 0
  else recF r 8 4 = 0 || 16 < recF r 44 4 || 64 < recF r 15 1 % 2 ^ 7

/-- An address of the record breaks its alignment rule (R350). -/
def recAlign (r : List Byte) : Bool :=
  recF r 32 8 % 16 ≠ 0 || (recF r 40 4 ≠ 0 && recF r 48 8 % 128 ≠ 0) || recF r 0 8 % 64 ≠ 0

/-- The fault of a record's own fields, alignment first. -/
def recordBad (r : List Byte) : Option Byte := if recAlign r then some 3 else if recReserved r || recRange r then some 2 else none

/-- The kernel descriptor and what it gives with the record lie outside their rules (R42, R355, R357). -/
def kdescBad (r k : List Byte) : Bool :=
  let n := needOf r k
  recF k 0 8 % 8 ≠ 0 || 2 ^ 52 ≤ recF k 0 8 || recF k 11 1 ≠ 0 || recF k 20 4 ≠ 0 || recF k 56 8 ≠ 0
    || (!n.pilot && (n.lanes = 0 || 1024 < n.lanes || n.regs = 0 || 262144 < n.scratch || 524288 < n.clmem
          || 65536 < n.regs * 32 * crewsOf n))
    || ((List.range 4).any fun i =>
      let w := recF k (24 + 8 * i) 8
      w / 2 ^ 28 ≠ 0 || w / 2 ^ 11 % 2 ^ 5 ≠ 0
        || (w / 2 ^ 16 % 2 ^ 12 ≠ 0 && (2048 < w / 2 ^ 16 % 2 ^ 12 || 16 * spOf n < w % 2 ^ 11 + w / 2 ^ 16 % 2 ^ 12)))

/-- A notify wait of a dependency block or a WAIT command (R351): counter, island, threshold; none where V = 0. -/
def waitEntry (bs : List Byte) (i : Nat) : Option (Nat × Nat × W32) :=
  let w := recF bs (8 * i) 8
  if w / 2 ^ 15 % 2 = 0 then none else some (w % 2 ^ 14, w / 2 ^ 16 % 32, BitVec.ofNat 32 (w / 2 ^ 32))
/-- Reserved bits of a wait entry. -/
def waitReserved (bs : List Byte) (i : Nat) : Bool :=
  let w := recF bs (8 * i) 8
  w / 2 ^ 15 % 2 = 1 && (w / 2 ^ 14 % 2 ≠ 0 || w / 2 ^ 21 % 2 ^ 11 ≠ 0)
def waitsOf (bs : List Byte) : List (Nat × Nat × W32) := (List.range 4).filterMap (waitEntry bs)

/-- A range of a dependency block: base and length; ranges 4 and 5 are written (R356). -/
def depRange (d : List Byte) (i : Nat) : Nat × Nat := (recF d (16 * i) 8, recF d (16 * i + 8) 8)
def depRanges (d : List Byte) (ks : List Nat) : List (Nat × Nat) := (ks.map (depRange d)).filter (·.2 ≠ 0)
def depReads (d : List Byte) : List (Nat × Nat) := depRanges d [0, 1, 2, 3]
def depWrites (d : List Byte) : List (Nat × Nat) := depRanges d [4, 5]
def rangesMeet (a b : List (Nat × Nat)) : Bool := a.any fun x => b.any fun y => x.1 < y.1 + y.2 && y.1 < x.1 + x.2
/-- U, which entered first, conflicts with T (R360). -/
def depsConflict (u t : List Byte) : Bool :=
  rangesMeet (depWrites u) (depReads t ++ depWrites t) || rangesMeet (depReads u) (depWrites t)

def depsBad (d : List Byte) (count : Nat) : Bool :=
  ((List.range 6).any fun i => 2 ^ 52 ≤ (depRange d i).1) || ((List.range 4).any (waitReserved (d.drop 96)))
    || ((waitsOf (d.drop 96)).any fun w => w.2.1 ≠ 0 || count ≤ w.1)

namespace State

/-- A circuit list breaks its rules, or a route of it fails (R397, R406). -/
def circBad (s : State) (isl : Nat) (c : List Byte) : Bool :=
  let n := recF c 0 8
  n < 1 || 16 < n || ((List.range n).any fun i =>
    let e := recF c (8 + 8 * i) 8
    let dest := e % 2 ^ 12
    let w := e / 2 ^ 16 % 2 ^ 8
    let ch := s.chart isl dest
    20 ≤ dest || dest = isl || e / 2 ^ 12 % 16 ≠ 0 || w < 1 || 32 < w || e / 2 ^ 25 % 2 ^ 7 ≠ 0 || e / 2 ^ 52 ≠ 0
      || (if e / 2 ^ 24 % 2 = 1 then
            e / 2 ^ 48 % 16 < 1 || 8 < e / 2 ^ 48 % 16 || !s.routeOk dest (e / 2 ^ 48 % 16) (e / 2 ^ 32 % 2 ^ 16) isl
          else e / 2 ^ 32 ≠ 0 || fld ch 0 2 ≠ 3 || !s.routeOk dest (fld ch 8 4) (fld ch 12 16) isl))

/-- The reservations of a list (R406). -/
def circuitsOf (s : State) (isl task : Nat) (c : List Byte) : List Circuit :=
  (List.range (min 16 (recF c 0 8))).map fun i =>
    let e := recF c (8 + 8 * i) 8
    let dest := e % 2 ^ 12
    let ch := s.chart isl dest
    let expl := e / 2 ^ 24 % 2 = 1
    { isl := isl, task := task, dest := dest, w := e / 2 ^ 16 % 2 ^ 8,
      route := BitVec.ofNat 16 (if expl then e / 2 ^ 32 % 2 ^ 16 else fld ch 12 16),
      hops := if expl then e / 2 ^ 48 % 16 else fld ch 8 4, expl := expl }

/-- The eligible cores of a task (R358): those of its precinct that CORES selects, for a Pilot's task those of its cluster
unless ANYCL. -/
def eligible (s : State) (p : Nat) (pilot : Option Nat) (n : Need) : List Nat :=
  let cls := (List.range (2 ^ (s.precinct p).size)).map (p + ·)
  let cls := match pilot with | some cl => if n.anycl then cls else cls.filter (· = cl) | none => cls
  (cls.flatMap fun cl => (List.range 8).map (cl * 8 + ·)).filter fun c => n.cores = 0 || n.cores / 2 ^ (c % 128) % 2 = 1

/-! Room on a core (R36, R37, R308, R361). -/

/-- The lowest base of a free run of `n` units among `cap`, none where there is no such run; 0 for an empty run. -/
def firstFit (used : List (Nat × Nat)) (cap n : Nat) : Option Nat :=
  if n = 0 then some 0
  else if cap < n then none
  else (List.range (cap - n + 1)).find? fun b => used.all fun u => u.1 + u.2 ≤ b || b + n ≤ u.1

/-- The slot a crew takes: in the bay with the fewest occupied slots, the lowest free one. -/
def crewSlot (taken : List Nat) : Option Nat :=
  let load (b : Nat) : Nat := (taken.filter fun c => c / 16 = b).length
  let bay := [0, 1, 2, 3].foldl (fun b c => if load c < load b then c else b) 0
  ((List.range 16).map (bay * 16 + ·)).find? fun c => !taken.contains c

/-- A place for a gang: gang slot, crews with their register bases, scratchpad, tiles, cluster memory. -/
structure Fit where
  slot : Nat
  crews : List (Nat × Nat)
  sp : Nat
  tile : Nat
  cm : Nat
  deriving DecidableEq, Repr

/-- Crew by crew: slots and register granules. -/
def fitCrews (g : Nat) : Nat → List Nat → List (Nat × Nat) → Option (List (Nat × Nat))
  | 0, _, _ => some []
  | n + 1, taken, regs =>
    match crewSlot taken, firstFit regs 256 g with
    | some c, some b => (fitCrews g n (c :: taken) ((b, g) :: regs)).map ((c, b) :: ·)
    | _, _ => none

/-- Gangs and crews of a core, and the groups of its cluster. -/
def gangsOf (s : State) (core : Nat) : List (Nat × Gang) := s.exe.gangs.filter fun g => g.1 / 16 = core && g.2.used
def crewsAt (s : State) (core : Nat) : List (Nat × Crew) := s.exe.crews.filter fun c => c.1 / 64 = core && c.2.used

/-- Room for a gang on a core; the first gang of a group needs cluster memory too (R361). -/
def roomFor (s : State) (core : Nat) (n : Need) (first : Bool) : Option Fit :=
  let gs := s.gangsOf core
  let cs := s.crewsAt core
  let slot := (List.range 16).find? fun i => gs.all fun g => g.1 % 16 ≠ i
  let crews := fitCrews (granulesOf n) (crewsOf n) (cs.map fun c => c.1 % 64) (cs.map fun c => (c.2.base, c.2.granules))
  let sp := firstFit (gs.map fun g => (g.2.spBase, g.2.spSize)) 128 (spOf n)
  let tl := firstFit (gs.map fun g => (g.2.tileBase, g.2.tiles)) 64 n.tiles
  let cm := if !first then some 0 else
    firstFit ((s.exe.groups.filter fun g => g.2.used && g.2.cluster = clusterOfCore core).map fun g => (g.2.cmBase, g.2.cmSize)) 128 (cmOf n)
  match slot, crews, sp, tl, cm with
  | some a, some b, some c, some d, some e => some { slot := a, crews := b, sp := c, tile := d, cm := e }
  | _, _, _, _, _ => none

/-! Placement of one gang (R37, R42, R186, R203, R308, R362, R363). -/

/-- Gangs in the group of a gang (R367). -/
def groupSize (n : Need) (gid : Nat) : Nat := min n.group (n.ngangs - gid / n.group * n.group)

/-- Members of a barrier at launch (R203). -/
def membersOf (us : List Nat) : Barrier := { exp := us.length, units := us.foldl (fun t u => t.put u { member := true }) [] }

/-- The ordinary lanes of crew `c` of a gang of `n` lanes, and its live ones (R184). -/
def ordMask (n c : Nat) : Mask := maskBy fun L => 32 * c + L < n
def liveMask (n c : Nat) : Mask := maskBy fun L => 32 * c + L < (n + 3) / 4 * 4

/-- Units join a barrier that exists already: later gangs of a group or a grid. -/
def addMembers (s : State) (k : Nat) (us : List Nat) (exp : Nat) : State :=
  let b := s.exe.barriers.get { exp := exp } k
  { s with exe.barriers := s.exe.barriers.put k { b with units := us.foldl (fun t u => t.put u { member := true }) b.units } }

/-- Zeros written to a stretch of on-chip storage: its words have fresh codes (R37, R57). -/
def zeroRange (s : State) (loc n : Nat) : State :=
  let fresh (w : Nat) : Bool := !(loc ≤ 4 * w && 4 * w < loc + n)
  { s with mem := s.mem.filter fun c => !(loc ≤ c.1 && c.1 < loc + n)
           coh.badWords := s.coh.badWords.filter fresh, coh.soft := s.coh.soft.filter fresh }

/-- A gang allocated on a core: its crews' fragments at ENTRY, its registers, windows and barriers as placement sets them. -/
def allocGang (s : State) (tk : Nat) (t : Task) (n : Need) (gid core : Nat) (f : Fit) : State × Nat :=
  let gk := core * 16 + f.slot
  let gno := gid / n.group
  let old := (t.groups.find? fun g => g.1 = gno).map (·.2)
  let rk := old.getD (s.exe.ids + 1)
  let cl := clusterOfCore core
  let gr : Group := match old with
    | some k => let x := s.exe.groups.get {} k
                { x with placed := x.placed + 1 }
    | none => { used := true, task := tk, cluster := cl, cmBase := f.cm, cmSize := cmOf n, size := groupSize n gid, placed := 1 }
  let s1 := if old.isNone then { s with exe.ids := s.exe.ids + 1 }.zeroRange (locCluster cl (f.cm * 4096)) (cmOf n * 4096) else s
  let s2 := s1.zeroRange (locScratch core (f.sp * 2048)) (spOf n * 2048)
  let twin := (List.range 4).foldl (fun (w : Tbl W64) i => w.put i (BitVec.ofNat 64 (recF t.kdesc (24 + 8 * i) 8))) []
  let g : Gang := { used := true, task := tk, id := gid, group := rk, lanes := n.lanes, crews := f.crews.map (·.1), spBase := f.sp,
                    spSize := spOf n, tileBase := f.tile, tiles := n.tiles, twin := twin }
  let s3 := { s2 with
    exe.groups := s2.exe.groups.put rk gr
    exe.gangs := s2.exe.gangs.put gk g
    exe.tiles := s2.exe.tiles.filter fun x => !(x.1 / 64 = core && f.tile ≤ x.1 % 64 && x.1 % 64 < f.tile + n.tiles) }
  let s4 := f.crews.zipIdx.foldl (fun s c =>
    let live := liveMask n.lanes c.2
    let ord := ordMask n.lanes c.2
    let cw : Crew := { used := true, uid := s.exe.ids + 1, live := live, helpers := live &&& ~~~ord, gang := f.slot, idx := c.2, base := c.1.2, granules := granulesOf n }
    let fr : Frag := { mask := live, crew := c.1.1, ctl := { pc := BitVec.ofNat 52 n.entry }, age := s.clock }
    let ck := core * 64 + c.1.1
    let s1 := ({ s with exe.ids := s.exe.ids + 1 }.putCrew ck cw).putFrag (core * 320 + c.1.1) fr
    let bars := (List.range 2).foldl (fun (b : Tbl Barrier) i => b.put (4 * (i + 16 * ck)) (membersOf (lanesOf ord))) s1.exe.barriers
    { s1 with exe.barriers := bars }) s3
  let cks := f.crews.map fun c => core * 64 + c.1
  let s5 := (List.range 16).foldl (fun s i => s.addMembers (1 + 4 * (i + 16 * gk)) cks cks.length) s4
  let s6 := (List.range 8).foldl (fun s i => s.addMembers (2 + 4 * (i + 16 * rk)) cks (groupSize n gid * crewsOf n)) s5
  let s7 := if n.cor then (List.range 4).foldl (fun s i => s.addMembers (3 + 4 * (i + 16 * tk)) cks (n.ngangs * crewsOf n)) s6 else s6
  (s7, rk)

/-- The group that the next gang of a task joins, where it has been placed, and the cores on which the gang may stand (R362). -/
def nextGroup (t : Task) (n : Need) : Option (Nat × Nat) := t.groups.find? fun g => g.1 = t.next / n.group
def nextCores (s : State) (t : Task) (n : Need) : List Nat :=
  let el := s.eligible t.precinct t.pilot n
  match nextGroup t n with
  | some g => el.filter fun c => clusterOfCore c = (s.exe.groups.get ({} : Group) g.2).cluster
  | none => el

/-- Tasks that wait for room note on which cores it has appeared, and when (R362). -/
def noteRooms (s : State) : State :=
  { s with mgt.tasks := s.mgt.tasks.map fun (x : Nat × Task) =>
      let t := x.2
      let n := needOf t.record t.kdesc
      if t.state = .ready && t.searched then
        (x.1, { t with rooms := ((s.nextCores t n).filter fun c => (s.roomFor c n (nextGroup t n).isNone).isSome).map fun c =>
          (c, match t.rooms.find? fun r => r.1 = c with | some r => r.2 | none => s.clock) })
      else x }

/-- The core for the next gang (R362): searched from the previous one's place when it is first looked for, else the one on which room appeared
first, the lower of two at one clock. -/
def coreFor (s : State) (t : Task) (n : Need) : Option (Nat × Fit) :=
  let old := nextGroup t n
  let cs := s.nextCores t n
  let at_ (c : Nat) : Nat := ((t.rooms.find? fun r => r.1 = c).map (·.2)).getD s.clock
  let start := match t.prev with
    | some c => if n.pack then cs else (cs.filter (c < ·)) ++ cs.filter (· ≤ c)
    | none => cs
  if !t.searched then start.findSome? fun c => (s.roomFor c n old.isNone).map (c, ·)
  else cs.foldl (fun (b : Option (Nat × Fit)) (c : Nat) =>
    match s.roomFor c n old.isNone, b with
    | some f, none => some (c, f)
    | some f, some (d, _) => if at_ c < at_ d then some (c, f) else b
    | none, _ => b) none

/-- The next gang of a task placed, where a core has room. -/
def placeNext (s : State) (tk : Nat) : Option State :=
  match s.task tk with
  | none => none
  | some t =>
    let n := needOf t.record t.kdesc
    if n.ngangs ≤ t.next || t.stopped then none
    else match s.coreFor t n with
    | none => none
    | some (c, f) =>
      let (s1, rk) := s.allocGang tk t n t.next c f
      let gno := t.next / n.group
      let gs := if t.groups.any fun g => g.1 = gno then t.groups else t.groups ++ [(gno, rk)]
      some { s1 with mgt.tasks := s1.mgt.tasks.put tk { t with next := t.next + 1, searched := false, rooms := [], prev := some c, groups := gs } }

/-- Gangs placed one after another, at most so many. -/
def placeMany (tk : Nat) : Nat → State → State
  | 0, s => s
  | n + 1, s => match s.placeNext tk with | some s1 => placeMany tk n s1 | none => s

/-- The state with nothing on any core. -/
def bare (s : State) : State := { s with exe := {} }

/-- A task whose gangs could not all stand on its eligible cores together is refused co-residence (R361). -/
def corRefused (s : State) (tk : Nat) (t : Task) (n : Need) : Bool :=
  2048 < n.ngangs ||
    (let s1 := { s.bare with mgt.tasks := s.mgt.tasks.put tk t }
     ((placeMany tk n.ngangs s1).task tk).all fun t => t.next < n.ngangs)

/-- What makes a record malformed (R350, R357): the cause, the record's own fields before the blocks it names. `deps` and `circ`
are empty where not named. -/
def taskBad (s : State) (tk : Nat) (t : Task) : Option Byte :=
  let n := needOf t.record t.kdesc
  let el := s.eligible t.precinct t.pilot n
  match recordBad t.record with
  | some c => some c
  | none =>
  if (!n.pilot || !t.kdesc.isEmpty) && recF t.kdesc 0 8 % 8 ≠ 0 then some 3
  else if (!n.pilot || !t.kdesc.isEmpty) && kdescBad t.record t.kdesc then some 2
  else if el.isEmpty then some 2
  else if !t.deps.isEmpty && depsBad t.deps (s.precinct t.precinct).ncount then some 2
  else if !t.circ.isEmpty && s.circBad t.isl t.circ then some 2
  else if n.pilot then none
  else if el.any fun c => (s.bare.roomFor c n true).isNone then some 2
  else if n.cor && s.corRefused tk t n then some 2
  else none

end State

end Sys2Proof.Machine
end

