-- ==== Sys2Proof/Machine/Barrier.lean ====
section
/-! DEFINITION. Barriers: arrivals, flips, waits, exits, and their instructions (R203-R205, R239, R333-R336). -/

namespace Sys2Proof.Machine

open Sys2Proof

/-- The flip of a barrier (R204): the next phase, waiters to observe it, the expected count changed, members dropped and
joined, arrivals of lanes forgotten. -/
def Barrier.flip (b : Barrier) : Barrier :=
  { b with
    ph := b.ph + 1
    obs := b.waiters.length
    arr := 0
    exp := ((b.exp : Int) + b.delta).toNat
    delta := 0
    units := b.units.map fun u => (u.1, { u.2 with
      member := (u.2.member && !(u.2.bard && u.2.ph = some b.ph)) || (u.2.joined && u.2.ph = some b.ph)
      joined := false, bard := false, lanes := 0 }) }

/-- Arrivals have been counted: the barrier flips when they reach the expected count (R204). -/
def Barrier.settle (b : Barrier) : Barrier := if b.exp ≤ b.arr then b.flip else b

/-- Exits owed are counted as BARD arrivals once every waiter has observed the last phase (R205). -/
def Barrier.payExits (b : Barrier) : Barrier :=
  if b.obs = 0 && b.owed ≠ 0 then
    Barrier.settle { b with arr := b.arr + b.owed, delta := b.delta - b.owed, owed := 0 }
  else b

/-- A unit arrives: 0 plain, 1 BARD, 2 BARJ. -/
def Barrier.unitArrives (b : Barrier) (u : Nat) (x : BUnit) (drop join : Bool) : Barrier :=
  { b with arr := b.arr + 1, delta := b.delta - (if drop then 1 else 0) + (if join then 1 else 0)
           units := b.units.put u { x with ph := some b.ph, bard := drop, joined := join || x.joined } }

/-- A unit stops being a member because its last lane exits (R205). -/
def Barrier.unitLeaves (b : Barrier) (u : Nat) : Barrier :=
  let x := b.units.get {} u
  let here := x.ph = some b.ph
  if !x.member && !(x.joined && here) then b
  else
    let b1 := { b with units := b.units.put u { x with member := false, joined := false } }
    if !here then Barrier.payExits { b1 with owed := b1.owed + 1 }
    else if x.bard then b1
    else { b1 with delta := b1.delta - 1 }

namespace State

/-- The key of a barrier of a crew (R203): level, index, and the crew, gang, group or task it belongs to. -/
def barKey (s : State) (ck lvl idx : Nat) : Nat :=
  let g := s.gangAt (ck / 64 * 16 + (s.crewAt ck).gang)
  let owner := match lvl with
    | 0 => ck | 1 => ck / 64 * 16 + (s.crewAt ck).gang | 2 => g.group | _ => g.task
  lvl + 4 * (idx + 16 * owner)

def barAt (s : State) (k : Nat) : Barrier := s.exe.barriers.get {} k
def setBar (s : State) (k : Nat) (b : Barrier) : State := { s with exe.barriers := s.exe.barriers.put k b }

/-- The crew's live lanes that barriers count (R203). -/
def barLanes (c : Crew) : Mask := c.live &&& ~~~c.helpers

/-- The arrival of lanes of a crew would be accepted (R334). -/
def accepts (b : Barrier) (lvl ck : Nat) (ls : Mask) (join : Bool) : Bool :=
  b.obs = 0 &&
    (if lvl = 0 then (lanesOf ls).all fun L =>
        let x := b.units.get {} L
        x.ph ≠ some b.ph && (join || x.member)
     else
        let x := b.units.get {} ck
        ls &&& x.lanes = 0 && (join || x.member))

/-- The arrival of lanes recorded (R334): at crew level each lane counts; at a wider level the crew counts when its last
live lane that counts has arrived. -/
def recordArrival (b : Barrier) (lvl ck : Nat) (ls live : Mask) (kind : Nat) : Barrier :=
  if lvl = 0 then
    Barrier.settle ((lanesOf ls).foldl (fun b L => b.unitArrives L (b.units.get {} L) (kind = 1) (kind = 2)) b)
  else
    let x := b.units.get {} ck
    let x' := { x with lanes := x.lanes ||| ls, bard := x.bard || kind = 1, joined := x.joined || kind = 2 }
    if live &&& ~~~x'.lanes = 0 then Barrier.settle (b.unitArrives ck x' x'.bard x'.joined)
    else { b with units := b.units.put ck x' }

/-- Lanes of a crew leave: at crew level each is dropped, at wider levels the crew is dropped with its last lane, and its
arrival may be completed by the exit (R205). `c` is the crew after the exit. -/
def exitBarrier (s : State) (ck lvl idx : Nat) (gone : Mask) (c : Crew) : State :=
  let k := s.barKey ck lvl idx
  match s.exe.barriers.find k with
  | none => s
  | some b =>
    if lvl = 0 then s.setBar k ((lanesOf gone).foldl (fun b L => b.unitLeaves L) b)
    else
      let x := b.units.get {} ck
      if barLanes c = 0 then s.setBar k (b.unitLeaves ck)
      else if x.ph ≠ some b.ph && x.lanes ≠ 0 && barLanes c &&& ~~~x.lanes = 0 then
        s.setBar k (Barrier.settle (b.unitArrives ck x x.bard x.joined))
      else s

/-- Every barrier of a crew sees lanes leave it. -/
def exitBarriers (s : State) (ck : Nat) (gone : Mask) : State :=
  let c := s.crewAt ck
  let g := gone &&& ~~~c.helpers
  let one (lvl n : Nat) (s : State) : State := (List.range n).foldl (fun s i => s.exitBarrier ck lvl i g c) s
  if g = 0 then s else one 3 4 (one 2 8 (one 1 16 (one 0 2 s)))

end State

/-- The level and index a barrier instruction names (R239). -/
def RI.barLvl (x : RI) : Nat := x.subN % 4
def RI.barIdx (x : RI) : Nat := x.subN / 4 % 16

/-- An arrival (R333, R334): `kind` 0 plain, 1 BARD, 2 BARJ; `wait` registers the fragment as a waiter (BARS). An arrival
acts as a release at the barrier's scope first (R336). -/
def arriveBarrier (x : RI) (s : State) (kind : Nat) (wait : Bool) : State :=
  let m := s.act x.guard
  let ls := m &&& ~~~s.helpers
  if m = 0 then s.advance 1
  else if !s.released (State.levelScope (RI.barLvl x)) then s.stall 5 (.fence (RI.barLvl x))
  else if ls = 0 then s.advance 1
  else
    let k := s.barKey s.ckey (RI.barLvl x) (RI.barIdx x)
    let b := s.barAt k
    if State.accepts b (RI.barLvl x) s.ckey ls (kind = 2) then
      let b1 := if wait then { b with waiters := b.waiters ++ [s.fkey] } else b
      let s1 := (s.setBar k (State.recordArrival b1 (RI.barLvl x) s.ckey ls (State.barLanes s.crew) kind)).twinRelease s.ckey (RI.barLvl x)
      if wait then s1.stall 2 (.barrier k b.ph) else s1.advance 1
    else s.stall 2 (.arrival k)

/-- BARA: a plain arrival; the fragment runs on. -/
def execBara (x : RI) (s : State) : Out := .next (arriveBarrier x s 0 false)
/-- BARS: a plain arrival that waits for the phase. -/
def execBars (x : RI) (s : State) : Out := .next (arriveBarrier x s 0 true)
/-- BARD: an arrival that drops the unit. -/
def execBard (x : RI) (s : State) : Out := .next (arriveBarrier x s 1 false)
/-- BARJ: an arrival that makes the unit a member. -/
def execBarj (x : RI) (s : State) : Out := .next (arriveBarrier x s 2 false)

/-- BART: a plain arrival if it is accepted now; the predicate says which. A refused one orders nothing (R336). -/
def execBart (x : RI) (s : State) : Out :=
  .next (
    let m := s.act x.guard
    let ls := m &&& ~~~s.helpers
    let k := s.barKey s.ckey (RI.barLvl x) (RI.barIdx x)
    let b := s.barAt k
    if m = 0 then s.advance 1
    else if ls = 0 || State.accepts b (RI.barLvl x) s.ckey ls false then
      if !s.released (State.levelScope (RI.barLvl x)) then s.stall 5 (.fence (RI.barLvl x))
      else if ls = 0 then (s.wrP x.d m fun _ => true).advance 1
      else (((s.setBar k (State.recordArrival b (RI.barLvl x) s.ckey ls (State.barLanes s.crew) 0)).twinRelease s.ckey (RI.barLvl x)).wrP x.d m
              fun _ => true).advance 1
    else (s.wrP x.d m fun _ => false).advance 1)

/-- BARW (R335): waits when some active lane has arrived in the phase as a member or a joiner. It is a FENCE.acq, waiting or not (R125, R336): its
earlier reads are complete first, and it issues none while it waits. -/
def execBarw (x : RI) (s : State) : Out :=
  .next (
    let ls := s.act x.guard &&& ~~~s.helpers
    let k := s.barKey s.ckey (RI.barLvl x) (RI.barIdx x)
    let b := s.barAt k
    let due : Bool :=
      if RI.barLvl x = 0 then (lanesOf ls).any fun L =>
        let u := b.units.get {} L
        u.ph = some b.ph && (u.member || u.joined)
      else
        let u := b.units.get {} s.ckey
        ls &&& u.lanes ≠ 0 && (u.member || u.joined)
    if !s.acquired (State.levelScope (RI.barLvl x)) then s.stall 5 .retry
    else if due then (s.setBar k { b with waiters := b.waiters ++ [s.fkey] }).stall 2 (.barrier k b.ph)
    else (s.twinAcquire s.ckey (RI.barLvl x)).advance 1)

/-- A registered waiter whose phase is over becomes ready, having completed its wait (R204). It has read nothing since it was registered. -/
def wakeBarrier (s : State) (k : Nat) : State :=
  let b := s.barAt k
  let b1 := Barrier.payExits { b with obs := b.obs - 1, waiters := b.waiters.filter (· ≠ s.fkey) }
  let f := s.frag
  let s1 := (s.setBar k b1).setFrag
    { f with state := if f.ctl.sup then .handling else .ready, wait := 0, waitFor := .none, passed := 0, age := s.clock }
  (s1.twinAcquire s1.ckey (k % 4)).advance 1

end Sys2Proof.Machine
end

