-- ==== Sys2Proof/Machine/Control.lean ====
section
/-! DEFINITION. Control transfers: targets, splits, serial splits, calls, exits (R32, R189, R194, R197-R200, R206, R216,
R218, R247-R256, R261). -/

namespace Sys2Proof.Machine

open Sys2Proof

/-- Where a lane goes. -/
inductive Dest
  | to (pc : Nat)
  | bad (f : LFault)
  deriving DecidableEq, Repr

namespace State

/-- The address of a word offset from the clause header (R218), modulo 2^64. -/
def relTarget (s : State) (ofs : Int) : W64 := BitVec.ofInt 64 ((s.ctl.pc.toNat : Int) + 8 * ofs)

/-- The cause of a target that fails R32, in the order of R24. -/
def targetFault (s : State) (t : W64) : Option Byte :=
  let a := t.toNat
  if 2 ^ 52 ≤ a then some 2
  else if a % 8 ≠ 0 then some 3
  else if a < 0x10000 then some 1
  else if (s.apHit s.me a [0, 1, 2, 3, 4, 5]).isSome then some 2
  else none

/-- Lanes a control transfer moves: those of MASK, in a handler without those that wait with it. -/
def branchLanes (s : State) : Mask := if s.sup then s.lanes else s.frag.mask

/-- A lane that faults, or a helper lane that goes to the fall-through instead (R10, R247). -/
def badDest (s : State) (L : Nat) (c : Byte) (a : W64) (fpte : W64) : Dest :=
  if s.helpers.getLsbD L then .to s.fallPc else .bad { lane := L, cause := c, addr := some a, fpte := some fpte }

/-- Where a lane goes that takes a target (R247). -/
def destOf (s : State) (L : Nat) (t : W64) : Dest :=
  match s.targetFault t with
  | none => .to t.toNat
  | some c => s.badDest L c t 0

/-! Splits (R189, R197, R198, R248). -/

/-- Each group in an entry of its own, at its target with the token; none when the entries run out. -/
def partsGo (s : State) (token : BitVec 12) : List (Mask × Nat) → Option (State × List (Nat × Nat))
  | [] => some (s, [])
  | (m, pc) :: r =>
    match s.freeEntry s.core s.frag.crew with
    | none => none
    | some e =>
      let f := s.frag
      let k := s.core * 320 + e
      let n : Frag := { mask := m, token := token, crew := f.crew, state := f.state, fork := s.exe.ids, rel := f.rel,
                        ctl := { f.ctl with pc := BitVec.ofNat 52 pc, cpos := 0, wrv := none, code := [] }, age := s.clock }
      match ((s.inheritAt s.ckey [s.entry] e).putFrag k n).partsGo token r with
      | none => none
      | some (s1, ks) => some (s1, (k, pc) :: ks)

/-- The first group stays in the fragment's entry, the others take new ones, and all come to their clauses. -/
def parts (s : State) (token : BitVec 12) (gs : List (Mask × Nat)) : Option State :=
  match gs with
  | [] => none
  | g :: r =>
    match s.partsGo token r with
    | none => none
    | some (s1, ks) =>
      let f := s1.frag
      let s2 := s1.setFrag { f with mask := g.1 ||| (if f.ctl.sup then f.xmask else 0), token := token, fork := s1.exe.ids }
      let s3 := ks.foldl (fun s k => { { s with cur := .frag s1.core (k.1 % 320) }.goAt k.2 with cur := s1.cur }) s2
      some (s3.goAt g.2)

/-- The places of the next `n` spill records: the base slot, else the lowest free usable slots of the spill area (R198). -/
def spillPlaces (s : State) (n : Nat) : List (Option Nat) :=
  let c := s.crew
  let size := s.lpsize s.gang
  let area := (List.range 63).filter fun i => 4 * (i + 1) ≤ size && !(c.spills.any fun r => r.slot = some i)
  ((if c.spills.any fun r => r.slot.isNone then [] else [none]) ++ area.map some).take n

inductive SpillRes
  | ok (s : State) (rs : List Spill) (ps : List Piece)
  | fault (s : State) (c : Byte) (a fpte : W64)
  | busy (s : State)

/-- The words of a spill record as lane-private stores of lanes 0 to 7 (R26, R198). -/
def spillPieces (s : State) (w : Who) (o : Nat) (bs : List Byte) : List Nat → State × LRes × List Piece
  | [] => (s, .ok [] 0, [])
  | L :: Ls =>
    match s.lpParts w .store L [(o, 4)] with
    | (s1, .ok ls ca) =>
      let ps := piecesOf ca (ls.map fun l => (l.1, l.2, s.lpBacking w o L)) ((bs.drop (4 * L)).take 4)
      if ls.any fun l => s1.badWrite [] l.1 l.2 then (s1, .fault 4 (BitVec.ofNat 64 (s.lpBacking w o L)) 0, [])
      else match s1.spillPieces w o bs Ls with
      | (s2, r, ps') => (s2, r, ps ++ ps')
    | (s1, r) => (s1, r, [])

/-- Spill records for groups at their places, oldest first, with the stores they make. -/
def spillRecs (s : State) : List (Spill × Option Nat) → SpillRes
  | [] => .ok s [] []
  | (r0, slot) :: more =>
    let r := { r0 with slot := slot }
    match slot with
    | none => match s.spillRecs more with
      | .ok s1 rs ps => .ok s1 (r :: rs) ps
      | x => x
    | some i => match s.spillPieces s.me (s.lpsize s.gang - 4 * (i + 1)) (spillBytes r) [0, 1, 2, 3, 4, 5, 6, 7] with
      | (s1, .ok _ _, ps) => match s1.spillRecs more with
        | .ok s2 rs ps' => .ok s2 ({ r with locs := ps.map fun p => (p.loc, p.va, p.ca) } :: rs) (ps ++ ps')
        | x => x
      | (s1, .fault c a f, _) => .fault s1 c a f
      | (s1, _, _) => .busy s1

/-- Groups spilled, all of them or none (R197, R198): the newest record is that of the last. -/
def spillAll (s : State) (rs : List Spill) : Except State SpillRes :=
  let c := s.crew
  let places := s.spillPlaces rs.length
  if places.length < rs.length then .error s
  else
    let seqd := rs.zipIdx.map fun r => { r.1 with seq := (c.spillSeq + r.2) % 2 ^ 32 }
    .ok (s.spillRecs (seqd.zip places))

/-- The fragment waits with WAIT = 6; the wait is counted and reported once (R200). -/
def berthWait (s : State) : State :=
  let s1 := if s.frag.waitFor = .berth then s
            else (s.bumpCounter s.core 5).postMine 7 0 s.frag.ctl.pc.toNat 0
  s1.stall 6 .berth

/-- Spill records pushed: the fragment then goes on as `go` says. -/
def pushSpills (s : State) (rs : List Spill) (go : State → State) : State :=
  match s.spillAll rs with
  | .error _ => s.berthWait
  | .ok (.busy s1) => s1.stall 7 .retry
  | .ok (.fault s1 c a f) => s1.moorAll c (some a) (some f)
  | .ok (.ok s1 rs ps) =>
    if s1.bufferFull s1.me ps then s1.stall 7 .room
    else
      let s2 := s1.setCrew { s1.crew with spills := s1.crew.spills ++ rs, spillSeq := s1.crew.spillSeq + rs.length }
      let s3 := if ps.isEmpty then s2 else s2.push s2.me ps 0 none (s2.exe.ids + 1) [s2.entry]
      go ((s3.bumpCounter s3.core 3).postMine 5 0 s.frag.ctl.pc.toNat 0)

/-- A split made serially (R197): the first group stays, the others are spilled, the newest record the second group's. A token without a
join address gives the records none that the fragment reaches (DEDUCED, unsafe: log 20). -/
def serialSplit (s : State) (gs : List (Mask × Nat)) (j : Option (BitVec 52)) : State :=
  match gs with
  | [] => s
  | g :: r =>
    let f := s.frag
    let rs := r.reverse.map fun g => ({ pend := g.1, done := 0, target := BitVec.ofNat 52 g.2, past := 2 ^ 52 ≤ g.2, owner := s.entry, jaddr := j.getD 0, seq := 0,
                                        slot := none, token := f.token, fork := s.exe.ids } : Spill)
    s.pushSpills rs fun s1 => (s1.setFrag { s1.frag with mask := g.1 ||| (if f.ctl.sup then f.xmask else 0), fork := s.exe.ids }).goAt g.2

/-- The token of a split into `n` groups (R189, R248): kept when the join is the token's own or for RET, else fresh. -/
def splitToken (s : State) (j : Option (BitVec 52)) (ret : Bool) (n : Nat) : Option (State × BitVec 12) :=
  let f := s.frag
  if ret || (f.token ≠ 0 && j.isSome && (s.joinAt s.core f.token).jaddr = j) then
    some (s.addPend s.core f.token (n - 1), f.token)
  else (s.freshToken s.core).map fun t => (s.takeJoin s.core t j f.token n f.crew, t)

/-- The division of a fragment whose lanes do not all go to one place (R248). Where a faulting group finds no entry (R199) no token is taken, and
when the handler returns every lane of the entry executes the branch again (DESIGN CHOICE, unsafe: log 142). -/
def split (s : State) (fs : List LFault) (gs : List (Mask × Nat)) (j : Option (BitVec 52)) (ret : Bool) : State :=
  let s1 := s.moorLanes fs false
  if s1.frag.state = .moored then s1
  else
    let whole : Option State :=
      match s.splitToken j ret gs.length with
      | none => none
      | some (s2, t) => ((s2.setFrag { s2.frag with token := t }).moorLanes fs false).parts t gs
    match whole with
    | some s3 => s3
    | none => s1.serialSplit gs (if ret then (if s.frag.token = 0 then none else (s.joinAt s.core s.frag.token).jaddr) else j)

/-- Lanes with their destinations, groups in the order of `order` (R247, R248). -/
def divide (s : State) (ds : List (Nat × Dest)) (order : List Nat) (j : Option (BitVec 52)) (ret : Bool) : State :=
  let fs := ds.filterMap fun d => match d.2 with | .bad f => some f | .to _ => none
  let gs := order.eraseDups.map fun pc => (maskOf ((ds.filter fun d => d.2 = .to pc).map (·.1)), pc)
  match fs, gs with
  | [], [] => s.goAt s.fallPc
  | [], [g] => s.goAt g.2
  | fs, gs =>
    if s.frag.window.isSome then s.stall 5 .window
    else if gs.isEmpty then s.moorLanes fs false
    else s.split fs gs j ret

/-- Targets in order of their lowest lane. -/
def laneOrder (ds : List (Nat × Dest)) : List Nat := ds.filterMap fun d => match d.2 with | .to pc => some pc | .bad _ => none

/-- Every lane goes to one target, or a Pilot thread does (R247). -/
def allTo (s : State) (t : W64) : State :=
  if s.pilot then
    match s.targetFault t with
    | none => s.goAt t.toNat
    | some c => s.pilotFault c (some t) (some 0) false s.ctl.pc s.ctl.cpos
  else
    let ds := (lanesOf s.branchLanes).map fun L => (L, s.destOf L t)
    s.divide ds (laneOrder ds) none true

/-- The join address of a branch, or none where it lies outside the virtual space (R218). -/
def joinAddr (s : State) (ofs : Int) : Except W64 (BitVec 52) :=
  let x := (s.ctl.pc.toNat : Int) + 8 * ofs
  if 0 ≤ x && x < 2 ^ 52 then .ok (BitVec.ofInt 52 x) else .error (BitVec.ofInt 64 x)

end State

/-- BRA (R249). -/
def execBra (x : BI) (s : State) : Out :=
  .next (if s.qguard x.guard then s.allTo (s.relTarget x.tgt.toInt) else s.goAt s.fallPc)

/-- BRX: active lanes to the target, the others to the fall-through, the taken group first (R250). -/
def execBrx (x : BI) (s : State) : Out :=
  .next (match s.joinAddr x.join.toInt with
    | .error a => s.moorAll 2 (some a) (some 0)
    | .ok j =>
      let t := s.relTarget x.tgt.toInt
      let all := s.branchLanes
      let m := all &&& s.guardMask x.guard
      let ds := (lanesOf all).map fun L => (L, if m.getLsbD L then s.destOf L t else .to s.fallPc)
      let taken := ds.filterMap fun d => match d.2 with | .to pc => if m.getLsbD d.1 then some pc else none | .bad _ => none
      s.divide ds (taken ++ State.laneOrder ds) (some j) false)

/-- One table entry of a BRI: a 4-byte fetch (R251). -/
def briEntry (s : State) (a : W64) : State × Except (Byte × W64) (Option W32) :=
  match s.resolve s.me a 4 .fetch with
  | (s1, .pa _ _) =>
    match s1.fetchWords (a.toNat / 8 * 8) 1 with
    | (s2, .ok ws) => (s2, .ok (some (if a.toNat % 8 = 0 then (ws.headD 0).extractLsb' 0 32 else (ws.headD 0).extractLsb' 32 32)))
    | (s2, .fault c _ f) => (s2, .error (c, f))
    | (s2, .busy) => (s2, .ok none)
  | (s1, .fault c f) => (s1, .error (c, f))
  | (s1, _) => (s1, .ok none)

/-- Destinations of the active lanes of a BRI, in lane order; none where a table entry cannot be read yet. -/
def briDests (n : Nat) (t : W64) (idx : Nat → W32) : List Nat → State → State × Option (List (Nat × Dest))
  | [], s => (s, some [])
  | L :: Ls, s =>
    let i := (idx L).toNat
    let a := t + BitVec.ofNat 64 (4 * i)
    let here : State × Option Dest :=
      if n ≤ i then (s, some (s.badDest L 5 a 0))
      else match briEntry s a with
        | (s1, .ok (some e)) => (s1, some (s1.destOf L (t + (e.signExtend 64) * 8)))
        | (s1, .ok none) => (s1, none)
        | (s1, .error (c, f)) => (s1, some (s1.badDest L c a f))
    match here with
    | (s1, none) => (s1, none)
    | (s1, some d) =>
      match briDests n t idx Ls s1 with
      | (s2, some ds) => (s2, some ((L, d) :: ds))
      | r => r

/-- BRI: each active lane to its entry of a jump table (R251). -/
def execBri (x : RI) (s0 : State) : Out :=
  .next (
    let r := s0.walk [x.b]
    let s := r.2
    let lit := x.lit.getD 0
    match s.joinAddr (lit.extractLsb' 8 20).toInt with
    | .error a => s.moorAll 2 (some a) (some 0)
    | .ok j =>
      let all := s.branchLanes
      let m := all &&& s.guardMask x.guard
      let t := s.relTarget (lit.extractLsb' 28 24).toInt
      match briDests (s.u32 r.1 x.lit x.b).toNat t (fun L => s.rdV (vnum x.a) L) (lanesOf m) s with
      | (s1, none) => s1.stall 7 .retry
      | (s1, some ds) =>
        let rest := (lanesOf (all &&& ~~~m)).map fun L => (L, Dest.to s1.fallPc)
        let all' := (lanesOf all).filterMap fun L => (ds ++ rest).find? (·.1 = L)
        s1.divide all' (State.laneOrder all') (some j) false)

/-- JOIN (R252). It takes its fresh token, or posts event 8 and raises the berth-wait counter, before it transfers, also where every target then
faults (DESIGN CHOICE, unsafe: log 43). -/
def execJoin (x : BI) (s : State) : Out :=
  .next (match s.joinAddr x.join.toInt with
    | .error a => s.moorAll 2 (some a) (some 0)
    | .ok j =>
      let f := s.frag
      let s1 :=
        if f.token ≠ 0 && (s.joinAt s.core f.token).jaddr = some j then s
        else match s.freshToken s.core with
          | some t => (s.takeJoin s.core t (some j) f.token 1 f.crew).setFrag { f with token := t }
          | none => (s.bumpCounter s.core 5).postMine 8 0 f.ctl.pc.toNat 0
      s1.allTo (s1.relTarget x.tgt.toInt))

/-- CALL: the return address into the pair of every lane, then the target (R253). -/
def execCall (x : BI) (s : State) : Out :=
  .next (
    if s.qguard x.guard then
      let ret : W64 := BitVec.ofNat 64 (s.fallPc % 2 ^ 52)
      let s1 := if s.pilot then s.wrS64 (.s (x.x.extractLsb' 0 7)) ret else s.wrV64 x.x.toNat s.branchLanes fun _ => ret
      s1.allTo (s1.relTarget x.tgt.toInt)
    else s.goAt s.fallPc)

/-- RET: each lane to the address in its pair (R254). -/
def execRet (x : RI) (s : State) : Out :=
  .next (
    let r := s.walk [x.a]
    let s := r.2
    if !s.qguard x.guard then s.goAt s.fallPc
    else if s.pilot then s.allTo (s.u64 r.1 none x.a)
    else
      let ds := (lanesOf s.branchLanes).map fun L => (L, s.destOf L (s.v64 r.1 none x.a L))
      s.divide ds (State.laneOrder ds) none true)

/-! Exits (R190, R194, R205, R206). -/

namespace State

/-- A branch of a split ends (R190, R194): its token's PEND falls, and at zero the waiting fragments fuse, or the entry is
freed and the branch it belongs to ends in turn, up to the token `stop`. -/
def branchEnds (core slot : Nat) (stop : Option (BitVec 12)) : Nat → State → BitVec 12 → State × Bool
  | 0, s, _ => (s, false)
  | fuel + 1, s, t =>
    if some t = stop then (s, true)
    else if t = 0 then (s, false)
    else
      let j := s.joinAt core t
      let s1 := s.setJoin core t { j with pend := j.pend - 1 }
      if 1 < j.pend then (s1, false)
      else if (s1.fragsOf core).any fun f => f.2.token = t && f.2.waitFor = .join then
        let (s2, k) := s1.fuse core t
        ({ { s2 with cur := .frag core (k % 320) }.arriveGo 260 with cur := s.cur }, false)
      else
        let s2 := s1.freeJoin core t
        let s3 := if j.jaddr.isNone then s2.putCrew (core * 64 + slot) { s2.crewAt (core * 64 + slot) with handling := none }
                  else s2
        branchEnds core slot stop fuel s3 j.ptoken

/-- The current entry holds no lane any more. Lanes it spilled take it over, their first clause following no HOLD clause (DEDUCED, unsafe: log 20);
otherwise it is freed and its branch ends. -/
def emptied (s : State) : State :=
  let f := s.frag
  let c := s.crew
  match newestSpill c s.entry with
  | none => (branchEnds s.core f.crew none 260 (s.putFrag s.fkey {}) f.token).1
  | some r =>
    let (s1, reached) := branchEnds s.core f.crew (some r.token) 260 (s.putFrag s.fkey {}) f.token
    let s2 := if reached then s1 else s1.addPend s.core r.token 1
    let c2 := s2.crewAt (s.core * 64 + f.crew)
    let g : Frag := { f with token := r.token, age := s.clock, run := 0, lastHold := false, lastYield := false,
                             state := if f.ctl.sup then .handling else .ready, wait := 0, waitFor := .none, passed := 0 }
    if r.pend ≠ 0 then
      ((s2.updateSpill (s.core * 64 + f.crew) r { r with pend := 0 }).putFrag s.fkey
        { g with mask := r.pend, ctl := spillCtl f.ctl r, fork := r.fork }).arrive
    else
      ((s2.putCrew (s.core * 64 + f.crew) { c2 with spills := c2.spills.erase r }).putFrag s.fkey
        { g with mask := r.done, fork := s.exe.ids, ctl := { f.ctl with pc := r.jaddr, past := false, cpos := 0, wrv := none, code := [] } }).arrive

/-- An ordinary lane's status enters the gang's completion record (R206). -/
def noteExit (g : Gang) (lane : Nat) (st : Nat) : Gang :=
  let g1 := { g with left := g.left + 1, nz := g.nz + (if st = 0 then 0 else 1) }
  if g.left = 0 || g.maxst < st || (g.maxst = st && lane < g.maxlane) then { g1 with maxst := st, maxlane := lane } else g1

/-- The completion record's bytes (R206). -/
def recordBytes (g : Gang) (time : Nat) : List Byte :=
  byteList 2 g.maxst ++ byteList 2 g.nz ++ byteList 2 g.maxlane ++ byteList 2 0 ++ byteList 8 time

/-- Every access of the gang, and every store that stood in its core's buffer or with the host when its last lane left, is performed (R120,
R206). -/
def gangReleased (s : State) (core : Nat) (g : Gang) (ak : Nat) : Bool :=
  let cks := g.crews.map (core * 64 + ·)
  !(cks.any fun ck => (s.crewAt ck).ops.any fun o => isAccess o.2) && !((s.eng.replays.get [] core).any fun r => cks.contains r.1)
    && !(s.coh.wbuf.any fun e => cks.contains e.crew || (e.core = ak && e.id ≤ g.leftIds)) && !(s.coh.wow.any fun w => w.po ≤ g.leftIds)

/-- The completion record of a gang is stored, with release at system scope, in the mode of the launch; a store that
faults loses it with an event that carries the fault's cause, as R357 says (DEDUCED, unsafe: log 138; R206). Not yet while what the release covers is to be performed. -/
def writeRecord (s : State) (gk : Nat) : State :=
  let g := s.gangAt gk
  match s.taskOf g with
  | none => { s with exe.gangs := s.exe.gangs.put gk { g with written := true } }
  | some t =>
    let a : W64 := BitVec.ofNat 64 (recN t.record 32 8 % 2 ^ 52 + g.id * 16)
    let ck := gk / 16 * 64 + g.crews.headD 0
    let w : Who := { s.crewWho ck t.sup with gang := some gk, spn := t.spn }
    let done (s : State) : State := { s with exe.gangs := s.exe.gangs.put gk { g with written := true } }
    let lost (s : State) (c : Byte) : State := done (s.postEvent t.precinct 9 c.toNat (gk / 16 % 128) (g.crews.headD 0) 0 a)
    if !s.gangReleased (gk / 16) g (agentKey w) then s
    else match s.laneAccess w 0 a 16 .store false with
    | (s1, .ok ls ca) =>
      let ps := piecesOf ca (s1.withVas w 0 a ls) (recordBytes g g.leftAt)
      if ls.any fun l => s1.badWrite [] l.1 l.2 then lost s1 4
      else if s1.bufferFull w ps then s1
      else done (s1.push w ps 0 none (s1.exe.ids + 1) [])
    | (s1, .fault c _ _) => lost s1 c
    | (s1, _) => s1

/-- Every ordinary lane of the gang has left: the helper lanes leave with them, and the record is written (R206). -/
def gangLeaves (s : State) (gk : Nat) : State :=
  let g := s.gangAt gk
  let core := gk / 16
  let s1 := g.crews.foldl (fun s slot =>
    let fs := (s.fragsOfCrew core slot).map (·.1)
    let s1 := fs.foldl (fun s k => s.putFrag k {}) s
    let s2 := { s1 with exe.joins := s1.exe.joins.map fun (j : Nat × Join) => if j.1 / 256 = core && j.2.used && j.2.crew = slot then (j.1, { gen := j.2.gen }) else j }
    s2.putCrew (core * 64 + slot) { s2.crewAt (core * 64 + slot) with live := 0, handling := none, spills := [] }) s
  s1.writeRecord gk

end State

/-- The scope at which an EXIT of lanes releases: it may count as an arrival of its lanes at crew level, and of the whole crew at every level when
its last live lanes leave (R125, R205; DEDUCED, safe: log 135). -/
def State.exitScope (s : State) (m : Mask) : Nat := if s.crew.live &&& ~~~m &&& ~~~s.helpers = 0 then 3 else 0

/-- EXIT: active lanes leave with their status (R206, R255); the others go to the fall-through. -/
def execExit (x : RI) (s0 : State) : Out :=
  .next (
    let r := s0.walk [x.a]
    let s := r.2
    let m := s.act x.guard
    let f := s.frag
    if m = 0 then s.goAt s.fallPc
    else match s.takeErr fun _ => true with
    | some s1 => s1
    | none =>
      if !s.released (s.exitScope m) then s.stall 5 (.fence (s.exitScope m)) else
      let c := s.crew
      let gk := s.gangKey
      let ord := lanesOf (m &&& ~~~s.helpers)
      let g := ord.foldl (fun g L => State.noteExit g (c.idx * 32 + L) ((s.v32 r.1 x.lit x.a L).toNat % 2 ^ 16)) s.gang
      let g := { g with leftAt := s.clock, leftIds := s.exe.ids }
      let s1 := { s.setCrew { c with live := c.live &&& ~~~m } with exe.gangs := s.exe.gangs.put gk g }
      let s2 := s1.exitBarriers s.ckey m
      if g.left = g.lanes then s2.gangLeaves gk
      else if f.mask &&& ~~~m = 0 then s2.emptied
      else (s2.setFrag { f with mask := f.mask &&& ~~~m }).goAt s.fallPc)

/-- YIELD: the fragment counts as made ready now (R256). -/
def execYield (x : RI) (s : State) : Out :=
  .next ((if s.qguard x.guard && !s.pilot then s.setFrag { s.frag with age := s.clock } else s).advance 1)

/-- NOP (R256). -/
def execNop (_x : RI) (s : State) : Out := .next (s.advance 1)

/-- BRW: every lane to the target when the walker's flag of the dimension is as the sense asks (R261). -/
def execBrw (x : BI) (s : State) : Out :=
  .next (
    let w := s.walker (x.x.extractLsb' 0 3).toNat
    let e := match (x.x.extractLsb' 3 2).toNat with | 0 => w.d0.e | 1 => w.d1.e | 2 => w.d2.e | _ => w.d3.e
    if s.qguard x.guard && e != x.x.getLsbD 5 then s.allTo (s.relTarget x.tgt.toInt) else s.goAt s.fallPc)

end Sys2Proof.Machine
end

