-- ==== Sys2Proof/Machine/System.lean ====
section
/-! DEFINITION. Traps, breakpoints, the return from a handler, system registers and the frame pool (R34, R35, R81-R84, R195,
R196, R223, R224, R337-R342, R347, R367, R372). -/

namespace Sys2Proof.Machine

open Sys2Proof

/-! Traps and breakpoints (R337, R338). -/

/-- TRAP: the whole fragment is moored with cause 0x40 + n, to go on at the fall-through clause. -/
def execTrap (x : II) (s : State) : Out :=
  .next (
    let c : Byte := 0x40 + (x.imm.extractLsb' 0 6).setWidth 8
    let here : W64 := s.ctl.pc.setWidth 64
    let next := BitVec.ofNat 52 s.fallPc
    let past : Bool := 2 ^ 52 ≤ s.fallPc
    if !s.qguard x.guard then s.goAt s.fallPc
    else if s.pilot then s.pilotFault c (some here) none true next 0 past
    else if s.sup then s.moorAll c (some here)
    else
      let fs := (lanesOf s.frag.mask).map fun L => ({ lane := L, cause := c, addr := some here } : LFault)
      let s1 := s.setCrew (State.noteFaults s.crew fs)
      let s2 := s1.moorHere c 0 true false
      s2.setCtl { s2.ctl with pc := next, past := past, cpos := 0, wrv := none, code := [] })

/-- BKPT: an armed breakpoint stops the fragment and posts its event (R338, R374). -/
def execBkpt (x : II) (s : State) : Out :=
  .next (
    if s.qguard x.guard && (s.precinct s.myPrecinct).armbp then
      (s.stall 7 .breakpoint).postMine 12 0 s.ctl.pc.toNat ((x.imm.extractLsb' 0 16).setWidth 64)
    else s.advance 1)

/-! Return from a handler (R195, R339). -/

namespace State

/-- The words of the instruction at a place, by its encoding. -/
def wordsAt (s : State) (c : Ctl) : Nat :=
  let w : Option W64 := if !c.code.isEmpty then c.code[c.cpos]? else
    match (s.fetchWords (c.pc.toNat + 8 * c.cpos) 1).2 with | .ok ws => ws.head? | _ => none
  match w with
  | some w => match decodeWord false w 0 with | .ok i => i.words | .error _ => 1
  | none => 1

/-- A place moved past an instruction of `k` words; none at the clause's end, where the next clause follows. -/
def ctlAfter (c : Ctl) (k : Nat) : Ctl :=
  if c.cpos + k ≤ c.hdr.len.toNat + 1 then { c with cpos := c.cpos + k, wrv := none }
  else
    let pc := c.pc.toNat + 8 * (c.hdr.len.toNat + 2)
    { c with pc := BitVec.ofNat 52 pc, past := 2 ^ 52 ≤ pc, cpos := 0, wrv := none, code := [] }

/-- A fragment that stands at a clause boundary may join there (R190). -/
def arriveHere (s : State) : State := if s.ctl.cpos = 0 then s.arrive else s

/-- RETT of a fragment to a new place while other lanes wait with it: a BRX split towards the user token's join, made serially when the
entries have run out (R195, R197). The lanes that go to the new place are its first group. -/
def rettSplit (s : State) (pc : BitVec 52) : State :=
  let f := s.frag
  let go := f.mask &&& ~~~f.xmask
  let u := s.crew.saved
  let after := ctlAfter { u with sup := false } (s.wordsAt u)
  let user := (s.joinAt s.core f.token).ptoken
  let j : Option (BitVec 52) := if user = 0 then none else (s.joinAt s.core user).jaddr
  let first (s : State) : State := let s1 := s.leaveHandler (some pc)
                                   s1.setFrag { s1.frag with mask := go, xmask := 0, fork := s.exe.ids }
  match s.freeEntry s.core f.crew with
  | none =>
    s.pushSpills [{ pend := f.xmask, done := 0, target := after.pc, past := after.past, code := after.code, owner := s.entry, fork := s.exe.ids, jaddr := j.getD 0, seq := 0, slot := none,
                    cpos := after.cpos, hdr := after.hdr, token := user }] fun s1 => (first s1).arriveHere
  | some e =>
    let s1 := first s
    let s2 := s1.splitOff s.core s1.frag s.entry e { mask := f.xmask, state := .ready, ctl := after, age := s.clock }
    { { s2.arriveHere with cur := .frag s.core e }.arriveHere with cur := s.cur }

end State

/-- RETT (R195, R235, R339). -/
def execRett (x : RI) (s0 : State) : Out :=
  .next (
    let r := s0.walk [x.a]
    let s := r.2
    let newpc := x.sub.getLsbD 0
    let t := s.u64 r.1 none x.a
    if !s.sup then s.moorAll 0x11 none
    else if !s.qguard x.guard then s.goAt s.fallPc
    else if s.pilot then
      (match (if newpc then s.targetFault t else none) with
       | some c => s.pilotFault c (some t) (some 0) false s.ctl.pc s.ctl.cpos
       | none =>
         let u := s.thread.saved
         s.setThread { s.thread with ctl := if newpc then { u with pc := t.setWidth 52, past := false, cpos := 0, sup := false, wrv := none, code := [] } else { u with sup := false },
                                     lastHold := false })
    else if s.crew.handling ≠ some s.frag.token then s.freeze 0x10 0
    else match (if newpc then s.targetFault t else none) with
    | some c => s.moorAll c (some t) (some 0)
    | none =>
      if !newpc then (s.leaveHandler none).arriveHere
      else if s.frag.xmask ≠ 0 then s.rettSplit (t.setWidth 52)
      else (s.leaveHandler (some (t.setWidth 52))).arriveHere)

/-! System registers (R34, R42, R84, R164, R173, R224, R340, R341, R347, R367, R372). -/

namespace State

/-- Tasks held in an island's window (R347, R358). -/
def windowOf (s : State) (isl : Nat) : List (Nat × Task) :=
  s.mgt.tasks.filter fun t => t.2.isl = isl && t.2.state ≠ .entering && t.2.state ≠ .done

/-- A register of identity, address and translation, 0x000 to 0x06F, in a lane. -/
def readLow (s : State) (i L : Nat) : W64 :=
  let n (v : Nat) : W64 := BitVec.ofNat 64 v
  let c := s.ctx s.isl s.spn
  let g := s.gang
  let core (v : W64) : W64 := if s.pilot then 0 else v
  match i with
  | 0x000 => core (n L)
  | 0x001 => core (n s.crew.idx)
  | 0x002 => core (n g.id)
  | 0x003 => n s.clock
  | 0x004 => if s.pilot then s.thread.launchtag.setWidth 64 else (match s.taskOf g with | some t => t.tag.setWidth 64 | none => 0)
  | 0x010 => n s.spn
  | 0x011 => n s.isl
  | 0x012 => n (s.cluster % 16)
  | 0x013 => if s.pilot then 0x7FFFFF else n (s.core % 128)
  | 0x048 => core (n (g.spBase + g.spSize * 2 ^ 8))
  | 0x049 => core (n ((s.groupOf g).cmBase + (s.groupOf g).cmSize * 2 ^ 8))
  | 0x04A => c.bsnwin
  | 0x04B => core (n (s.lpsize g))
  | 0x04C => core (n (s.lpback g))
  | 0x050 | 0x051 | 0x052 | 0x053 => core (g.twin.get 0 (i - 0x050))
  | 0x060 => c.ptroot
  | 0x061 => c.ptarena
  | 0x062 => c.ptview
  | 0x063 => (s.precinct s.myPrecinct).fpool
  | _ => c.aps.get 0 (i - 0x040)

/-- `sys.fpte` of a lane: what the last fault wrote, while the lane is in handling; otherwise undefined once a fault has
written it (R84, R363). In a handler entered by a fault that is no translation fault the spec gives it no value, and it keeps what an earlier
fault wrote (DESIGN CHOICE, unsafe: log 114). -/
def readFpte (s : State) (L : Nat) : W64 :=
  let v : Option W64 := if s.pilot then (if s.thread.fpte = 0 then none else some s.thread.fpte) else s.crew.fpte.find L
  match v with
  | none => 0
  | some p => if s.sup then p else Config.freeWord (s.choices + L) &&& 0xFFFFFFFFFFFF

/-- A register from 0x070 on, in a lane. -/
def readHigh (s : State) (i L : Nat) : W64 :=
  let n (v : Nat) : W64 := BitVec.ofNat 64 v
  let p := s.precinct s.myPrecinct
  let g := s.gang
  let rec_ : List Byte := match s.taskOf g with | some t => t.record | none => []
  let core (v : W64) : W64 := if s.pilot then 0 else v
  match i with
  | 0x070 => n (p.nbase + p.ncount * 2 ^ 16)
  | 0x071 => s.uni.rerr
  | 0x072 => s.uni.rerra
  | 0x080 => core (s.crew.astat.setWidth 64)
  | 0x081 => core (s.crew.srseed.setWidth 64)
  | 0x090 => (s.ctx s.isl s.spn).tvec
  | 0x091 => s.uni.fpc
  | 0x092 => s.uni.fcause
  | 0x093 => if s.pilot then s.thread.faddr else s.crew.faddr.get 0 L
  | 0x094 => core s.uni.fmask
  | 0x0C0 => if s.pilot then s.thread.args else n (recN rec_ 24 8)
  | 0x0C1 => core (n (recN rec_ 8 4))
  | 0x0C2 => core (n g.lanes)
  | 0x0C3 => if s.pilot then s.thread.taskid.setWidth 64 else (match s.taskOf g with | some t => t.id.setWidth 64 | none => 0)
  | 0x0C4 => core (n (g.id % max 1 (recN rec_ 44 4 % 32) + (s.groupOf g).size * 2 ^ 16))
  | 0x0C5 => core (n (recN rec_ 32 8 % 2 ^ 52))
  | 0x100 => n (s.tkey % 4)
  | 0x101 => n (s.exe.pilots.get {} s.cluster).peq.length
  | 0x102 => s.thread.ptask.setWidth 64
  | _ => n (s.windowOf s.isl).length

/-- What SYSRD reads in a lane (R340). -/
def sysRead (s : State) (i L : Nat) : W64 :=
  if i = 0x068 then s.readFpte L else if i < 0x070 then s.readLow i L else s.readHigh i L

/-- Registers that only supervisor mode may access (R34, R372). -/
def supOnly (i : Nat) : Bool := (0x040 ≤ i && i ≤ 0x045) || i = 0x04A || i = 0x090

/-- The writable bits of an aperture register: the first region of the Basin and of XSP is a multiple of their regions. -/
def apMask (k : Nat) : W64 := match k with | 3 => 0xFFFFFFC000003 | 4 => 0xFFFFFFE000003 | _ => 0xFFFFFFF800003

/-- The old value of an address register, which other crews may still use until its writer's FENCE.T. After a second write before the first
writer's FENCE.T the values of both stay usable (R35; DESIGN CHOICE, safe: log 109). -/
def keepOld (c : Ctx) (k wid : Nat) (old : W64) : Ctx := { c with older := c.older.put k (c.older.get [] k ++ [(wid, old)]) }

/-- What SYSWR writes; a read-only register ignores it (R14, R340). -/
def sysWrite (s : State) (i : Nat) (v : W64) : State :=
  let me := s.me
  let c := s.ctx me.isl me.spn
  if 0x040 ≤ i && i ≤ 0x045 then
    let k := i - 0x040
    let c1 := keepOld c k me.wid (c.aps.get 0 k)
    s.setCtx me.isl me.spn { c1 with aps := c1.aps.put k (v &&& apMask k) }
  else if i = 0x04A then
    let c1 := keepOld c 6 me.wid c.bsnwin
    s.setCtx me.isl me.spn { c1 with bsnwin := BitVec.ofNat 64 (fld v 0 10 + min (fld v 16 11) 1024 * 2 ^ 16) }
  else if i = 0x071 then
    (if v.getLsbD 63 then s.setUni { s.uni with rerr := 0, rerra := 0 } else s)
  else if i = 0x080 && !s.pilot then
    s.putStat (v.extractLsb' 0 6)
  else if i = 0x081 && !s.pilot then s.setCrew { s.crew with srseed := v.extractLsb' 0 32 }
  else if i = 0x090 then s.setCtx me.isl me.spn { c with tvec := v &&& 0xFFFFFFFFFF801 }
  else s

end State

/-- SYSRD (R340). -/
def execSysrd (x : II) (s : State) : Out :=
  .next (
    let i := (x.imm.extractLsb' 0 10).toNat
    let w := x.sub.getLsbD 1
    if !s.qguard x.guard then s.advance 1
    else if State.supOnly i && !s.sup then s.deny 0x11 none
    else
      let s1 := match x.d with
        | .v n => if w then s.wrV64 n.toNat s.lanes fun L => s.sysRead i L
                  else s.wrV n.toNat s.lanes fun L => (s.sysRead i L).extractLsb' 0 32
        | o => if w then s.wrS64 o (s.sysRead i 0) else s.wrS o ((s.sysRead i 0).extractLsb' 0 32)
      ({ s1 with choices := s1.choices + 32 }).advance 1)

/-- SYSWR (R340, R341). -/
def execSyswr (x : II) (s0 : State) : Out :=
  .next (
    let r := s0.walk [x.a]
    let s := r.2
    let i := (x.imm.extractLsb' 0 10).toNat
    if !s.qguard x.guard then s.advance 1
    else if State.supOnly i && !s.sup then s.moorAll 0x11 none
    else
      let v : W64 := if x.sub.getLsbD 1 then s.u64 r.1 none x.a else (s.u32 r.1 none x.a).setWidth 64
      (s.sysWrite i v).advance 1)

/-! The frame pool (R82, R83, R342). -/

namespace State

/-- No storage backs a physical address of the island (R55). -/
def unbacked (pa : Nat) : Bool := (2 ^ 39 ≤ pa && pa < 2 ^ 47) || 2 ^ 48 ≤ pa

/-- The physical address of the pool header of the current precinct, and its flat location. -/
def poolPA (s : State) : Nat := fld (s.precinct s.myPrecinct).fpool 7 41 * 128
def poolLoc (s : State) : Nat := locPA s.isl s.poolPA

/-- A nonzero reserved field, or a capacity out of range (R82). -/
def poolBad (s : State) (h : Nat) : Bool :=
  let ring := Memory.readN s.mem h 8
  let cap := Memory.readN s.mem (h + 8) 4
  2 ^ 48 ≤ ring || ring % 4 ≠ 0 || 32 ≤ cap || cap < 6 || 24 < cap || 4 ≤ Memory.readN s.mem (h + 24) 4
    || Memory.readN s.mem (h + 28) 100 ≠ 0

def poolCount (s : State) (h : Nat) : Nat := (Memory.readN s.mem (h + 20) 4 + 2 ^ 32 - Memory.readN s.mem (h + 16) 4) % 2 ^ 32
/-- Entry of the ring at an index: its physical address and its flat location. -/
def slotPA (s : State) (h k : Nat) : Nat :=
  Memory.readN s.mem h 8 + 4 * (k % 2 ^ 32 % 2 ^ (Memory.readN s.mem (h + 8) 4 % 32))
def poolSlot (s : State) (h k : Nat) : Nat := locPA s.isl (s.slotPA h k)

/-- What POOLPOP or POOLPUSH does once the header is at its home. A header, or a ring entry, that no storage backs moors the fragment with cause
0x02, as an access whose translation gives such an address (DESIGN CHOICE, safe: log 113); uncorrectable storage moors it with cause 0x04. -/
def atPool (s : State) (go : State → State) : State :=
  if unbacked s.poolPA then s.moorAll 2 (some (BitVec.ofNat 64 s.poolPA))
  else match s.gatherPieces s.isl 0 true [(s.poolLoc, 128)] with
    | (s1, false) => s1.stall 7 .retry
    | (s1, true) =>
      if s1.badRead s.poolLoc 128 then s1.moorAll 4 (some (BitVec.ofNat 64 s.poolPA)) else go (s1.countSoft s.me [(s.poolLoc, 128)])

/-- What it does once the ring entry that it uses is there too. -/
def atSlot (s : State) (k : Nat) (go : State → State) : State :=
  let h := s.poolLoc
  let e := s.poolSlot h k
  if unbacked (s.slotPA h k) then s.moorAll 2 (some (BitVec.ofNat 64 (s.slotPA h k)))
  else match s.gatherPieces s.isl 0 true [(h, 128), (e, 4)] with
    | (s1, false) => s1.stall 7 .retry
    | (s1, true) => if s1.badRead e 4 then s1.moorAll 4 (some (BitVec.ofNat 64 (s.slotPA h k))) else go (s1.countSoft s.me [(e, 4)])

/-- A pool event: kind 2 empty, 3 low, 4 malformed, with the header's address. -/
def poolEvent (s : State) (kind : Nat) : State :=
  s.postMine kind 0 s.ctl.pc.toNat (BitVec.ofNat 64 s.poolPA)

/-- The pool gives nothing: its first POOLPOP since posts an event (R82, R83). -/
def poolEmpty (s : State) (h : Nat) : State :=
  let ev := Memory.readN s.mem (h + 24) 4
  if ev % 2 = 1 then s
  else { s with mem := Memory.writeN s.mem (h + 24) (ev + 1) 4 }.poolEvent (if s.poolBad h then 4 else 2)

/-- A frame taken from the pool, and the low-water event. -/
def poolTake (s : State) (h : Nat) : State × W32 :=
  let head := Memory.readN s.mem (h + 16) 4
  let f := Memory.readN s.mem (s.poolSlot h head) 4
  let low := Memory.readN s.mem (h + 12) 4
  let ev := Memory.readN s.mem (h + 24) 4
  let left := s.poolCount h - 1
  let was := ev / 2 % 2
  let s1 := { s with mem := Memory.writeN (Memory.writeN s.mem (h + 16) (head + 1) 4) (h + 24) (if left < low then 2 else 0) 4 }
  (if left < low && was = 0 then s1.poolEvent 3 else s1, BitVec.ofNat 32 f)

/-- No place is left in the ring. -/
def poolFull (s : State) (h : Nat) : Bool := s.poolCount h = 2 ^ (Memory.readN s.mem (h + 8) 4 % 32)

/-- The index before the pool's head. -/
def slotBefore (s : State) (h : Nat) : Nat := (Memory.readN s.mem (h + 16) 4 + 2 ^ 32 - 1) % 2 ^ 32

/-- A frame put back before the pool's head (R83). -/
def poolPut (s : State) (h : Nat) (f : W32) : State :=
  let head' := s.slotBefore h
  { s with mem := Memory.writeN (Memory.writeN s.mem (h + 16) head' 4) (s.poolSlot h head') f.toNat 4 }

/-- POOLPOP at the pool's header (R83, R342). -/
def popFrame (x : RI) (s : State) : State :=
  let h := s.poolLoc
  let try_ := x.sub.getLsbD 0
  if s.poolBad h || s.poolCount h = 0 then
    let s1 := s.poolEmpty h
    if try_ then ((s1.wrQ x.c false).twinAcquire s.me.id 3).advance (RI.len x)
    else if s1.pilot then s1.setThread { s1.thread with state := .wait, waitFor := .doorbell }
    else s1.setFrag { s1.frag with state := .moored, wait := 0, waitFor := .doorbell, order := s1.exe.orders + 1 }
  else s.atSlot (Memory.readN s.mem (h + 16) 4) fun s1 =>
    let r := s1.poolTake h
    let s2 := r.1.wrS x.d r.2
    ((if try_ then s2.wrQ x.c true else s2).twinAcquire s.me.id 3).advance (RI.len x)

/-- POOLPUSH at the pool's header (R83, R342). -/
def pushFrame (x : RI) (f : W32) (s : State) : State :=
  let h := s.poolLoc
  if s.poolFull h then (s.wrQ x.d false).advance (RI.len x)
  else s.atSlot (s.slotBefore h) fun s1 => (((s1.poolPut h f).wrQ x.d true).twinRelease s.me.id 3).advance (RI.len x)

end State

/-- POOLPOP (R83, R342): its writes wait for release fences before it (R118). -/
def execPoolpop (x : RI) (s : State) : Out :=
  .next (
    if !s.sup then s.moorAll 0x11 none
    else if !s.qguard x.guard then s.advance (RI.len x)
    else if fld (s.precinct s.myPrecinct).fpool 0 1 = 0 then s.moorAll 2 none
    else if !s.relsLeft.isEmpty then s.stall 5 .retry
    else s.atPool (State.popFrame x))

/-- POOLPUSH (R83, R342): a release at island scope. -/
def execPoolpush (x : RI) (s0 : State) : Out :=
  .next (
    let r := s0.walk [x.a]
    let s := r.2
    let f := s.u32 r.1 x.lit x.a
    if !s.sup then s.moorAll 0x11 none
    else if !s.qguard x.guard then s.advance (RI.len x)
    else if fld (s.precinct s.myPrecinct).fpool 0 1 = 0 then s.moorAll 2 none
    else if 0x800000 ≤ f.toNat then s.moorAll 2 none
    else if !s.relsLeft.isEmpty then s.stall 5 .retry
    else if !s.released 3 then s.stall 5 (.fence 3)
    else s.atPool (State.pushFrame x f))

end Sys2Proof.Machine
end

