-- ==== Sys2Proof/Machine/Tender.lean ====
section
/-! DEFINITION. The Tender: its queue, requests, granules and reports (R131-R133, R324-R332, R343). -/

namespace Sys2Proof.Machine

open Sys2Proof

/-! The request record (R325). -/

/-- A request record as its fields. -/
structure TRec where
  op : Nat
  nd : Nat
  g : Nat
  sskw : Bool
  dskw : Bool
  sphys : Bool
  dphys : Bool
  rep : Nat
  hint : Nat
  chain : Bool
  evt : Nat
  src : W64
  dst : W64
  counts : List Nat                -- COUNT0 to COUNT3
  island : Nat
  remote : Bool
  ss : List Nat                    -- SSTRIDE1 to SSTRIDE3
  ds : List Nat
  lcoff : Nat
  reserved : Bool                  -- a reserved field is nonzero
  deriving DecidableEq, Repr

def tenderRec (bs : List Byte) : TRec :=
  let f (lo n : Nat) : Nat := natOf ((bs.drop lo).take n)
  let c := f 0 4
  let bit (n : Nat) : Bool := c / 2 ^ n % 2 = 1
  { op := c % 16, nd := c / 16 % 4, g := c / 64 % 32, sskw := bit 11, dskw := bit 12, sphys := bit 13, dphys := bit 14,
    rep := c / 2 ^ 15 % 4, hint := c / 2 ^ 17 % 4, chain := bit 19, evt := f 4 4, src := BitVec.ofNat 64 (f 8 8), dst := BitVec.ofNat 64 (f 16 8),
    counts := [f 24 4, f 28 2, f 30 2, f 32 2], island := f 34 2 % 2 ^ 12, remote := f 34 2 / 2 ^ 12 % 2 = 1,
    ss := [f 36 4, f 40 4, f 44 4], ds := [f 48 4, f 52 4, f 56 4], lcoff := f 60 2 % 2 ^ 14,
    reserved := c / 2 ^ 20 ≠ 0 || f 34 2 / 2 ^ 13 ≠ 0 || f 60 2 / 2 ^ 14 ≠ 0 }

namespace TRec

def count (r : TRec) (d : Nat) : Nat := r.counts.getD d 0
/-- The bytes of a request: the product of its used counts (R326). -/
def total (r : TRec) : Nat := (List.range (r.nd + 1)).foldl (fun t d => t * r.count d) 1
def sstride (r : TRec) (d : Nat) : W64 := (BitVec.ofNat 32 (r.ss.getD (d - 1) 0)).signExtend 64
def dstride (r : TRec) (d : Nat) : W64 := (BitVec.ofNat 32 (r.ds.getD (d - 1) 0)).signExtend 64
def counts? (r : TRec) : Bool := r.rep = 1 || r.rep = 3
def indexed (r : TRec) : Bool := r.op = 1 || r.op = 2
/-- The address of the index array of a gather or a scatter. -/
def idx (r : TRec) : W64 :=
  let t := if r.op = 1 then r.ss else r.ds
  BitVec.ofNat 64 (t.getD 1 0 + t.getD 2 0 * 2 ^ 32)
/-- Granules of a request. -/
def granules (r : TRec) : Nat := (r.total + 2 ^ r.g - 1) / 2 ^ r.g
def granuleBytes (r : TRec) (k : Nat) : Nat := min (2 ^ r.g) (r.total - k * 2 ^ r.g)

/-- The landing counter lies in the gang's allocation. -/
def lcOk (r : TRec) (size : Nat) : Bool := !r.counts? || 16 * r.lcoff + 16 ≤ size

/-- A stride of an unused dimension is nonzero, where IDX does not overlay it (R325). -/
def strayStride (r : TRec) : Bool :=
  [1, 2, 3].any fun d => r.nd < d && ((r.op ≠ 1 && r.ss.getD (d - 1) 0 ≠ 0) || (r.op ≠ 2 && r.ds.getD (d - 1) 0 ≠ 0))

/-- A malformed record (R325, R328). -/
def malformed (r : TRec) (size : Nat) : Bool :=
  r.reserved || 3 < r.op || r.g < 12 || 24 < r.g || (r.indexed && r.nd ≠ 1)
    || ((List.range 4).any fun d => if d ≤ r.nd then r.count d = 0 else r.count d ≠ 0)
    || r.strayStride || 2 ^ 32 ≤ r.total || !r.lcOk size || (r.remote && 2 ≤ r.op)

/-- Rows of a granule: the row's number, the first byte in it and how many (R326, R327). -/
def rows (r : TRec) (k : Nat) : List (Nat × Nat × Nat) :=
  let c := r.count 0
  let lo := k * 2 ^ r.g
  let hi := lo + r.granuleBytes k
  (List.range ((hi - 1) / c + 1 - lo / c)).map fun i =>
    let row := lo / c + i
    let a := max lo (row * c)
    (row, a - row * c, min hi ((row + 1) * c) - a)

end TRec

namespace State

def tender (s : State) (core : Nat) : List TReq := s.eng.tenders.get [] core
def setTender (s : State) (core : Nat) (q : List TReq) : State := { s with eng.tenders := s.eng.tenders.put core q }
def setReq (s : State) (core : Nat) (r : TReq) : State :=
  s.setTender core ((s.tender core).map fun x => if x.id = r.id then r else x)

/-- The crew that issued a request, as the maker of its accesses. -/
def reqWho (s : State) (r : TReq) : Who := { s.crewWho r.crew r.sup with gang := some r.gang, spn := r.spn }

/-- Requests that have joined leave the queue; those with a PEQ record to post stay until it is posted (R327, R330, R343). -/
def sweepReqs (s : State) (core : Nat) : State :=
  s.setTender core ((s.tender core).filter fun r => !(r.counted && r.open_ = 0 && (tenderRec r.words).rep < 2))

/-! KICK (R324). -/

/-- The cause of the first check of a KICK that fails; an address in the null guard or beyond the virtual space lies in no aperture (R17, R18). -/
def kickFault (s : State) (a : W64) (n : Nat) : Option Byte :=
  let me := s.me
  if n < 1 || 256 < n then some 2
  else if a.toNat < 0x10000 || 2 ^ 52 ≤ a.toNat then some 2
  else match s.apHit me a.toNat [0, 1, 2, 3, 4, 5] with
  | some (1, base) =>
    if !me.sup && fld (s.apReg me 1) 1 1 = 0 then some 2
    else if a.toNat % 64 ≠ 0 then some 3
    else if s.apLimit me 1 < a.toNat - base + 64 * n then some 7
    else none
  | _ => some 2

/-- Records join the queue in order. -/
def pushReqs (loc n : Nat) : Nat → State → State
  | 0, s => s
  | m + 1, s =>
    let id := s.exe.ids + 1
    let r : TReq := { id := id, loc := loc + 64 * (n - (m + 1)), gang := s.gangKey, crew := s.ckey, sup := s.sup, spn := s.spn,
                      pred := s.eng.lastReq.get 0 s.core, owners := [s.entry] }
    pushReqs loc n m
      { s.setTender s.core (s.tender s.core ++ [r]) with exe.ids := id, eng.lastReq := s.eng.lastReq.put s.core id }

end State

/-- KICK (R324): request records join the Tender's queue. -/
def execKick (x : RI) (s0 : State) : Out :=
  .next (
    let r := s0.walk [x.a, x.b]
    let s := r.2.sweepReqs r.2.core
    let a := s.u64 r.1 x.lit x.a
    let n := (s.u32 r.1 x.lit x.b).toNat
    if !s.acts x.guard then s.advance (RI.len x)
    else match s.kickFault a n with
    | some c => s.moorAll c (some a)
    | none =>
      let me := s.me
      let base := fld (s.apReg me 1) 23 29 * 2 ^ 23
      if 1024 < ((s.tender s.core).filter (!·.started)).length + n then s.stall 7 .room
      else ((State.pushReqs (s.spLoc me (a.toNat - base)) n n s).twinRelease s.ckey 3).advance (RI.len x))

namespace State

/-! Starting requests and granules (R327, R328). -/

/-- Granules in flight of a core's Tender. -/
def granulesOut (s : State) (core : Nat) : Nat := ((s.tender core).map fun r => r.flight.length).sum

/-- Every granule of a request has been started, or none will be. -/
def allStarted (r : TReq) : Bool := r.counted || r.fault.isSome || (r.started && (tenderRec r.words).granules ≤ r.next)

/-- Granules start in order while fewer than 8 are in flight. -/
def startGranules : Nat → State → Nat → Nat → State
  | 0, s, _, _ => s
  | fuel + 1, s, core, id =>
    match (s.tender core).find? (·.id = id) with
    | none => s
    | some r =>
      if allStarted r || 8 ≤ s.granulesOut core then s
      else startGranules fuel (s.setReq core { r with next := r.next + 1, flight := r.flight ++ [r.next] }) core id

/-- The request's last count, STATUS and PEQ record (R327, R328, R330). A record out of whose counter nothing comes is not
counted. -/
def finishReq (s : State) (core : Nat) (r : TReq) (status : Byte) (bytes : Nat) : State :=
  let t := tenderRec r.words
  let g := s.gangAt r.gang
  let s1 := if t.counts? && t.lcOk (g.spSize * 2048) && (bytes ≠ 0 || status ≠ 0) then
      countOn s (locScratch core (g.spBase * 2048 + 16 * t.lcoff)) bytes (if status = 0 then 0 else 1)
    else s
  let s2 := { s1 with mem := Memory.writeN s1.mem (r.loc + 62) status.toNat 2 }
  ((s2.countErrs (s.reqWho r) 1 (if status = 4 then 1 else 0)).setReq core { r with counted := true, status := status }).sweepReqs core

/-- The fault a request meets before any access (R328). -/
def reqFault (s : State) (core : Nat) (r : TReq) (t : TRec) : Option Byte :=
  if (t.sphys || t.dphys) && !r.sup then some 0x11
  else if t.remote && !s.usable (core / 128) t.island then some 6
  else none

/-- Where a request stands in program order. -/
def reqSource (s : State) (r : TReq) : Src := { ck := r.crew, os := r.owners, ak := agentKey (s.reqWho r) }

/-- The scope of the release that a request's issue is, but for one that reaches host memory (R131). -/
def reqScope (t : TRec) : Nat := if t.remote then (if 32 ≤ t.island then 5 else 4) else 3

/-- What comes before a request has been performed (R131). -/
def reqForked (s : State) (r : TReq) (scope : Nat) : Bool := s.relDone (s.reqSource r) scope r.id

/-- The Tender of a core may start work: its precinct runs (R331). -/
def tenderRuns (s : State) (core : Nat) : Bool := s.mayGo (s.precinctOfCore core) true

/-! The accesses of a granule (R43, R55, R59, R326). -/

/-- What a range comes to for the Tender: its pieces and page attribute. -/
inductive TRes
  | ok (ls : List (Nat × Nat)) (ca : Nat)
  | fault (c : Byte)
  | park (va : Nat)
  | wait
  deriving DecidableEq, Repr

/-- A range of physical addresses (R55). Host memory is reached through the bridge, as on an uncached page, unless the island owns its frame
(DESIGN CHOICE, unsafe: log 118). -/
def physRange (s : State) (isl a n : Nat) : TRes :=
  if a + n ≤ 2 ^ 39 then .ok [(locPA isl a, n)] 0
  else if 2 ^ 47 ≤ a && a + n ≤ 2 ^ 48 then .ok [(locPA isl a, n)] (if s.hostAllowed isl a then 2 else 3)
  else .fault 2

def tresOf : State × LRes → State × TRes
  | (s, .ok ls ca) => (s, .ok ls ca)
  | (s, .fault c _ _) => (s, .fault c)
  | (s, .park va) => (s, .park va)
  | (s, .busy) => (s, .wait)

/-- A range of a side of a request, resolved as a load or a store of the KICK's context and mode (R24, R326); skewed word by
word in the SP aperture (R43). `acc` tells one access of a step from another (R35). -/
def tenderRange (s : State) (r : TReq) (phys skw : Bool) (k : AKind) (acc : Nat) (a : W64) (n : Nat) : State × TRes :=
  if phys then (s, s.physRange (r.gang / 16 / 128) a.toNat n)
  else
    let w := { s.reqWho r with acc := acc }
    match tresOf (s.resolveRange w k 0 a n) with
    | (s1, .ok ls ca) =>
      (match s1.apHit w a.toNat [0, 1, 2, 3, 4, 5] with
       | some (1, base) =>
         if skw then
           (s1, .ok ((List.range n).map fun i => (s1.spLoc w (s1.spOffset w (s1.gangAt r.gang) (a.toNat - base + i)), 1)) ca)
         else (s1, .ok ls ca)
       | _ => (s1, .ok ls ca))
    | q => q

/-- An entry of the index array, read as a 4-byte source load (R24, R57, R326). -/
def tenderIdx (s : State) (r : TReq) (t : TRec) (k : Nat) : State × Except TRes Nat :=
  let a := t.idx + BitVec.ofNat 64 (4 * k)
  let q : State × TRes :=
    if (if t.op = 1 then t.sphys else t.dphys) then (s, s.physRange (r.gang / 16 / 128) a.toNat 4)
    else tresOf (s.laneAccess (s.reqWho r) 0 a 4 .engineRead t.sskw)
  match q with
  | (s1, .ok ls ca) =>
    if s1.badPieces ls then (s1, .error (.fault 4))
    else match s1.gatherPieces (r.gang / 16 / 128) ca false ls with
      | (s2, true) => (s2.countSoft (s2.reqWho r) ls, .ok (natOf (s2.readPieces ls)))
      | (s2, false) => (s2, .error .wait)
  | (s1, e) => (s1, .error e)

/-- The source and destination of a row. -/
def rowEnds (t : TRec) (idx row x0 : Nat) : W64 × W64 :=
  let x1 := row % max 1 (t.count 1)
  let x2 := row / max 1 (t.count 1) % max 1 (t.count 2)
  let x3 := row / (max 1 (t.count 1) * max 1 (t.count 2))
  let at_ (base : W64) (st : Nat → W64) : W64 :=
    base + BitVec.ofNat 64 x0 + BitVec.ofNat 64 x1 * st 1 + BitVec.ofNat 64 x2 * st 2 + BitVec.ofNat 64 x3 * st 3
  let used (st : Nat → W64) (d : Nat) : W64 := if d ≤ t.nd then st d else 0
  let byIdx (base : W64) (st : W64) : W64 := base + BitVec.ofNat 64 x0 + BitVec.ofNat 64 idx * st
  (if t.op = 1 then byIdx t.src (t.sstride 1) else if t.op = 2 then at_ t.src (fun d => if d = 1 then t.sstride 1 else 0) else at_ t.src (used t.sstride),
   if t.op = 2 then byIdx t.dst (t.dstride 1) else if t.op = 1 then at_ t.dst (fun d => if d = 1 then t.dstride 1 else 0) else at_ t.dst (used t.dstride))

/-- A row of a granule as it stands before it is resolved. -/
def rowOf (t : TRec) (q : Nat × Nat × Nat) : Row :=
  { t := q.1 * t.count 0 + q.2.1, n := q.2.2, row := q.1, x0 := q.2.1, ready := false, known := false, sa := 0, src := [], sca := 0, da := 0, dst := [], dca := 0 }

/-- The addresses of a row, once its index is read. -/
def rowSides (s : State) (r : TReq) (t : TRec) (q : Row) : State × Except TRes Row :=
  let at_ (i : Nat) : Row := let e := rowEnds t i q.row q.x0
                             { q with known := true, sa := e.1.toNat, da := e.2 }
  if q.known then (s, .ok q)
  else if !t.indexed then (s, .ok (at_ 0))
  else match s.tenderIdx r t q.row with
    | (s1, .ok i) => (s1, .ok (at_ i))
    | (s1, .error e) => (s1, .error e)

/-- A row resolved, or what keeps it: its source and its destination (R24, R326). -/
def rowAt (s : State) (r : TReq) (t : TRec) (q0 : Row) : State × Row × Option TRes :=
  match s.rowSides r t q0 with
  | (s1, .error e) => (s1, q0, some e)
  | (s1, .ok q) =>
    match (if t.op = 3 then (s1, .ok [] 0) else s1.tenderRange r t.sphys t.sskw .engineRead (2 * q.t) (BitVec.ofNat 64 q.sa) q.n) with
    | (s2, .ok sl sca) =>
      if s2.badPieces sl then (s2, q, some (.fault 4))
      else (match (if t.remote then (s2, .ok [] 0) else s2.tenderRange r t.dphys t.dskw .engineWrite (2 * q.t + 1) q.da q.n) with
        | (s3, .ok dl dca) =>
          if dl.any fun p => s3.badWrite (wholeLines dl) p.1 p.2 then (s3, q, some (.fault 4))
          else (s3, { q with ready := true, parked := none, src := sl, sca := sca, dst := dl, dca := dca }, none)
        | (s3, e) => (s3, q, some e))
    | (s2, e) => (s2, q, some e)

/-- A row reaches host memory. -/
def rowHost (q : Row) : Bool := (q.src ++ q.dst).any fun p => isHost p.1

/-- A request reaches host memory, as its addresses stand: the index array, or a side of a row (R131, R324). -/
def reachesHost (s : State) (r : TReq) (t : TRec) : Bool :=
  let host (x : State × TRes) : Bool := match x.2 with | .ok ls _ => ls.any fun p => isHost p.1 | _ => false
  (List.range t.granules).any fun k => (t.rows k).any fun x =>
    (t.indexed && host (if (if t.op = 1 then t.sphys else t.dphys) then (s, s.physRange (r.gang / 16 / 128) (t.idx.toNat + 4 * x.1) 4)
        else tresOf (s.laneAccess (s.reqWho r) 0 (t.idx + BitVec.ofNat 64 (4 * x.1)) 4 .engineRead false)))
      || match (s.rowSides r t (rowOf t x)).2 with
        | .ok q => (t.op ≠ 3 && host (s.tenderRange r t.sphys t.sskw .engineRead 0 (BitVec.ofNat 64 q.sa) q.n))
            || (!t.remote && host (s.tenderRange r t.dphys t.dskw .engineWrite 0 q.da q.n))
        | .error _ => false

/-- The request that a Tender would start next, if its turn has come. -/
def nextReq (s : State) (core : Nat) : Option TReq :=
  let q := (s.sweepReqs core).tender core
  match q.find? (!·.started) with
  | none => none
  | some r =>
    let t := tenderRec (Memory.readBytes s.mem r.loc 64)
    if !s.tenderRuns core || 8 ≤ s.granulesOut core || !s.reqForked r (reqScope t) then none
    else if !s.reqForked r 5 && !(t.malformed ((s.gangAt r.gang).spSize * 2048)) && s.reachesHost r t then none
    else if !((q.takeWhile fun x => x.id ≠ r.id).all allStarted) then none
    else if t.chain && q.any (fun x => x.id = r.pred) then none
    else some r

end State

/-- TENDER_REQUEST_START (R327, R328): the record is read and the request started, or failed where it is malformed. -/
def execTenderRequestStart (core : Nat) (s0 : State) : Out :=
  .next (
    let s := s0.sweepReqs core
    match s.nextReq core with
    | none =>
      -- granules of the last request started, when there is room for them
      if s.tenderRuns core then
        (match (s.tender core).find? fun r => r.started && !State.allStarted r with
         | some r => State.startGranules 8 s core r.id
         | none => s)
      else s
    | some r0 =>
      let r := { r0 with started := true, words := Memory.readBytes s.mem r0.loc 64 }
      let t := tenderRec r.words
      if s.badRead r.loc 64 then s.finishReq core { r with words := [] } 4 0
      else if t.malformed ((s.gangAt r.gang).spSize * 2048) then s.finishReq core r 0x20 (t.total % 2 ^ 32)
      else match s.reqFault core r t with
        | some c => s.finishReq core { r with fault := some c } c t.total
        | none => State.startGranules 8 (s.setReq core r) core r.id)

namespace State

/-- The first `n` bytes of pieces, and what follows them. -/
def takeBytes : Nat → List (Nat × Nat) → List (Nat × Nat)
  | _, [] => []
  | n, (l, m) :: r => if n = 0 then [] else if m ≤ n then (l, m) :: takeBytes (n - m) r else [(l, n)]
def dropBytes : Nat → List (Nat × Nat) → List (Nat × Nat)
  | _, [] => []
  | n, (l, m) :: r => if m ≤ n then dropBytes (n - m) r else (l + n, m - n) :: r

/-- A row in stretches that end at multiples of 4,096 bytes of its destination: each is read and written at once, and so is every 16-byte unit
and every whole line (R58, R326). -/
def stretches : Nat → Row → List Row
  | 0, q => [q]
  | fuel + 1, q =>
    let n := 4096 - q.da.toNat % 4096
    if q.n ≤ n then [q]
    else { q with n := n, src := takeBytes n q.src, dst := takeBytes n q.dst } ::
      stretches fuel { q with t := q.t + n, n := q.n - n, sa := q.sa + n, src := dropBytes n q.src, da := q.da + BitVec.ofNat 64 n,
                              dst := dropBytes n q.dst }

/-- The bytes of a row. -/
def rowBytes (s : State) (t : TRec) (r : Row) : List Byte :=
  if t.op = 3 then (List.range r.n).map fun i => BitVec.ofNat 8 (t.src.toNat / 2 ^ (8 * ((r.t + i) % 8)))
  else s.readPieces r.src

/-- Bytes read, in the order of their linear index. -/
def inOrderT (l : List (Nat × W64 × List Byte)) : List (Nat × W64 × List Byte) :=
  l.foldl (fun acc r => acc.takeWhile (fun a => a.1 < r.1) ++ [r] ++ acc.dropWhile fun a => a.1 < r.1) []

/-- The runs of a granule whose destinations are consecutive, with their bytes (R329). -/
def runsOf : List (Nat × W64 × List Byte) → List (Nat × W64 × List Byte)
  | [] => []
  | (i, a, bs) :: r =>
    match runsOf r with
    | [] => [(i, a, bs)]
    | (j, b, cs) :: q => if a + BitVec.ofNat 64 bs.length = b then (i, a, bs ++ cs) :: q else (i, a, bs) :: (j, b, cs) :: q

/-- The PUTs of a granule's runs, their source bytes read, while the core has room for operations (R141, R329); what is left. -/
def putRuns (core : Nat) (r : TReq) (t : TRec) (k : Nat) : List (Nat × W64 × List Byte) → State → State × List (Nat × W64 × List Byte)
  | [], s => (s, [])
  | q :: qs, s =>
    if opsMax false ≤ s.opsOf false core then (s, q :: qs)
    else
      let isl := core / 128
      let s1 := s.addOp { isl := isl, who := .frag core 0, crew := r.crew, pilot := false, gang := r.gang, kind := .put, spn := r.spn,
                          sup := r.sup, dest := t.island, entry := s.entryFor isl r.gang t.island, ta := q.2.1, len := q.2.2.length, data := some q.2.2,
                          ent := 6 * 2 ^ 16, req := some (core, r.id, k), lastSeen := s.clock }
      putRuns core r t k qs (s1.setTender core ((s1.tender core).map fun x => if x.id = r.id then { x with open_ := x.open_ + 1 } else x))

/-! Rows that write bytes of one 16-byte unit move together (R115, R326). -/

/-- The destination of a row, where it is known: that of a scatter's row only once its index is read. -/
def rowDest (t : TRec) (q : Row) : Option Nat :=
  if t.remote then none
  else if q.known then some q.da.toNat
  else if t.op = 2 then none
  else some (rowEnds t 0 q.row q.x0).2.toNat

/-- Two rows write bytes of one 16-byte unit of the destination. A row whose destination is not known yet shares none, and neither does one of
another granule (DESIGN CHOICE, unsafe: log 132). -/
def unitsMeet (t : TRec) (p q : Row) : Bool :=
  match rowDest t p, rowDest t q with
  | some a, some b => a / 16 ≤ (b + q.n - 1) / 16 && b / 16 ≤ (a + p.n - 1) / 16
  | _, _ => false

/-- The rows linked to some by common units, and the others. -/
def unitGroup (t : TRec) : Nat → List Row → List Row → List Row × List Row
  | 0, g, qs => (g, qs)
  | fuel + 1, g, qs =>
    let near := qs.filter fun q => g.any (unitsMeet t · q)
    if near.isEmpty then (g, qs) else unitGroup t fuel (g ++ near) (qs.filter fun q => !(g.any (unitsMeet t · q)))

/-- Rows still to be resolved are resolved, in order (R73, R78): what becomes of them, and a fault with the rows that are given up for it:
that row, and those that no access has been made for (R328). A row that is parked waits behind those that its TLB parked before. -/
def resolveRows (r : TReq) (t : TRec) : List Row → State → State × List Row × Option (Byte × List Row)
  | [], s => (s, [], none)
  | q :: qs, s =>
    let w := s.reqWho r
    let keep (s : State) (l : List Row) : State × List Row × Option (Byte × List Row) :=
      let y := resolveRows r t qs s
      (y.1, l ++ y.2.1, y.2.2)
    if q.ready || q.parked.any fun p => !s.mayReplay w.isl w.tlb (p.1, r.spn, p.2) then keep s [q]
    else match s.rowAt r t q with
      | (s1, q1, none) => keep s1 (stretches (q1.n / 4096 + 1) q1)
      | (s1, q1, some (.fault c)) => (s1, qs.filter fun x => x.ready || x.parked.isSome, some (c, q1 :: qs.filter fun x => !(x.ready || x.parked.isSome)))
      | (s1, q1, some (.park va)) => keep { s1 with exe.ids := s1.exe.ids + 1 } [{ q1 with parked := some (s1.exe.ids + 1, va), replay := false }]
      | (s1, q1, some _) => keep s1 [q1]

/-- The replayed rows of a granule hold no fragment back any more: one has parked again, or what comes before them is still to be performed (R387). -/
def replayed (g : GRes) : GRes := { g with todo := g.todo.map fun q => { q with replay := false } }

/-- A granule with what of its rows can be resolved. Every unit of the destination holds its earlier content or the request's bytes: rows that
share a unit with one given up are given up with it (R328). -/
def resolveGranule (s : State) (core : Nat) (r : TReq) (t : TRec) (k : Nat) : State × GRes :=
  let g0 := (r.granules.find? (·.k = k)).getD { k := k, todo := (t.rows k).map (rowOf t) }
  let y := resolveRows r t g0.todo s
  let g := match y.2.2 with
    | none => { g0 with todo := y.2.1 }
    | some (c, away) => { g0 with todo := (unitGroup t y.2.1.length away y.2.1).2, fault := if g0.fault.isSome then g0.fault else some c }
  let g := if g.todo.any fun q => q.parked.isSome then replayed g else g
  (y.1.setReq core { r with granules := r.granules.filter (·.k ≠ k) ++ [g] }, g)

/-- The tag of a granule's writes that the host is to complete (R132). -/
def ownGran (id k : Nat) : Nat := 4 * (id * 2 ^ 32 + k)

/-- The rows of one group moved in one step, or their bytes read for a PUT; none while their lines are gathered. Destination lines take the
request's hint (R51, R325, R326). -/
def moveGroup (s : State) (r : TReq) (t : TRec) (k : Nat) (g : List Row) : State × Option (List (Nat × W64 × List Byte)) :=
  let isl := r.gang / 16 / 128
  let w := s.reqWho r
  let got := g.foldl (fun (y : State × Bool) q => let z := y.1.gatherPieces isl q.sca false q.src
                                                  (z.1, y.2 && z.2)) (s, true)
  let home := if t.remote then got
    else g.foldl (fun (y : State × Bool) q => let z := y.1.readyToWrite isl q.dca (effHint q.dca t.hint) (y.1.waysOf (y.1.gangAt r.gang)) q.dst
                                              (z.1, y.2 && z.2)) got
  if !home.2 then (home.1, none)
  else
    let s1 := g.foldl (fun s q => s.countSoft w q.src) home.1
    if t.remote then (s1, some (g.map fun q => (q.t, q.da, s1.rowBytes t q)))
    else (g.foldl (fun s q => s.writeAt w q.dca (ownGran r.id k) q.dst (s.rowBytes t q)) s1, some [])

/-- The groups of a granule whose rows are all resolved: what is left, and what was read for PUTs. -/
def moveRows (r : TReq) (t : TRec) (k : Nat) : Nat → List Row → State → State × List Row × List (Nat × W64 × List Byte)
  | 0, qs, s => (s, qs, [])
  | _, [], s => (s, [], [])
  | fuel + 1, q :: qs, s =>
    let g := unitGroup t qs.length [q] qs
    let z : State × Option (List (Nat × W64 × List Byte)) := if g.1.all (·.ready) then s.moveGroup r t k g.1 else (s, none)
    let y := moveRows r t k fuel g.2 z.1
    (y.1, (if z.2.isSome then [] else g.1) ++ y.2.1, z.2.getD [] ++ y.2.2)

/-- A granule whose accesses are all performed is counted; the request ends with its last one, or after a fault with the last of those that
were started (R327, R328). -/
def endGranule (s : State) (core : Nat) (r : TReq) (t : TRec) (k : Nat) (f : Option Byte) : State :=
  let n := t.granuleBytes k
  let r2 := { r with flight := r.flight.erase k, granules := r.granules.filter (·.k ≠ k), fault := if r.fault.isSome then r.fault else f,
                     failedBytes := r.failedBytes + if f.isSome then n else 0 }
  let g := s.gangAt r.gang
  let s1 := if f.isNone && t.counts? then countOn s (locScratch core (g.spBase * 2048 + 16 * t.lcoff)) n 0 else s
  let rest := ((List.range (t.granules - r2.next)).map fun i => t.granuleBytes (r2.next + i)).sum
  if !r2.flight.isEmpty then s1.setReq core r2
  else match r2.fault with
    | some c => s1.finishReq core r2 c (r2.failedBytes + rest)
    | none => if t.granules ≤ r2.next then s1.finishReq core r2 0 0 else s1.setReq core r2

end State

/-- The accesses of a started granule are performed as far as they can be; a fault ends the request once the granules started have run to
their end. One that reaches host memory waits for what comes before it at system scope (R131); the granule is over when the host has completed what it
writes there (R113, R327). -/
def granuleDone (core id k : Nat) (s : State) : State :=
  match (s.tender core).find? (·.id = id) with
  | none => s
  | some r =>
    let t := tenderRec r.words
    if !r.flight.contains k then s
    else
      let p := s.resolveGranule core r t k
      let g := p.2
      if g.todo.any State.rowHost && !p.1.reqForked r 5 then
        p.1.setReq core { r with granules := r.granules.filter (·.k ≠ k) ++ [State.replayed g] }
      else
        let y0 := State.moveRows r t k g.todo.length g.todo p.1
        let s1 := y0.1.holdLines (.gran core id k) ((y0.2.1.filter (·.ready)).flatMap fun q =>
          State.linesOfPieces (core / 128) q.sca q.src ++ State.linesOfPieces (core / 128) q.dca q.dst)
        let left := y0.2.1
        let out := State.inOrderT (g.out ++ y0.2.2)
        let z := if left.isEmpty then State.putRuns core r t k (State.runsOf out) s1 else (s1, out)
        match (z.1.tender core).find? (·.id = id) with
        | none => z.1
        | some r1 =>
          if left.isEmpty && z.2.isEmpty && !z.1.hostOwes (State.ownGran id k) then z.1.endGranule core r1 t k g.fault
          else z.1.setReq core { r1 with granules := r1.granules.map fun h => if h.k = k then { h with todo := left, out := z.2 } else h }

/-- TENDER_GRANULE_DONE (R327-R329), while the precinct runs or halts (R331). -/
def execTenderGranuleDone (core id k : Nat) (s : State) : Out :=
  .next (
    let st := (s.precinct (s.precinctOfCore core)).state
    if st = .running || st = .halting then granuleDone core id k s else s)

/-! The Pilot event queue (R330, R343). -/

namespace State

def pilotQ (s : State) (cl : Nat) : PilotQ := s.exe.pilots.get {} cl
def setPilotQ (s : State) (cl : Nat) (q : PilotQ) : State := { s with exe.pilots := s.exe.pilots.put cl q }

/-- A PEQ record (R343). -/
def peqRecord (kind status core evt count tag time data : Nat) : List Byte :=
  byteList 4 (kind + status * 2 ^ 8 + core * 2 ^ 16) ++ byteList 4 evt ++ byteList 4 count ++ byteList 4 tag ++ byteList 8 time
    ++ byteList 8 data

/-- Requests of the cores of a cluster whose record is due. -/
def reqsDue (s : State) (cl : Nat) : List (Nat × TReq) :=
  ((List.range 8).map (cl * 8 + ·)).flatMap fun core =>
    ((s.tender core).filter fun r => r.counted && r.open_ = 0 && 2 ≤ (tenderRec r.words).rep).map fun r => (core, r)

/-- A record joins the queue; a thread at IDLE goes on (R346). -/
def enqueuePeq (s : State) (cl : Nat) (rec : List Byte) : State :=
  let q := s.pilotQ cl
  let s1 := s.setPilotQ cl { q with peq := q.peq ++ [rec] }
  { s1 with exe.threads := s1.exe.threads.map fun t =>
      if t.1 / 4 = cl && t.2.state = .idle then (t.1, { t.2 with state := .running, idleDone := true, stop := !s.mayGo (s.precinctOf cl) true }) else t }

end State

/-- Records of the Tenders or the dispatcher are to be posted in a queue. -/
def State.peqWaits (s : State) (cl : Nat) : Bool := s.eng.peqDue.any (fun d => d.1 = cl) || !(s.reqsDue cl).isEmpty

/-- PEQ_POST (R330, R343): one of the records that wait is posted, when the queue has room. With none, the Harbourmaster posts a message: the spec does
not say when, nor with what tag and payload, which are free (DESIGN CHOICE, safe: log 134); it waits for room as the others do. -/
def execPeqPost (cl : Nat) (s : State) : Out :=
  .next (
    let st := (s.precinct (s.precinctOf cl)).state
    let due := s.eng.peqDue.filter (·.1 = cl)
    let reqs := s.reqsDue cl
    let room : Bool := (s.pilotQ cl).peq.length < 256 && (st = .running || st = .halting)
    if !s.peqWaits cl then
      (if !s.booted then s
       else if !room then { s with inbox := s.inbox ++ [.peqPost cl] }
       else
         let data := Config.freeWord (s.choices + 1)
         { s with choices := s.choices + 2 }.enqueuePeq cl
           (State.peqRecord 3 0 0 ((Config.freeWord s.choices).toNat % 2 ^ 32) (data.toNat % 2 ^ 32) 0 s.clock data.toNat))
    else if !room then s
    else
      let i := Config.freeChoice s.choices % (due.length + reqs.length)
      let s0 := { s with choices := s.choices + 1 }
      match due[i]? with
      | some d => { s0 with eng.peqDue := s0.eng.peqDue.erase d }.enqueuePeq cl (d.2.take 16 ++ byteList 8 s.clock ++ d.2.drop 24)
      | none =>
        match reqs[i - due.length]? with
        | some (core, r) =>
          let t := tenderRec r.words
          (s0.setTender core ((s0.tender core).filter (·.id ≠ r.id))).enqueuePeq cl
            (State.peqRecord 1 r.status.toNat (core % 128) t.evt (t.total % 2 ^ 32) 0 s.clock 0)
        | none => s0)

end Sys2Proof.Machine
end

