-- ==== Sys2Proof/Machine/Dispatcher.lean ====
section
/-! DEFINITION. The island dispatcher and the distributor: tasks in the window, readiness, placement, starting Pilot threads, and
the freeing of gangs (R133, R206, R207, R343, R345, R357-R363). -/

namespace Sys2Proof.Machine

open Sys2Proof

namespace State

/-! Ids and tags (R345, R358). -/

/-- The next of a sequence modulo 2^32 that skips 0. -/
def nextNonzero (v : W32) : W32 := if v + 1 = 0 then 1 else v + 1

/-- A launch tag taken from the module's sequence. -/
def takeTag (s : State) : State × W32 :=
  ({ s with mgt.nextTag := nextNonzero s.mgt.nextTag }, s.mgt.nextTag)

/-- A task id taken from an island's sequence. -/
def takeTaskId (s : State) (isl : Nat) : State × W32 :=
  let v := nextNonzero (s.mgt.nextTask.get 0 isl)
  ({ s with mgt.nextTask := s.mgt.nextTask.put isl v }, v)

/-- A key for a new task. -/
def taskKey (s : State) : Nat := s.mgt.taskKeys + 1
def putTask (s : State) (k : Nat) (t : Task) : State := { s with mgt.tasks := s.mgt.tasks.put k t }
def addTask (s : State) (t : Task) : State := { s.putTask s.taskKey t with mgt.taskKeys := s.mgt.taskKeys + 1 }

/-! The end of a task (R343, R352, R357, R406). -/

def dropTaskRef (tk : Nat) (q : Queue) : Queue :=
  let st := q.started.map fun c => { c with tasks := c.tasks.filter (· ≠ tk) }
  { q with started := st.filter fun c => !(c.op = 1 && c.tasks.isEmpty) }

/-- Cluster groups of a task of which every gang that was placed has been freed go, with their cluster memory and barriers, once no more is placed
(R207). -/
def freeGroups (s : State) (tk : Nat) : State :=
  let gone := ((s.exe.groups.filter fun g => g.2.task = tk && g.2.freed = g.2.placed).map (·.1))
  let bars := gone.flatMap fun g => (List.range 8).map fun i => 2 + 4 * (i + 16 * g)
  { s with exe.groups := s.exe.groups.filter fun g => !gone.contains g.1
           exe.barriers := s.exe.barriers.filter fun b => !bars.contains b.1 }

/-- A task ends: its LAUNCH loses it, its Pilot is told, its circuits, groups and grid barriers go. -/
def endTask (s : State) (tk : Nat) : State :=
  match s.task tk with
  | none => s
  | some t =>
    let s1 := (s.endCircuits tk true).freeGroups tk
    let s2 := match t.origin with
      | some (q, _) => { s1 with mgt.queues := s1.mgt.queues.upd {} q (dropTaskRef tk) }
      | none => s1
    let s3 := match t.pilot with
      | some cl => { s2 with eng.peqDue := s2.eng.peqDue ++ [(cl, peqRecord 2 t.status.toNat 0 t.id.toNat (t.next % 2 ^ 32) t.tag.toNat s.clock 0)] }
      | none => s2
    let grid := (List.range 4).map fun i => 3 + 4 * (i + 16 * tk)
    { s3 with mgt.tasks := s3.mgt.tasks.del tk
              exe.barriers := s3.exe.barriers.filter fun b => !grid.contains b.1 }

/-- Every gang that a task placed has been freed, and no more will be placed. -/
def taskOver (t : Task) : Bool :=
  t.freed = t.next && (t.stopped || (needOf t.record t.kdesc).ngangs ≤ t.next) && (t.state = .ready || t.state = .placed)

/-! Starting Pilot threads (R359, R363). -/

/-- A thread that a task selects: begun, resumed, or left with STATUS 0x20. -/
def startThread (s : State) (t : Task) (k : Nat) : State × Bool :=
  let th := s.exe.threads.get {} k
  let put (x : PThread) : State := { s with exe.threads := s.exe.threads.put k x, exe.ids := s.exe.ids + 1 }
  let args := BitVec.ofNat 64 (recF t.record 24 8)
  let fresh : PThread := { state := .running, ctl := { pc := BitVec.ofNat 52 (recF t.kdesc 0 8) }, spn := t.spn, args := args,
                           launchtag := t.tag, taskid := t.id, uid := s.exe.ids + 1 }
  let descr := !t.kdesc.isEmpty
  match th.state with
  | .unstarted => if descr then (put fresh, true) else (s, false)
  | .halted =>
    if descr then (put fresh, true)
    else (put { th with state := .running, args := args, launchtag := t.tag, taskid := t.id }, true)
  | _ => (s, false)

/-- The threads of a task on the Pilot of every eligible cluster; the task ends (R359). -/
def startThreads (s : State) (tk : Nat) (t : Task) : State :=
  let n := needOf t.record t.kdesc
  let cls := ((s.eligible t.precinct t.pilot n).map clusterOfCore).eraseDups
  let ks := cls.flatMap fun cl => ((List.range 4).filter fun i => n.ngangs / 2 ^ i % 2 = 1).map (cl * 4 + ·)
  let r := ks.foldl (fun (a : State × Bool) k => let b := a.1.startThread t k
                                                 (b.1, a.2 && b.2)) (s, true)
  (r.1.putTask tk { t with status := if r.2 then t.status else 0x20 }).endTask tk

/-! Placement (R361, R362). -/

/-- The ready task at the head of a precinct's queue: highest PRIO, then entry. -/
def headTask (s : State) (p : Nat) : Option (Nat × Task) :=
  (s.mgt.tasks.filter fun t => t.2.precinct = p && t.2.state = .ready && !t.2.stopped).foldl (fun (b : Option (Nat × Task)) t =>
    match b with
    | none => some t
    | some x => if x.2.prio < t.2.prio || (x.2.prio = t.2.prio && t.2.order < x.2.order) then some t else b) none

/-- The circuits of a grid are asked for when it is first placed (R406). -/
def askOnPlace (s : State) (tk : Nat) (t : Task) : State :=
  if t.next = 0 && !t.circ.isEmpty then
    { s with eng.fab.circuits := s.eng.fab.circuits ++ s.circuitsOf t.isl tk t.circ }.askCircuits tk true
  else s

/-- A task whose last gang is placed leaves the head of its queue. -/
def placedAll (s : State) (tk : Nat) : State :=
  match s.task tk with
  | some t => if (needOf t.record t.kdesc).ngangs ≤ t.next then s.putTask tk { t with state := .placed } else s
  | none => s

/-- One step of placement of a task: threads started, a co-resident grid placed whole, or one gang placed. -/
def placeStep (s : State) (tk : Nat) (t : Task) : State :=
  let n := needOf t.record t.kdesc
  if n.pilot then s.startThreads tk t
  else if n.cor then
    let s1 := placeMany tk n.ngangs s
    if (s1.task tk).any fun u => u.next = n.ngangs then (s1.askOnPlace tk t).placedAll tk
    else s.putTask tk { t with searched := true, rooms := [] }
  else match s.placeNext tk with
    | some s1 => (s1.askOnPlace tk t).placedAll tk
    | none => s.putTask tk { t with searched := true, rooms := if t.searched then t.rooms else [] }

/-- A precinct places gangs (R379, R381). -/
def placing (s : State) (p : Nat) : Bool := s.mayGo p true && (s.precinct p).state = .running

/-- Tasks take the room that a freed gang leaves as it appears (R362). -/
def placeWaiting (p : Nat) : Nat → State → State
  | 0, s => s
  | fuel + 1, s =>
    match (if s.placing p then s.headTask p else none) with
    | some (tk, t) =>
      let s1 := (s.placeStep tk t).noteRooms
      if (s1.task tk).any fun u => u.next = t.next then s1 else placeWaiting p fuel s1
    | none => s

end State

/-- TASK_ENTER_WINDOW (R358): a task of a LAUNCH enters an island's window, which has room, and takes its id. -/
def execTaskEnterWindow (isl : Nat) (s : State) : Out :=
  .next (
    let ts := s.mgt.tasks.filter fun t => t.2.isl = isl && t.2.state = .entering
    if 256 ≤ (s.windowOf isl).length then s
    else match ts[Config.freeChoice s.choices % max 1 ts.length]? with
    | none => s
    | some (k, t) =>
      let r := s.takeTaskId isl
      { r.1.putTask k { t with id := r.2, state := .held, order := r.1.exe.orders + 1 } with
        exe.orders := r.1.exe.orders + 1, choices := s.choices + 1 })

/-- TASK_READY (R360): every wait of a held task has reached its threshold and no earlier task of its context conflicts. -/
def execTaskReady (isl task : Nat) (s : State) : Out :=
  .next (
    match s.task task with
    | none => s
    | some t =>
      let waits := (waitsOf (t.deps.drop 96)).all fun w => reached (s.counter (s.counterKey t.precinct w.1)) w.2.2
      let clash := s.mgt.tasks.any fun u =>
        u.1 ≠ task && u.2.isl = t.isl && u.2.state ≠ .entering && u.2.state ≠ .done && u.2.order < t.order && u.2.spn = t.spn
          && depsConflict u.2.deps t.deps
      if t.isl = isl && t.state = .held && waits && !clash then s.putTask task { t with state := .ready } else s)

/-- GANG_PLACE (R362): the head task's next gang is placed, where a core has room. -/
def execGangPlace (isl task : Nat) (s : State) : Out :=
  .next (
    match s.task task with
    | none => s
    | some t =>
      if t.isl = isl && s.placing t.precinct && (s.headTask t.precinct).any (fun h => h.1 = task) then (s.placeStep task t).noteRooms else s)

namespace State

/-- Every engine operation of a gang has joined, and its stores and its record are performed (R133, R206, R207). -/
def gangJoined (s : State) (gk : Nat) : Bool :=
  let g := s.gangAt gk
  let core := gk / 16
  let cks := g.crews.map (core * 64 + ·)
  g.engineOps = 0 && !((s.tender core).any fun r => r.gang = gk) && cks.all (fun ck => (s.crewAt ck).ops.isEmpty)
    && !(s.coh.wbuf.any fun e => cks.contains e.crew) && !((s.eng.replays.get [] core).any fun r => cks.contains r.1)

/-- The gang's slot, crews, registers, barriers are free again; so is its group's cluster memory with its last gang (R207). -/
def releaseGang (s : State) (gk : Nat) : State :=
  let g := s.gangAt gk
  let core := gk / 16
  let cks := g.crews.map (core * 64 + ·)
  let gr := s.exe.groups.get ({} : Group) g.group
  let stopped := match s.task g.task with | some t => t.stopped | none => true
  let gone := gr.freed + 1 = gr.placed && (gr.placed = gr.size || stopped)
  let bars := cks.flatMap (fun ck => (List.range 2).map fun i => 4 * (i + 16 * ck)) ++ (List.range 16).map (fun i => 1 + 4 * (i + 16 * gk))
    ++ if gone then (List.range 8).map fun i => 2 + 4 * (i + 16 * g.group) else []
  { s with
    exe.crews := s.exe.crews.filter fun c => !cks.contains c.1
    exe.gangs := s.exe.gangs.del gk
    exe.barriers := s.exe.barriers.filter fun b => !bars.contains b.1
    exe.latches := s.exe.latches.filter fun l => !cks.contains l.2.crew
    exe.groups := if gone then s.exe.groups.del g.group else s.exe.groups.put g.group { gr with freed := gr.freed + 1 } }

/-- The task of a freed gang, which ends with its last one. -/
def countFreed (s : State) (tk : Nat) : State :=
  match s.task tk with
  | none => s
  | some t =>
    let u := { t with freed := t.freed + 1 }
    let s1 := s.putTask tk u
    if taskOver u then s1.endTask tk else s1

end State

/-- GANG_FREE (R206, R207): a gang whose lanes have all left and whose operations have joined is freed; a record not yet written is
tried again first. -/
def execGangFree (gk : Nat) (s : State) : Out :=
  .next (
    let g := s.gangAt gk
    if !g.used || g.left ≠ g.lanes then s
    else
      let s1 := (if g.written then s else s.writeRecord gk).sweepReqs (gk / 16)
      if (s1.gangAt gk).written && s1.gangJoined gk then
        State.placeWaiting (s1.precinctOfCore (gk / 16)) 64 ((s1.releaseGang gk).countFreed g.task).noteRooms
      else s1)

end Sys2Proof.Machine
end

