-- ==== Sys2Proof/Machine/Fragment.lean ====
section
/-! DEFINITION. Clause headers, entry into handling, and fragments and threads that become ready (R126-R128, R188, R193, R204,
R211, R212, R323, R344, R371, R375, R378). -/

namespace Sys2Proof.Machine

open Sys2Proof

/-- CLAUSE_HEADER (R211, R212, R323): the WAIT mask is tested once, the run of the clause is opened when its increments fit, and its first word
comes next. -/
def execClauseHeader (h : Header) (s : State) : Out :=
  .next (
    if s.pilot then s.setCtl { s.ctl with hdr := h, cpos := 1, wrv := none }
    else match s.takeErr fun k => k.toNat < 12 && h.wait.getLsbD k.toNat with
    | some s1 => s1
    | none =>
      let s1 := s.setCtl { s.ctl with hdr := h }
      match s.headerWaits h with
      | some (.fits ks) => (s.setFrag { s.frag with tested := true }).stall 3 (.fits ks)
      | some w => s.stall 3 w
      | none => ((s1.openRun h (s1.classes 1)).setCtl { s1.ctl with cpos := 1, wrv := none }).noteIssue)

/-- HANDLER_ENTRY (R193, R370, R371, R375): the next moored fragment of a crew takes the handling slot. -/
def execHandlerEntry (core entry : Nat) (s : State) : Out :=
  .next (
    let k := core * 320 + entry
    let f := s.fragAt k
    let c := s.crewAt (core * 64 + f.crew)
    if f.mask ≠ 0 && f.state = .moored && c.handling.isNone && s.nextMoored core f.crew = some k
        && (s.precinct (s.precinctOfCore core)).state = .running && s.mayGo (s.precinctOfCore core) true && !(s.gangOfFrag k f).aborted then
      { { s with cur := .frag core entry }.enterHandler with cur := s.cur }
    else s)

namespace State

/-- The condition that a waiting fragment or thread waits for has come about (R188). The agent is the current one. -/
def waitOver (s : State) (w : WaitFor) : Bool :=
  match w with
  | .arrival k => (s.barAt k).obs = 0
  | .flags m => (List.range 12).all (fun k => !m.getLsbD k || flag s.crew k = 0)
      || s.frag.errs.any fun e => e.1.toNat < 12 && m.getLsbD e.1.toNat
  | .fits ks => runFits s.crew ks
  | .regs rd wr => !conflict s.crew s.frag.mask wr rd
  | .op n => (s.crew.ops.find n).isNone
  | .fence scope => if scope = 6 then s.transDone else s.released scope
  | .rfence => !(s.eng.ops.any fun o => s.mine o.2)
  | .counter l => Memory.readN s.mem l 4 = 0
  | .notify k t => reached (s.counter k) t
  | .room | .berth | .retry => true
  | .breakpoint => !(s.precinct s.myPrecinct).armbp
  | .none | .join | .barrier _ _ | .window | .doorbell => false

/-- The current fragment becomes ready, or goes on in its handler. -/
def makeReady (s : State) : State :=
  let f := s.frag
  s.setFrag { f with state := if f.ctl.sup then .handling else .ready, wait := 0, age := s.clock, passed := 0,
                     stop := !s.mayGo s.myPrecinct true || (s.gangOfFrag s.fkey f).aborted, waitFor := if f.waitFor = .berth then .berth else .none }

/-- What the fence of the current fragment's window waited for is done (R126). -/
def windowDone (s : State) : Bool := s.frag.window.any fun w => s.fenceDone w.sc w.scope.toNat w.first

/-- The window of a fragment that waited for it is over: a deferred fault is taken, or the instruction goes ahead (R128, R378). -/
def windowOver (s : State) : State :=
  let ds := match s.frag.window with | some w => w.deferred | none => []
  let s1 := s.endWindow
  let s2 := s1.makeReady
  if ds.isEmpty then (if s2.ctl.cpos = 0 then s2.arrive else s2)
  else
    let s3 := s2.moorLanes ds true
    if s3.frag.state = .moored then s3 else s3.advance 1

/-- The current fragment looks at what it waits for. -/
def wakeFrag (s : State) : State :=
  let f := s.frag
  let waiting : Bool := f.state = .waiting
  if f.mask = 0 || !s.mayGo s.myPrecinct true || (s.gangOfFrag s.fkey f).aborted then s
  else if s.windowDone && f.waitFor ≠ .window then s.closeWindow
  else if !waiting then s
  else match f.waitFor with
  | .barrier k ph => if (s.barAt k).ph ≠ ph then wakeBarrier s k else s
  | .window => if s.windowDone then s.windowOver else s
  | w => if s.waitOver w then s.makeReady else s

/-- The record at a place of the queue popped into a block of eight scalar registers (R344). -/
def popInto (s : State) (i : Nat) (d : Opnd) : State :=
  let q := s.exe.pilots.get {} s.cluster
  match q.peq[i]?, d with
  | some r, .s n =>
    (List.range 8).foldl (fun s k => s.putS (n.toNat + k) (BitVec.ofNat 32 (natOf ((r.drop (4 * k)).take 4))))
      { s with exe.pilots := s.exe.pilots.put s.cluster { q with peq := q.peq.eraseIdx i } }
  | _, _ => s

/-- The orders of the threads of a Pilot that wait at EVWAIT, and the first of them. -/
def evWaiters (s : State) (cl : Nat) : List (Nat × Nat) :=
  (s.exe.threads.filter fun t => t.1 / 4 = cl).filterMap fun t => match t.2.state with | .evwait n _ _ => some (n, t.1) | _ => none
def firstWaiter (s : State) (cl : Nat) : Option Nat :=
  ((s.evWaiters cl).foldl (fun (b : Option (Nat × Nat)) w => match b with
    | none => some w
    | some x => if w.1 < x.1 then some w else b) none).map (·.2)

/-- The current Pilot thread looks at what it waits for. -/
def wakeThread (s : State) : State :=
  let t := s.thread
  let p := s.precinctOf s.cluster
  if !s.mayGo p true || (s.precinct p).aborts.contains t.launchtag then s
  else match t.state with
  | .wait => if s.waitOver t.waitFor then s.setThread { t with state := .running, waitFor := .none } else s
  | .evwait _ d len =>
    if s.firstWaiter s.cluster = some s.tkey && !(s.exe.pilots.get {} s.cluster).peq.isEmpty then
      ((s.setThread { t with state := .running }).popInto 0 (.s (BitVec.ofNat 7 d))).advance len
    else s
  | _ => s

end State

/-- FRAGMENT_WAKE (R188): a fragment or thread whose condition has cleared goes on. -/
def execFragmentWake (a : Agent) (s : State) : Out :=
  .next (
    let s1 := { s with cur := a }
    { (match a with | .frag _ _ => s1.wakeFrag | .pilot _ _ => s1.wakeThread) with cur := s.cur })

end Sys2Proof.Machine
end

