-- ==== Sys2Proof/Machine/Pilot.lean ====
section
/-! DEFINITION. The Pilot's instructions: its event queue, task launch, stopping and waiting (R343-R346, R364). -/

namespace Sys2Proof.Machine

open Sys2Proof

/-! Event queue (R344). -/

namespace State

/-- The place of the oldest record that no waiting EVWAIT takes: those that wait take the records before it, in the order in which they began. -/
def freePlace (s : State) : Nat := (s.evWaiters s.cluster).length

/-- There is such a record. -/
def recordFree (s : State) : Bool := s.freePlace < (s.pilotQ s.cluster).peq.length

end State

/-- EVPOP: the oldest record, if one is present. -/
def execEvpop (x : RI) (s : State) : Out :=
  .next (
    if !s.qguard x.guard then s.advance (RI.len x)
    else if s.recordFree then ((s.popInto s.freePlace x.d).wrQ x.c true).advance (RI.len x)
    else (s.wrQ x.c false).advance (RI.len x))

/-- EVWAIT: the oldest record, waited for in turn. -/
def execEvwait (x : RI) (s : State) : Out :=
  .next (
    let d := match x.d with | .s n => n.toNat | _ => 0
    if !s.qguard x.guard then s.advance (RI.len x)
    else if s.recordFree then (s.popInto s.freePlace x.d).advance (RI.len x)
    else { s.setThread { s.thread with state := .evwait (s.exe.orders + 1) d (RI.len x) } with exe.orders := s.exe.orders + 1 })

/-! Task launch (R345, R357, R364). -/

namespace State

/-- A read of the thread, cut at lines: bytes, a fault, or not yet. -/
inductive PRead
  | ok (bs : List Byte)
  | fault (c : Byte) (a fpte : W64)
  | wait
  deriving DecidableEq, Repr

def threadRead (s : State) (a : W64) (n : Nat) : State × PRead :=
  match s.resolveRange s.me .load 0 a n with
  | (s1, .ok ls ca) =>
    let ps := lineSplit a.toNat ls
    (match ps.find? fun p => s1.badLine p.1 with
     | some p => (s1, .fault 4 (BitVec.ofNat 64 p.2.2) 0)
     | none =>
       match s1.readAll s1.me 0 ca ps with
       | (s2, some bs) => (s2, .ok bs)
       | (s2, none) => (s2, .wait))
  | (s1, .fault c f p) => (s1, .fault c f p)
  | (s1, _) => (s1, .wait)

/-- A block that a record names, where it names one; a failing read makes the record malformed, which `none` says. -/
def threadBlock (s : State) (addr n : Nat) : State × Option (Option (List Byte)) :=
  if addr = 0 then (s, some (some []))
  else match s.threadRead (BitVec.ofNat 64 addr) n with
    | (s1, .ok bs) => (s1, some (some bs))
    | (s1, .fault _ _ _) => (s1, some none)
    | (s1, .wait) => (s1, none)

/-- The circuit list: its count, then its entries. -/
def threadCirc (s : State) (addr : Nat) : State × Option (Option (List Byte)) :=
  match s.threadBlock addr 8 with
  | (s1, some (some h)) => if h.isEmpty then (s1, some (some [])) else s1.threadBlock addr (8 + 8 * min 16 (recF h 0 8))
  | r => r

/-- The task of a record enters the window with an id and a tag; a malformed one leaves it at once (R345). -/
def launchTask (s : State) (t : Task) (bad : Bool) : State × W32 :=
  let r := s.takeTaskId t.isl
  let g := r.1.takeTag
  let tk := g.1.taskKey
  let u := { t with id := r.2, tag := g.2, state := .held, order := g.1.exe.orders + 1 }
  let s1 := { g.1 with exe.orders := g.1.exe.orders + 1 }.addTask u
  let wrong := bad || (s1.taskBad tk u).isSome
  (if wrong then (s1.putTask tk { u with status := 0x20, malformed := true, stopped := true }).endTask tk else s1, r.2)

end State

/-- TLAUNCH (R345). -/
def execTlaunch (x : RI) (s0 : State) : Out :=
  .next (
    let r := s0.walk [x.a]
    let s := r.2
    let a := s.u64 r.1 x.lit x.a
    let try_ := x.sub.getLsbD 0
    if !s.qguard x.guard then s.advance (RI.len x)
    else match s.resolve s.me a 128 .load with
    | (s1, .fault c f) => s1.moorAll c (some a) (some f)
    | (s1, _) =>
      if !s1.released 3 then s1.stall 5 (.fence 3)
      else match s1.threadRead a 128 with
      | (s2, .wait) => s2.stall 7 .retry
      | (s2, .fault c f p) => s2.moorAll c (some f) (some p)
      | (s2, .ok rec) =>
        if 256 ≤ (s2.windowOf s2.isl).length then
          (if try_ then (s2.wrQ x.c false).advance (RI.len x) else s2.stall 7 .room)
        else
          let k := if recFlag rec 6 && recF rec 0 8 % 2 ^ 52 = 0 then 0 else recF rec 0 8 % 2 ^ 52
          let needK := !(recFlag rec 6) || k ≠ 0
          let kd := if needK then (match s2.threadRead (BitVec.ofNat 64 k) 64 with
            | (s3, .ok bs) => (s3, some (some bs)) | (s3, .fault _ _ _) => (s3, some none) | (s3, .wait) => (s3, none))
            else (s2, some (some []))
          match kd with
          | (s3, none) => s3.stall 7 .retry
          | (s3, some kdesc) =>
            match s3.threadBlock (recF rec 88 8 % 2 ^ 52) 128 with
            | (s4, none) => s4.stall 7 .retry
            | (s4, some deps) =>
              match s4.threadCirc (recF rec 96 8 % 2 ^ 52) with
              | (s5, none) => s5.stall 7 .retry
              | (s5, some circ) =>
                let t : Task := { isl := s5.isl, id := 0, tag := 0, spn := s5.spn, precinct := s5.myPrecinct, sup := s5.sup,
                                  prio := recF rec 80 1 % 4, origin := none, pilot := some s5.cluster, record := rec,
                                  kdesc := kdesc.getD [], deps := deps.getD [], circ := circ.getD [], order := 0 }
                let r := s5.launchTask t (kdesc.isNone || deps.isNone || circ.isNone)
                let s6 := (r.1.setThread { r.1.thread with ptask := r.2 }).wrS x.d r.2
                (if try_ then s6.wrQ x.c true else s6).advance (RI.len x))

/-! Stopping and waiting (R346). -/

/-- HALT: the thread stops after the instruction and the Harbourmaster is told. -/
def execHalt (x : RI) (s : State) : Out :=
  .next (
    if !s.qguard x.guard then s.advance 1
    else
      let s1 := s.postMine 11 0 s.ctl.pc.toNat 0
      let s2 := s1.advance 1
      if s2.thread.state = .halted then s2 else s2.setThread { s2.thread with state := .halted })

/-- IDLE: waits until a record is posted or a wake comes; it pops nothing. -/
def execIdle (x : RI) (s : State) : Out :=
  .next (
    if !s.qguard x.guard then s.advance 1
    else if s.thread.idleDone || !(s.pilotQ s.cluster).peq.isEmpty then (s.setThread { s.thread with idleDone := false }).advance 1
    else s.setThread { s.thread with state := .idle })

end Sys2Proof.Machine
end

