-- ==== Sys2Proof/Machine/Preempt.lean ====
section
/-! DEFINITION. Precinct halts, resumes, exchanges and aborts; breakpoints, wakes, debug halts and the pool doorbell (R129, R225,
R376, R379-R391). -/

namespace Sys2Proof.Machine

open Sys2Proof

namespace State

/-- A core belongs to the clusters that a precinct names. -/
def holdsCore (s : State) (p core : Nat) : Bool := s.holdsCluster p (core / 8)

/-- The cores of a precinct. -/
def coresOf (s : State) (p : Nat) : List Nat :=
  (List.range (2 ^ (s.precinct p).size)).flatMap fun i => (List.range 8).map ((p + i) * 8 + ·)

/-- A command that waits is delivered again later (DESIGN CHOICE, safe: log 5). -/
def later (s : State) (i : Instr) : State := { s with inbox := s.inbox ++ [i] }

/-- A command that is not valid is refused (R391). -/
def refuse (s : State) (p : Nat) : State := s.setPrecinct p { s.precinct p with err := true }

/-- A debug halt stands on the island of a precinct (R389). -/
def debugging (s : State) (p : Nat) : Bool := s.mgt.dhalt.get false (p / 16)

/-! Stop points (R129, R379). -/

/-- A fragment in a window goes back to its fence, where it has stopped and which it executes again (R129); its AGE stays (R387, R389). -/
def discardWindow (s : State) (k : Nat) : State :=
  match (s.fragAt k).window with
  | none => s
  | some w =>
    let s1 := s.rollback k
    let f := s1.fragAt k
    let same : Bool := w.after.pc = w.fence.pc && w.after.cpos ≠ 0
    let run := if same then w.run else 0
    s1.putFrag k { f with ctl := w.fence, window := none, run := run, state := if w.fence.sup then .handling else .ready, stop := true }

/-- Agents that a halt had stopped at their places and that may go on do so (R387, R389). -/
def unstop (s : State) : State :=
  { s with
    exe.frags := s.exe.frags.map fun (f : Nat × Frag) =>
      let p := s.precinctOfCore (f.1 / 320)
      if f.2.stop && s.mayGo p true && !(s.gangOfFrag f.1 f.2).aborted then (f.1, { f.2 with stop := false }) else f
    exe.threads := s.exe.threads.map fun (t : Nat × PThread) =>
      let p := s.precinctOf (t.1 / 4)
      if t.2.stop && s.mayGo p true && !(s.precinct p).aborts.contains t.2.launchtag then (t.1, { t.2 with stop := false }) else t }

/-- Windows of the fragments that a test names are discarded. -/
def discardWindows (s : State) (p : Nat → Bool) : State :=
  (s.exe.frags.filter fun f => p f.1).foldl (fun (s : State) (f : Nat × Frag) => s.discardWindow f.1) s

def fragStopped (f : Frag) : Bool := f.mask = 0 || f.state = .waiting || f.state = .moored || atStop f
def threadStopped (t : PThread) : Bool := t.state ≠ .running || threadAtStop t

/-! Halt (R380, R381). -/

/-- An access waits for one of an earlier operation: by program order, by a release, or for a common byte (R108, R109, R118). -/
def waitsFor (s : State) (ck id : Nat) (o : LOp) (a : Acc) (x : Nat × LOp) : Bool :=
  shares o.owners x.2.owners && isAccess x.2 && (x.1 ≤ o.after || (o.rel.any fun r => x.1 < r.upto)
    || (x.1 < id && (!isAccess o || x.2.accs.any fun b => s.mayMeet (s.crewWho ck x.2.sup) (accBytes x.2) b a.locs)))

/-- Operations of a crew of which nothing is left but parked accesses and what waits behind them (R79, R380), in order of issue. -/
def stuckOps (s : State) (ck : Nat) : List (Nat × LOp) :=
  (s.crewAt ck).ops.foldl (fun done o =>
    let held (a : Acc) : Bool := a.parked || (done.any fun x => s.waitsFor ck o.1 o.2 a x)
      || o.2.accs.any fun b => b.parked && b.lane < a.lane && s.mayMeet (s.crewWho ck o.2.sup) (accBytes o.2) b a.locs
    let stuck : Bool := match o.2.kind with
      | .ldf | .adrn _ => o.2.accs.any held
      | _ => !o.2.accs.isEmpty && o.2.accs.all held
    if stuck then done ++ [o] else done) []

/-- An island operation that can go no further until a parked access is performed: its own, or one that its issue comes after (R131, R151). -/
def opStuck (s : State) (o : IslOp) : Bool :=
  o.parked.isSome || (!o.begun && !o.pilot && !(s.stuckOps o.crew).isEmpty && !s.forked o)

/-- An island operation was issued in a precinct. -/
def opIn (s : State) (p : Nat) (o : IslOp) : Bool := if o.pilot then s.holdsCluster p (o.crew / 4) else s.holdsCore p (o.crew / 64)

/-- A granule of which every row left is parked, or shares a unit with one that is: it is suspended at a halt (R380). -/
def suspended (t : TRec) (g : GRes) : Bool :=
  !g.todo.isEmpty && g.todo.all fun q => (unitGroup t g.todo.length [q] g.todo).1.any fun x => x.parked.isSome

/-- Stores of a precinct's agents that are still to be performed. -/
def buffered? (s : State) (p : Nat) : Bool :=
  s.coh.wbuf.any fun e => s.holdsCluster p (e.core / 144 * 16 + clusterOfAgent (e.core % 144))

/-- Every agent of a precinct has stopped, and what runs on has ended but for parked accesses. An island operation whose source read or landing
is parked after its issue goes on at resume (DEDUCED, safe: log 119); one parked at issue is not issued (R142, R380). -/
def haltDone (s : State) (p : Nat) : Bool :=
  s.exe.frags.all (fun f => !s.holdsCore p (f.1 / 320) || fragStopped f.2)
    && s.exe.threads.all (fun t => !s.holdsCluster p (t.1 / 4) || threadStopped t.2)
    && s.exe.crews.all (fun c => !s.holdsCore p (c.1 / 64) || (s.stuckOps c.1).length = c.2.ops.length)
    && s.eng.ops.all (fun o => !s.opIn p o.2 || s.opStuck o.2)
    && !s.buffered? p
    && (s.coresOf p).all fun core => (s.tender core).all fun r =>
      r.flight.all fun k => r.granules.any fun g => g.k = k && suspended (tenderRec r.words) g

/-- An operation of which only parked accesses are left, and what waits behind them, as a replay record: what it has done is written (R380). -/
def replayOf (ck : Nat) (s : State) (id : Nat) (o : LOp) : State :=
  let c := writeValues (s.crewAt ck) (o.values.filter fun v => o.lanes.getLsbD v.2.1)
  let o1 := { o with run := 0, values := [], stat := 0, lanes := maskOf (o.accs.map (·.lane)) }
  let s1 := s.putCrew ck { c with astat := c.astat ||| o.stat, firm := c.firm ||| o.stat, ops := c.ops.del id }
  { s1 with eng.replays := s1.eng.replays.put (ck / 64) (s1.eng.replays.get [] (ck / 64) ++ [(ck, id, o1)]) }

/-- The operations of a crew become replay records; its flags are 0; `sys.faddr` lives only in lanes that are moored or in handling,
and has no value in others (R225), as `sys.fpte` has none outside handling (R84). -/
def quietCrew (s : State) (ck : Nat) : State :=
  let s1 := (s.crewAt ck).ops.foldl (fun s o => replayOf ck s o.1 o.2) s
  let c := s1.crewAt ck
  let kept := (s1.fragsOfCrew (ck / 64) (ck % 64)).foldl (fun (m : Mask) (f : Nat × Frag) =>
    if f.2.state = .moored || f.2.state = .handling || f.2.ctl.sup then m ||| f.2.mask else m) 0
  let gone := (lanesOf (~~~kept)).filter fun L => (c.faddr.find L).isSome
  { s1.putCrew ck { c with flags := [], runs := [],
                           faddr := gone.foldl (fun t L => t.put L (Config.freeWord (s1.choices + L))) c.faddr } with
    choices := if gone.isEmpty then s1.choices else s1.choices + 32 }

/-- The precinct comes to rest: replay records, no clause runs, no latched operands, no circuits, and nothing of a fragment that is not live:
the result of a WAIT test, its pending errors of R323 (DEDUCED, unsafe: log 127), a parked access of an instruction, which is executed again. -/
def rest (s : State) (p : Nat) : State :=
  let s1 := ((s.exe.crews.filter fun c => s.holdsCore p (c.1 / 64)).map (·.1)).foldl quietCrew s
  let row (q : Row) : Row := { q with ready := false, parked := none }
  let rows (r : TReq) : TReq := { r with granules := r.granules.map fun (g : GRes) => { g with todo := g.todo.map row } }
  let s2 := { s1 with
    exe.frags := s1.exe.frags.map fun (f : Nat × Frag) =>
      if s.holdsCore p (f.1 / 320) then (f.1, { f.2 with run := 0, tested := false, errs := [], parked := none }) else f
    exe.threads := s1.exe.threads.map fun (t : Nat × PThread) =>
      if s.holdsCluster p (t.1 / 4) then (t.1, { t.2 with parked := none }) else t
    exe.latches := s1.exe.latches.filter fun l => !s.holdsCore p (l.1 / 4)
    exe.bays := s1.exe.bays.filter fun b => !s.holdsCore p (b.1 / 4)
    exe.yielded := s1.exe.yielded.filter fun b => !s.holdsCore p (b.1 / 4)
    eng.tenders := s1.eng.tenders.map fun (t : Nat × List TReq) =>
      if s.holdsCore p t.1 then
        (t.1, t.2.map rows) else t }
  s2.mgt.tasks.foldl (fun (s : State) (t : Nat × Task) => if t.2.precinct = p then s.endCircuits t.1 false else s) s2

end State

/-- HALT (R379, R381): a running precinct begins to halt; windows are discarded. -/
def execPrecinctHalt (p : Nat) (s : State) : Out :=
  .next (
    let x := s.precinct p
    if !s.booted then s
    else if x.valid && s.debugging p then s.later (.precinctHalt p)
    else if x.valid && x.state = .running then
      (s.setPrecinct p { x with state := .halting }).discardWindows (fun k => s.holdsCore p (k / 320))
    else s.refuse p)

/-- HALT_COMPLETE (R381). -/
def execHaltComplete (p : Nat) (s : State) : Out :=
  .next (
    let x := s.precinct p
    if x.valid && x.state = .halting && s.haltDone p then
      ((s.rest p).setPrecinct p { x with state := .halted }).postEvent p 13 0 0x7F 0 0 0
    else s)

/-! Resume (R387). -/

namespace State

/-- The order in which the first access left of an operation was parked. -/
def firstParked (o : LOp) : Nat := (o.accs.filter (·.parked)).foldl (fun b a => if b = 0 then a.pseq else min b a.pseq) 0

/-- Replay records in the order in which they were parked (R78). -/
def inParkOrder (l : List (Nat × Nat × LOp)) : List (Nat × Nat × LOp) :=
  l.foldl (fun acc r => acc.takeWhile (fun a => firstParked a.2.2 ≤ firstParked r.2.2) ++ [r] ++ acc.dropWhile fun a => firstParked a.2.2 ≤ firstParked r.2.2) []

/-- A record's accesses to be made again: those of lanes are translated anew. -/
def again (o : LOp) : LOp :=
  match o.kind with
  | .ldf | .adrn _ | .mma | .ald => o
  | _ => { o with accs := o.accs.map fun a => { a with parked := true, pseq := 0, pva := a.va.toNat, locs := [], fault := none, replay := true } }

/-- The replay records of a precinct are reissued, in the order in which they were parked, and its suspended granules go on (R380, R387). -/
def reissue (s : State) (p : Nat) : State :=
  let cores := s.coresOf p
  let rs := inParkOrder (cores.flatMap fun c => s.eng.replays.get [] c)
  let row (q : Row) : Row := { q with replay := true }
  let rows (r : TReq) : TReq := { r with granules := r.granules.map fun (g : GRes) => { g with todo := g.todo.map row } }
  let s0 := { s with
    eng.replays := s.eng.replays.filter fun t => !s.holdsCore p t.1
    eng.tenders := s.eng.tenders.map fun (t : Nat × List TReq) =>
      if s.holdsCore p t.1 then
        (t.1, t.2.map rows) else t }
  let s1 := rs.foldl (fun s r => s.putCrew r.1 { s.crewAt r.1 with ops := (s.crewAt r.1).ops.put r.2.1 (again r.2.2) }) s0
  let s2 := rs.foldl (fun s r => s.progressOp r.1 r.2.1) s1
  cores.foldl (fun s core => (s.tender core).foldl (fun s r => r.flight.foldl (fun s k => granuleDone core r.id k s) s) s) s2

/-- The pool doorbell acts: those that wait on an empty pool go on at their POOLPOP (R188). -/
def ringDoor (s : State) (p : Nat) : State :=
  let stop := !s.mayGo p true
  { s.setPrecinct p { s.precinct p with door := false } with
    exe.frags := s.exe.frags.map fun f =>
      if s.holdsCore p (f.1 / 320) && f.2.state = .moored && f.2.waitFor = .doorbell then
        (f.1, { f.2 with state := .handling, waitFor := .none, age := s.clock, passed := 0, stop := stop }) else f
    exe.threads := s.exe.threads.map fun t =>
      if s.holdsCluster p (t.1 / 4) && t.2.state = .wait && t.2.waitFor = .doorbell then
        (t.1, { t.2 with state := .running, waitFor := .none, stop := stop }) else t }

end State

/-- RESUME (R387, R388). -/
def execResume (p : Nat) (s : State) : Out :=
  .next (
    let x := s.precinct p
    if !s.booted then s
    else if !(x.valid && x.state = .halted) then s.refuse p
    else
      let s1 := s.reissue p
      let s2 := s1.mgt.tasks.foldl (fun (s : State) (t : Nat × Task) => if t.2.precinct = p then s.askCircuits t.1 true else s) s1
      let fs := s2.exe.frags.map fun (f : Nat × Frag) => if s.holdsCore p (f.1 / 320) then (f.1, { f.2 with passed := 0 }) else f
      let s3 := { s2 with exe.frags := fs }
      let s4 := (s3.setPrecinct p { s3.precinct p with state := .running }).unstop
      if x.door then s4.ringDoor p else s4)

/-! Exchange (R383-R386). -/

namespace State

/-- Two precincts name a common cluster. -/
def meets (s : State) (p q : Nat) : Bool :=
  p / 16 = q / 16 && p < q + 2 ^ (s.precinct q).size && q < p + 2 ^ (s.precinct p).size

/-- The other precincts that exist and meet a precinct. -/
def others (s : State) (p : Nat) : List (Nat × Precinct) := s.mgt.precincts.filter fun q => q.2.valid && q.1 ≠ p && s.meets p q.1

/-- Precincts resident on the clusters of one that comes in. -/
def residents (s : State) (p : Nat) : List (Nat × Precinct) := (s.others p).filter fun q => q.2.state ≠ .swapped

/-- Precincts whose images lie in the slots that an exchange needs: those of the clusters of the precincts `ps`. -/
def inTheWay (s : State) (ps : List Nat) : List (Nat × Precinct) :=
  s.mgt.precincts.filter fun q => q.2.valid && q.2.image = 1 && !ps.contains q.1 && ps.any fun p => s.meets p q.1

/-- An image written to its precinct's overflow area, 6 MiB for each cluster: the spec leaves the layout of its bytes open, which are free
(R383, R384; DESIGN CHOICE, safe: log 78). -/
def writeImage (s : State) (p : Nat) : State :=
  let x := s.precinct p
  let n := 2 ^ x.size * 6 * 2 ^ 20
  let at_ := locPA (p / 16) x.ovf.toNat
  let bs := (List.range n).map fun i => (at_ + i, (Config.freeWord (s.choices + i)).setWidth 8)
  { s with mem := Memory.writeAll s.mem bs, choices := s.choices + n }.cleanCovered [(at_, n)]

/-- The images that stand in the way go to their overflow areas, and the exchange of these precincts begins. -/
def beginExchange (s : State) (ps : List Nat) : State :=
  let s1 := (s.inTheWay ps).foldl (fun s q => (s.setPrecinct q.1 { q.2 with image := 2 }).writeImage q.1) s
  ps.foldl (fun s p => s.setPrecinct p { s.precinct p with state := .exchanging }) s1

end State

/-- EXCHANGE (R383, R391): a halted precinct begins to go out; a swapped one to come in, for those resident on its clusters. -/
def execExchange (p : Nat) (s : State) : Out :=
  .next (
    let x := s.precinct p
    if !s.booted then s
    else if x.valid && s.debugging p then s.later (.exchange p)
    else
      let outs := s.residents p
      let ps := if x.state = .halted then [p] else p :: outs.map (·.1)
      if x.valid && (x.state = .halted || (x.state = .swapped && outs.all fun q => q.2.state = .halted))
          && (s.inTheWay ps).all fun q => q.2.ovf ≠ 0 then
        s.beginExchange ps
      else s.refuse p)

namespace State

/-- The cluster that a barrier's crew, gang or group lives on; a grid's barriers live with its precinct. -/
def barHome (s : State) (k : Nat) : Nat :=
  let owner := k / 4 / 16
  match k % 4 with
  | 0 => owner / 64 / 8
  | 1 => owner / 16 / 8
  | 2 => (s.exe.groups.get ({} : Group) owner).cluster
  | _ => match s.task owner with | some t => t.precinct | none => 0

/-- The part of the execution state that stands on some clusters, or the rest of it. -/
def execPart (s : State) (cl : Nat → Bool) : Exec :=
  let e := s.exe
  { e with
    crews := e.crews.filter fun x => cl (x.1 / 64 / 8)
    frags := e.frags.filter fun x => cl (x.1 / 320 / 8)
    joins := e.joins.filter fun x => cl (x.1 / 256 / 8)
    barriers := e.barriers.filter fun x => cl (s.barHome x.1)
    gangs := e.gangs.filter fun x => cl (x.1 / 16 / 8)
    groups := e.groups.filter fun x => cl x.2.cluster
    tiles := e.tiles.filter fun x => cl (x.1 / 64 / 8)
    latches := e.latches.filter fun x => cl (x.1 / 4 / 8)
    threads := e.threads.filter fun x => cl (x.1 / 4)
    pilots := e.pilots.filter fun x => cl x.1
    bays := e.bays.filter fun x => cl (x.1 / 4 / 8)
    yielded := e.yielded.filter fun x => cl (x.1 / 4 / 8) }

/-- A table with the entries of another put in. -/
def merge {α : Type} (a b : Tbl α) : Tbl α := b.foldl (fun t x => t.put x.1 x.2) a

def mergeExec (a b : Exec) : Exec :=
  { a with crews := merge a.crews b.crews, frags := merge a.frags b.frags, joins := merge a.joins b.joins
           barriers := merge a.barriers b.barriers, gangs := merge a.gangs b.gangs, groups := merge a.groups b.groups
           tiles := merge a.tiles b.tiles, latches := merge a.latches b.latches, threads := merge a.threads b.threads
           pilots := merge a.pilots b.pilots, bays := merge a.bays b.bays, yielded := merge a.yielded b.yielded }

/-- The location is scratchpad or cluster memory of the clusters. -/
def onChip (cl : Nat → Bool) (a : Nat) : Bool :=
  (2 ^ 50 ≤ a && a < 2 ^ 51 && cl ((a - 2 ^ 50) / 2 ^ 18 / 8)) || (2 ^ 51 ≤ a && a < 2 ^ 52 && cl ((a - 2 ^ 51) / 2 ^ 19))

/-- The lines of the caches of a precinct's clusters are given up, and the TLB entries of its clusters removed (R69, R97,
R102). -/
def flushClusters (s : State) (p : Nat) : State :=
  let mine (k : Nat) : Bool := s.holdsCluster p (k / 2 ^ 41 / 144 * 16 + clusterOfAgent (k / 2 ^ 41 % 144))
  let ks := ((s.coh.l1.map (·.1)) ++ (s.coh.partials.map (·.1))).filter mine
  let s1 := ks.foldl (fun s k => s.evictL1 (k / 2 ^ 41 / 144) (k / 2 ^ 41 % 144) (k % 2 ^ 41)) s
  { s1 with
    coh.icache := s1.coh.icache.filter fun e =>
      let a := e.1 / 2 ^ 45 / 4096
      !(s.holdsCluster p (a / 144 * 16 + clusterOfAgent (a % 144)))
    trn.tlb := s1.trn.tlb.filter fun e => !(e.tlb < 16 && s.holdsCluster p (e.isl * 16 + e.tlb))
    trn.wcache := s1.trn.wcache.filter fun e => !(e.tlb < 16 && s.holdsCluster p (e.isl * 16 + e.tlb)) }

/-- Nothing of a precinct stands on its clusters any more: what is moved there next writes every word anew (R57). -/
def clearClusters (s : State) (p : Nat) : State :=
  let cl := s.holdsCluster p
  { s with
    exe := s.execPart fun k => !cl k
    eng.tenders := s.eng.tenders.filter fun t => !cl (t.1 / 8)
    eng.replays := s.eng.replays.filter fun t => !cl (t.1 / 8)
    eng.ops := s.eng.ops.filter fun o => !s.opIn p o.2
    eng.peqDue := s.eng.peqDue.filter fun d => !cl d.1
    coh.badWords := s.coh.badWords.filter fun w => !onChip cl (4 * w)
    coh.soft := s.coh.soft.filter fun w => !onChip cl (4 * w)
    mem := s.mem.filter fun c => !onChip cl c.1 }

/-- A precinct goes out: its caches are written back and its live state becomes its image (R384). -/
def goOut (s : State) (p : Nat) : State :=
  let s1 := s.flushClusters p
  let cl := s1.holdsCluster p
  let im : Image := { exec := s1.execPart cl, tenders := s1.eng.tenders.filter fun t => cl (t.1 / 8)
                      replays := s1.eng.replays.filter fun t => cl (t.1 / 8), ops := s1.eng.ops.filter fun o => s1.opIn p o.2
                      peqDue := s1.eng.peqDue.filter fun d => cl d.1, mem := s1.mem.filter fun c => onChip cl c.1 }
  let s2 := s1.clearClusters p
  { s2.setPrecinct p { s2.precinct p with state := .swapped, image := 1 } with mgt.images := s2.mgt.images.put p im }

/-- A precinct comes in from its image. -/
def comeIn (s : State) (p : Nat) : State :=
  let im := s.mgt.images.get {} p
  let s1 := s.clearClusters p
  let s2 := { s1 with
    exe := mergeExec s1.exe im.exec
    eng.tenders := merge s1.eng.tenders im.tenders
    eng.replays := merge s1.eng.replays im.replays
    eng.ops := merge s1.eng.ops im.ops
    eng.peqDue := s1.eng.peqDue ++ im.peqDue
    mem := Memory.writeAll s1.mem im.mem
    mgt.images := s1.mgt.images.del p }
  s2.setPrecinct p { s2.precinct p with state := .halted, image := 0 }

/-- The image of a precinct holds an uncorrectable error (R386). -/
def imageBad (s : State) (p : Nat) : Bool :=
  let x := s.precinct p
  let l := locPA (p / 16) x.ovf.toNat
  x.badImage || (x.image = 2 && s.coh.bad.any fun b => l / 128 ≤ b.1 && b.1 < l / 128 + 2 ^ x.size * 6 * 2 ^ 13)

/-- A precinct fails; its tasks end without completion records (R386). -/
def failPrecinct (s : State) (p : Nat) : State :=
  let s1 := s.setPrecinct p { s.precinct p with state := .failed }
  (s1.mgt.tasks.filter fun t => t.2.precinct = p).foldl (fun (s : State) (t : Nat × Task) => s.endTask t.1) s1

end State

/-- EXCHANGE_COMPLETE (R383, R386): the state moves; an uncorrectable error in the image that comes in fails every precinct
involved. -/
def execExchangeComplete (p : Nat) (s : State) : Out :=
  .next (
    let x := s.precinct p
    let comes : Bool := x.image ≠ 0
    let outs := if comes then ((s.others p).filter fun q => q.2.state = .exchanging).map (·.1) else [p]
    if !(x.valid && x.state = .exchanging) || outs.any s.buffered? || (!comes && (s.others p).any fun q => q.2.state = .exchanging && q.2.image ≠ 0) then s
    else if comes && s.imageBad p then ((p :: outs).foldl State.failPrecinct s).postEvent p 15 4 0x7F 0 0 0
    else
      let s1 := outs.foldl State.goOut s
      (if comes then s1.comeIn p else s1).postEvent p 14 0 0x7F 0 0 0)

/-! Abort (R376). -/

namespace State

/-- The gangs of the grids of a launch tag in a precinct. -/
def gangsOfTag (s : State) (p : Nat) (tag : W32) : List (Nat × Gang) :=
  s.exe.gangs.filter fun g => g.2.used && s.holdsCore p (g.1 / 16) && (s.task g.2.task).any fun t => t.tag = tag && t.precinct = p

/-- A grid of a tag stops: nothing more of it is placed, its gangs are to leave, their windows are discarded. -/
def beginAbort (s : State) (p : Nat) (tag : W32) : State :=
  let gs := s.gangsOfTag p tag
  let s1 := { s with exe.gangs := gs.foldl (fun (t : Tbl Gang) (g : Nat × Gang) => t.put g.1 { g.2 with aborted := true }) s.exe.gangs }
  let s2 := s1.discardWindows fun k => gs.any fun g => g.1 = k / 320 * 16 + (s.crewAt (k / 320 * 64 + (s.fragAt k).crew)).gang
  let s3 := s2.setPrecinct p { s2.precinct p with aborts := (s2.precinct p).aborts ++ [tag] }
  (s3.mgt.tasks.filter fun t => t.2.precinct = p && t.2.tag = tag).foldl (fun (s : State) (t : Nat × Task) =>
    let s1 := s.putTask t.1 { t.2 with stopped := true }
    if t.2.freed = t.2.next then s1.endTask t.1 else s1.freeGroups t.1) s3

/-- A fragment that leaves waits at a barrier no more (R205). -/
def leaveBarrier (s : State) (k : Nat) : State :=
  match (s.fragAt k).waitFor with
  | .barrier b ph =>
    let x := s.barAt b
    let x1 := { x with waiters := x.waiters.filter (· ≠ k) }
    s.setBar b (if x.ph ≠ ph then Barrier.payExits { x1 with obs := x.obs - 1 } else x1)
  | _ => s

/-- Every lane of a stopped gang leaves with status 0xFFFF (R376). -/
def abortGang (s : State) (gk : Nat) : State :=
  let g := s.gangAt gk
  let core := gk / 16
  let s1 := g.crews.foldl (fun s slot => (s.fragsOfCrew core slot).foldl (fun (s : State) (f : Nat × Frag) => s.leaveBarrier f.1) s) s
  let s2 := g.crews.foldl (fun s slot =>
    let ck := core * 64 + slot
    let c := s.crewAt ck
    let ord := lanesOf (c.live &&& ~~~c.helpers)
    let g0 := ord.foldl (fun g L => noteExit g (c.idx * 32 + L) 0xFFFF) (s.gangAt gk)
    let g1 := { g0 with leftAt := s.clock, leftIds := s.exe.ids }
    let s1 := { s.putCrew ck { c with live := 0 } with exe.gangs := s.exe.gangs.put gk g1 }
    s1.exitBarriers ck c.live) s1
  s2.gangLeaves gk

/-- Fragments of a gang. -/
def fragsOfGang (s : State) (gk : Nat) : List (Nat × Frag) :=
  (s.gangAt gk).crews.flatMap fun slot => s.fragsOfCrew (gk / 16) slot

/-- The gangs of a tag that have stopped leave, and its Pilot threads halt as by HALT. -/
def abortStopped (s : State) (p : Nat) (tag : W32) : State :=
  let s1 := (s.gangsOfTag p tag).foldl (fun (s : State) (g : Nat × Gang) =>
    if g.2.aborted && g.2.left ≠ g.2.lanes && (s.fragsOfGang g.1).all fun f => fragStopped f.2 then s.abortGang g.1 else s) s
  s1.exe.threads.foldl (fun (s : State) (t : Nat × PThread) =>
    let live : Bool := t.2.state ≠ .unstarted && t.2.state ≠ .halted
    if s.holdsCluster p (t.1 / 4) && t.2.launchtag = tag && live && threadStopped t.2 then
      { s with exe.threads := s.exe.threads.put t.1 { t.2 with state := .halted } }.postEvent p 11 0 0x7F (t.1 % 4) t.2.ctl.pc.toNat 0
    else s) s1

/-- Nothing of a tag is left in a precinct. -/
def abortDone (s : State) (p : Nat) (tag : W32) : Bool :=
  (s.gangsOfTag p tag).isEmpty && !(s.mgt.tasks.any fun t => t.2.precinct = p && t.2.tag = tag)
    && s.exe.threads.all fun t => !(s.holdsCluster p (t.1 / 4) && t.2.launchtag = tag && t.2.state ≠ .unstarted && t.2.state ≠ .halted)

end State

/-- ABORT (R376, R391). -/
def execAbort (p : Nat) (tag : W32) (s : State) : Out :=
  .next (
    let x := s.precinct p
    if !s.booted then s
    else if x.valid && (s.debugging p || x.state = .halting) then s.later (.abort p tag)
    else if x.valid && (x.state = .running || x.state = .halted) then s.beginAbort p tag
    else s.refuse p)

/-- ABORT_COMPLETE (R376): what has stopped leaves; when nothing of the tag is left, event 17 follows. -/
def execAbortComplete (p : Nat) (tag : W32) (s : State) : Out :=
  .next (
    let x := s.precinct p
    if !(x.valid && x.aborts.contains tag && (x.state = .running || x.state = .halting || x.state = .halted)) || s.debugging p then s
    else
      let s1 := s.abortStopped p tag
      if s1.abortDone p tag then
        (s1.setPrecinct p { s1.precinct p with aborts := (s1.precinct p).aborts.filter (· ≠ tag) }).postEvent p 17 0 0x7F 0 0 (tag.setWidth 64)
      else s1)

/-! Breakpoints, wakes, debug halts, the pool doorbell (R82, R83, R389-R391). -/

namespace State

/-- Agents that wait at a BKPT and that a test names go on behind it (R390). -/
def releaseFrags (s : State) (p : Nat → Frag → Bool) : State :=
  (s.exe.frags.filter fun f => f.2.mask ≠ 0 && f.2.state = .waiting && f.2.waitFor = .breakpoint && p f.1 f.2).foldl (fun (s : State) (f : Nat × Frag) =>
    let s1 := { s with cur := .frag (f.1 / 320) (f.1 % 320) }
    { s1.makeReady.advance 1 with cur := s.cur }) s

def releaseThreads (s : State) (p : Nat) : State :=
  (s.exe.threads.filter fun t => s.holdsCluster p (t.1 / 4) && t.2.state = .wait && t.2.waitFor = .breakpoint).foldl (fun (s : State) (t : Nat × PThread) =>
    let s1 := { s with cur := .pilot (t.1 / 4) (t.1 % 4) }
    { (s1.setThread { t.2 with state := .running, waitFor := .none, stop := !s.mayGo p true }).advance 1 with cur := s.cur }) s

/-- Every agent of an island has stopped, its Tenders with no granule under way (R379, R391: IDBG.HALTED). -/
def debugHalted (s : State) (isl : Nat) : Bool :=
  s.mgt.dhalt.get false isl && s.exe.frags.all (fun f => f.1 / 320 / 128 ≠ isl || fragStopped f.2)
    && s.exe.threads.all (fun t => t.1 / 4 / 16 ≠ isl || threadStopped t.2)
    && s.eng.tenders.all fun t => t.1 / 128 ≠ isl || t.2.all fun r => r.flight.isEmpty

end State

/-- RELEASE (R390, R391): it acts when the precinct runs. -/
def execRelease (p core slot : Nat) (s : State) : Out :=
  .next (
    let x := s.precinct p
    let c := p / 16 * 128 + core
    if !s.booted then s
    else if !x.valid || x.state = .failed then s.refuse p
    else if x.state ≠ .running then s.later (.release p core slot)
    else s.releaseFrags fun k f => k / 320 = c && s.holdsCore p c && f.crew = slot)

/-- WAKE (R346, R391): threads at IDLE go on. -/
def execWake (p cl : Nat) (threads : BitVec 4) (s : State) : Out :=
  .next (
    let x := s.precinct p
    let k := p / 16 * 16 + cl
    if !s.booted then s
    else if !x.valid || x.state ≠ .running || !s.holdsCluster p k then s.refuse p
    else
      let stop := !s.mayGo p true
      { s with exe.threads := s.exe.threads.map fun t =>
        if t.1 / 4 = k && threads.getLsbD (t.1 % 4) && t.2.state = .idle then (t.1, { t.2 with state := .running, idleDone := true, stop := stop }) else t })

/-- ARMBP_CLEAR (R390). -/
def execArmbpClear (p : Nat) (s : State) : Out :=
  .next (
    let x := s.precinct p
    if !s.booted then s
    else
      let s1 := s.setPrecinct p { x with armbp := false }
      if x.valid && x.state ≠ .swapped then (s1.releaseFrags fun k _ => s.holdsCore p (k / 320)).releaseThreads p else s1)

/-- DEBUG_HALT (R389): windows of the island are discarded. -/
def execDebugHalt (isl : Nat) (s : State) : Out :=
  .next (
    if !s.booted || !s.populated isl then s
    else { s with mgt.dhalt := s.mgt.dhalt.put isl true }.discardWindows fun k => k / 320 / 128 = isl)

/-- DEBUG_HALT_CLEAR (R389): the held arrivals are placed in their order. -/
def execDebugHaltClear (isl : Nat) (s : State) : Out :=
  .next (
    if !s.booted || !(s.mgt.dhalt.get false isl) then s
    else
      let s1 := { s with mgt.dhalt := s.mgt.dhalt.del isl }.unstop
      (s1.eng.arrivals.filter fun a => a.2.isl = isl && a.2.held).foldl (fun (s : State) (a : Nat × Arr) =>
        if s.arrHeld a.2 then s
        else { s with eng.arrivals := s.eng.arrivals.put a.1 { a.2 with held := false } }.performArr a.1 { a.2 with held := false }) s1)

/-- POOL_DOORBELL (R83, R382): it acts when the precinct runs. -/
def execPoolDoorbell (p : Nat) (s : State) : Out :=
  .next (
    let x := s.precinct p
    if !s.booted || !x.valid then s
    else if x.state = .running then s.ringDoor p
    else s.setPrecinct p { x with door := true })

/-- PFPOOL_WRITE (R84, R423). -/
def execPfpoolWrite (p : Nat) (v : W64) (s : State) : Out :=
  .next (if s.booted then s.setPrecinct p { s.precinct p with fpool := v &&& 0xFFFFFFFFFF81 } else s)

end Sys2Proof.Machine
end

