-- ==== Sys2Proof/Machine/Queue.lean ====
section
/-! DEFINITION. Command queues and the commands of the Harbourmaster (R348-R353, R357, R358). -/

namespace Sys2Proof.Machine

open Sys2Proof

namespace State

def queue (s : State) (q : Nat) : Queue := s.mgt.queues.get {} q
def setQueue (s : State) (q : Nat) (x : Queue) : State := { s with mgt.queues := s.mgt.queues.put q x }

/-! Accesses of the island agent for commands (R351). -/

inductive QRead
  | ok (bs : List Byte)
  | fault (c : Byte)
  | wait
  deriving DecidableEq, Repr

/-- The island agent has a permit of every line's slice free (R101). -/
def agentPermits (s : State) (lks : List Nat) : Bool :=
  lks.all fun lk => s.coh.permits.get 0 (permitKey (lineIsl lk) (sliceOf (lineNo lk)) 16) < 4

/-- An access of the island agent to lines that are not ready waits in the queues of those that are blocked, with a permit (R94, R101). -/
def agentWaits (s : State) (lks : List Nat) : State :=
  lks.foldl (fun s lk => if unblocked (s.line lk) then s else s.queueAt lk 16 .agent) s

/-- Bytes read in the queue's context on an island. -/
def agentRead (s : State) (isl spn a n : Nat) : State × QRead :=
  match s.resolveRange (agentWho isl spn) .agentRead 0 (BitVec.ofNat 64 a) n with
  | (s1, .ok ls ca) =>
    let lks := linesOfPieces isl ca ls
    if s1.badPieces ls then (s1, .fault 4)
    else if !s1.agentPermits lks then (s1, .wait)
    else match s1.gatherPieces isl ca false ls with
      | (s2, true) => (s2, .ok (s2.readPieces ls))
      | (s2, false) => (s2.agentWaits lks, .wait)
  | (s1, .fault c _ _) => (s1, .fault c)
  | (s1, _) => (s1, .wait)

/-- The tag of a command's writes that the host is to complete (R351). -/
def ownCmd (q : Nat) (idx : W32) : Nat := 4 * (q * 2 ^ 32 + idx.toNat) + 3

/-- Bytes stored in the queue's context on an island for a command; the fault is `some`, and `none` says that the store has to wait. -/
def agentWrite (s : State) (isl spn own a : Nat) (bs : List Byte) : State × Option (Option Byte) :=
  let w := agentWho isl spn
  match s.resolveRange w .agentWrite 0 (BitVec.ofNat 64 a) bs.length with
  | (s1, .ok ls ca) =>
    let lks := linesOfPieces isl ca ls
    if ls.any fun p => s1.badWrite (wholeLines ls) p.1 p.2 then (s1, some (some 4))
    else if !s1.agentPermits lks then (s1, none)
    else match s1.readyToWrite isl ca (effHint ca 0) 0xFFFF ls with
      | (s2, true) => (s2.writeAt w ca own ls bs, some none)
      | (s2, false) => (s2.agentWaits lks, none)
  | (s1, .fault c _ _) => (s1, some (some c))
  | (s1, _) => (s1, none)

/-! Commands at the head of a queue (R349, R352, R382, R389). -/

/-- The queue may start a command: it is served, has one, and its precinct runs. -/
def queueLive (s : State) (q : Nat) : Bool :=
  let x := s.queue q
  x.en && !x.err && x.head ≠ x.tail && (s.precinct (q / 64)).valid && (s.precinct (q / 64)).state = .running

/-- The queue's next command, read in its ring. -/
def nextCommand (s : State) (q : Nat) : State × QRead :=
  let x := s.queue q
  s.agentRead x.home x.spn (x.base.toNat + 64 * (x.head.toNat % 2 ^ x.log)) 64

/-- The command may start beside those started and not completed (R352). -/
def inOrder (x : Queue) (c : List Byte) : Bool :=
  let op := recF c 0 1
  x.started.isEmpty || (op ≠ 2 && op ≠ 5 && recF c 1 1 % 2 = 1 && x.started.all fun d => d.op ≠ 2)

/-- The islands that a LAUNCH names. -/
def launchIslands (c : List Byte) : List Nat := (List.range 20).filter fun i => recF c 16 4 / 2 ^ i % 2 = 1

/-- The islands that a command acts on: those that it names, or HOME where it names none (R353). -/
def actsOn (x : Queue) (c : List Byte) : List Nat :=
  match recF c 0 1 with
  | 1 => launchIslands c
  | 2 => (waitsOf ((c.drop 8).take 32)).map (·.2.1)
  | 3 => [recF c 8 4]
  | 4 => [recF c 32 1, recF c 33 1]
  | _ => [x.home]

/-- A LAUNCH of a queue waits for a full window, and holds its place in the queue (R358). -/
def enteringOf (s : State) (q : Nat) : Bool := s.mgt.tasks.any fun t => t.2.state = .entering && t.2.origin.any (·.1 = q)

/-- A command may start: it is in order, no LAUNCH before it still waits to enter a window, and no island that it acts on stands in a debug halt
(R352, R358, R389; DEDUCED, unsafe: log 128). -/
def mayStart (s : State) (q : Nat) (c : List Byte) : Bool :=
  inOrder (s.queue q) c && !s.enteringOf q && (actsOn (s.queue q) c).all fun i => !s.mgt.dhalt.get false i

/-- A command that is malformed or fails stops its queue (R350). -/
def queueError (s : State) (q : Nat) (c : Byte) : State :=
  (s.setQueue q { s.queue q with err := true, cause := c }).postEvent (q / 64) 10 0 0x7F 0 0 0

/-- HEAD passes commands that have started. -/
def passAhead : Nat → Queue → Queue
  | 0, x => x
  | n + 1, x => if x.ahead.contains x.head then passAhead n { x with head := x.head + 1, ahead := x.ahead.filter (· ≠ x.head) } else x

/-- The command at HEAD has started: HEAD passes it; one that is not over yet is kept. -/
def begun (s : State) (q : Nat) (c : Option Cmd) : State :=
  let x := s.queue q
  (s.setQueue q (passAhead x.ahead.length { x with head := x.head + 1, started := x.started ++ c.toList })).setPrecinct (q / 64)
    { s.precinct (q / 64) with served := q % 64 }

/-! Malformed commands (R350, R351, R353). -/

/-- Header and unused bytes: `used` is the length of the body's used part with the header. -/
def headBad (c : List Byte) (used : Nat) : Bool := 2 ≤ recF c 1 1 || recF c 2 6 ≠ 0 || (c.drop used).any (· ≠ 0)

/-- An island that is populated and where a precinct holds the queue's SPN. -/
def islandOk (s : State) (isl spn : Nat) : Bool := s.populated isl && (s.ctx isl spn).live

/-- A counter of an island by the index relative to the notify range of the precinct that holds the SPN. -/
def counterOk (s : State) (isl spn n : Nat) : Bool := s.islandOk isl spn && n < (s.precinct (s.ctx isl spn).precinct).ncount
def counterOf (s : State) (isl spn n : Nat) : Nat := s.counterKey (s.ctx isl spn).precinct n

/-! LAUNCH (R351, R353, R357, R358). -/

/-- A block that a record names, where it names one: the bytes, a fault, or not yet. -/
def agentBlock (s : State) (isl spn a n : Nat) : State × QRead := if a = 0 then (s, .ok []) else s.agentRead isl spn a n

/-- The circuit list: its count, then its entries. -/
def agentCirc (s : State) (isl spn a : Nat) : State × QRead :=
  match s.agentBlock isl spn a 8 with
  | (s1, .ok h) => if h.isEmpty then (s1, .ok []) else s1.agentRead isl spn a (8 + 8 * min 16 (recF h 0 8))
  | r => r

/-- The task that a LAUNCH makes on one island: record, descriptor and blocks read there. -/
inductive TaskRes
  | ok (t : Task)
  | bad (c : Byte)
  | wait
  deriving DecidableEq, Repr

def taskOn (s : State) (q : Nat) (c : List Byte) (isl : Nat) : State × TaskRes :=
  let x := s.queue q
  let rd (r : State × QRead) (k : State → List Byte → State × TaskRes) : State × TaskRes :=
    match r with
    | (s1, .ok bs) => k s1 bs
    | (s1, .fault c) => (s1, .bad c)
    | (s1, .wait) => (s1, .wait)
  if !s.islandOk isl x.spn then (s, .bad 2)
  else
    rd (s.agentRead isl x.spn (recF c 8 8) 128) fun s1 rec =>
      match recordBad rec with
      | some e => (s1, .bad e)
      | none =>
      let k := recF rec 0 8 % 2 ^ 52
      rd (if recFlag rec 6 && k = 0 then (s1, .ok []) else s1.agentRead isl x.spn k 64) fun s2 kd =>
        rd (s2.agentBlock isl x.spn (recF rec 88 8 % 2 ^ 52) 128) fun s3 deps =>
          rd (s3.agentCirc isl x.spn (recF rec 96 8 % 2 ^ 52)) fun s4 circ =>
            let t : Task := { isl := isl, id := 0, tag := 0, spn := x.spn, precinct := (s4.ctx isl x.spn).precinct, sup := true,
                              prio := x.prio, origin := some (q, x.head), pilot := none, record := rec, kdesc := kd, deps := deps,
                              circ := circ, order := 0, state := .entering }
            match s4.taskBad s4.taskKey t with
            | some e => (s4, .bad e)
            | none => (s4, .ok t)

/-- The tasks of a LAUNCH on its islands in turn. -/
def tasksOn (q : Nat) (c : List Byte) : List Nat → State → State × Except (Option Byte) (List Task)
  | [], s => (s, .ok [])
  | i :: is, s =>
    match s.taskOn q c i with
    | (s1, .bad e) => (s1, .error (some e))
    | (s1, .wait) => (s1, .error none)
    | (s1, .ok t) =>
      match tasksOn q c is s1 with
      | (s2, .ok ts) => (s2, .ok (t :: ts))
      | r => r

def launchBad (s : State) (c : List Byte) : Option Byte :=
  let m := recF c 16 4
  if recF c 8 8 % 128 ≠ 0 then some 3
  else if headBad c 20 || m = 0 || 2 ^ 20 ≤ m || (List.range 20).any fun i => m / 2 ^ i % 2 = 1 && !s.populated i then some 2
  else none

/-- The tasks take one tag and stand to enter their windows. -/
def launchGo (s : State) (q : Nat) (c : List Byte) : State :=
  match tasksOn q c (launchIslands c) s with
  | (s1, .error (some e)) => s1.queueError q e
  | (s1, .error none) => s1
  | (s1, .ok ts) =>
    let g := s1.takeTag
    let r := ts.foldl (fun (a : State × List Nat) t => (a.1.addTask { t with tag := g.2 }, a.2 ++ [a.1.taskKey])) (g.1, [])
    r.1.begun q (some { idx := (s.queue q).head, op := 1, body := c, tag := g.2, tasks := r.2 })

/-! WAIT (R351, R154). -/

def waitBad (s : State) (q : Nat) (c : List Byte) : Option Byte :=
  let b := (c.drop 8).take 32
  if headBad c 40 || (List.range 4).any (waitReserved b) || (waitsOf b).any fun w => !s.counterOk w.2.1 (s.queue q).spn w.1 then some 2
  else none

/-- Every entry of a WAIT has reached its threshold. -/
def waitDone (s : State) (q : Nat) (c : List Byte) : Bool :=
  (waitsOf ((c.drop 8).take 32)).all fun w => reached (s.counter (s.counterOf w.2.1 (s.queue q).spn w.1)) w.2.2

/-- A started command has completed. -/
def ended (s : State) (q : Nat) (d : Cmd) : State :=
  let x := s.queue q
  s.setQueue q { x with started := x.started.erase d }

/-- A started command fails: the queue stops at it. HEAD stands there again, and the commands behind it that have started run on and do not start again
(R350; DEDUCED, unsafe: log 133). -/
def failCmd (s : State) (q : Nat) (d : Cmd) (c : Byte) : State :=
  let x := s.queue q
  let back : Bool := (x.head - d.idx).toNat < 2 ^ 31
  let between := (List.range (x.head - d.idx).toNat).map fun i => d.idx + BitVec.ofNat 32 i
  let x1 := if back then { x with head := d.idx, ahead := (between ++ x.ahead).filter (· ≠ d.idx) } else { x with ahead := x.ahead.filter (· ≠ d.idx) }
  ((s.setQueue q x1).ended q d).queueError q c

/-! COPY (R351). -/

def copyBad (s : State) (q : Nat) (c : List Byte) : Option Byte :=
  let spn := (s.queue q).spn
  if headBad c 34 || 2 ^ 40 < recF c 24 8 || !s.islandOk (recF c 32 1) spn || !s.islandOk (recF c 33 1) spn then some 2 else none

/-- Both ranges of a COPY resolve, or the fault of the first that does not. -/
def copyRanges (s : State) (q : Nat) (c : List Byte) : State × LRes :=
  let spn := (s.queue q).spn
  let n := recF c 24 8
  match s.resolveRange (agentWho (recF c 32 1) spn) .agentRead 0 (BitVec.ofNat 64 (recF c 8 8)) n with
  | (s1, .ok _ _) => s1.resolveRange (agentWho (recF c 33 1) spn) .agentWrite 0 (BitVec.ofNat 64 (recF c 16 8)) n
  | r => r

def copyGo (s : State) (q : Nat) (c : List Byte) : State :=
  match s.copyRanges q c with
  | (s1, .ok _ _) => s1.begun q (some { idx := (s.queue q).head, op := 4, body := c })
  | (s1, .fault e _ _) => s1.queueError q e
  | (s1, _) => s1

/-- The next bytes of a started COPY, up to a line of its destination. It completes when every byte is performed at system scope: the host has
completed what was written of uncached host memory (R113, R351). -/
def copyStep (s : State) (q : Nat) (d : Cmd) : State :=
  let spn := (s.queue q).spn
  let len := recF d.body 24 8
  let dst := recF d.body 16 8 + d.copied
  let n := min (128 - dst % 128) (len - d.copied)
  if len ≤ d.copied then (if s.hostOwes (ownCmd q d.idx) then s else s.ended q d)
  else match s.agentRead (recF d.body 32 1) spn (recF d.body 8 8 + d.copied) n with
  | (s1, .wait) => s1
  | (s1, .fault e) => s1.failCmd q d e
  | (s1, .ok bs) =>
    match s1.agentWrite (recF d.body 33 1) spn (ownCmd q d.idx) dst bs with
    | (s2, none) => s2
    | (s2, some (some e)) => s2.failCmd q d e
    | (s2, some none) =>
      let x := s2.queue q
      let s3 := s2.setQueue q { x with started := x.started.map fun y => if y = d then { d with copied := d.copied + n } else y }
      if len ≤ d.copied + n && !s3.hostOwes (ownCmd q d.idx) then s3.ended q { d with copied := d.copied + n } else s3

/-- The first started command of an operation for which a test holds. -/
def startedOf (s : State) (q op : Nat) (p : Cmd → Bool) : Option Cmd := (s.queue q).started.find? fun d => d.op = op && p d

/-! MARK (R351). -/

def markBad (c : List Byte) : Option Byte :=
  if recF c 8 8 % 8 ≠ 0 then some 3
  else if headBad c 26 || recF c 24 2 / 2 ^ 11 % 2 ^ 4 ≠ 0 then some 2 else none

/-- The interrupt of a MARK is sent. -/
def markIrq (s : State) (c : List Byte) : State :=
  let v := recF c 24 2
  if v / 2 ^ 15 = 1 then { s with mgt.mod.irqs := s.mgt.mod.irqs ++ [BitVec.ofNat 11 v] } else s

/-- The value is stored. A MARK is over, and its interrupt is sent, when the value is performed at system scope (R113, R351). -/
def markGo (s : State) (q : Nat) (c : List Byte) : State :=
  let x := s.queue q
  match s.agentWrite x.home x.spn (ownCmd q x.head) (recF c 8 8) ((c.drop 16).take 8) with
  | (s1, none) => s1
  | (s1, some (some e)) => s1.queueError q e
  | (s1, some none) =>
    if s1.hostOwes (ownCmd q x.head) then s1.begun q (some { idx := x.head, op := 5, body := c }) else (s1.markIrq c).begun q none

/-! NOTIFY (R351, R152, R153). -/

def notifyBad (s : State) (q : Nat) (c : List Byte) : Option Byte :=
  if headBad c 20 || !s.counterOk (recF c 8 4) (s.queue q).spn (recF c 12 4) then some 2 else none

def notifyGo (s : State) (q : Nat) (c : List Byte) : State :=
  let k := s.counterOf (recF c 8 4) (s.queue q).spn (recF c 12 4)
  { s with eng.notify := s.eng.notify.upd 0 k (· + BitVec.ofNat 32 (recF c 16 4)) }.begun q none

/-! Order and choice of queues (R352). -/

/-- The command can act, or fail, now: what it has to read or store is at hand. -/
def actable (s : State) (q : Nat) (c : List Byte) : Bool :=
  match recF c 0 1 with
  | 1 => (s.launchBad c).isSome || (match (tasksOn q c (launchIslands c) s).2 with | .error none => false | _ => true)
  | 4 => (s.copyBad q c).isSome || (match (s.copyRanges q c).2 with | .ok _ _ => true | .fault _ _ _ => true | _ => false)
  | 5 => (markBad c).isSome
      || (s.agentWrite (s.queue q).home (s.queue q).spn 0 (recF c 8 8) ((c.drop 16).take 8)).2.isSome
  | _ => true

/-- The next command of a queue is ready to start, or to fail. -/
def queueReady (s : State) (q : Nat) : Bool :=
  s.queueLive q && (match (s.nextCommand q).2 with
    | .ok c => s.mayStart q c && s.actable q c
    | .fault _ => true
    | .wait => false)

/-- The queue of a precinct that starts next: highest PRIO, then the next after the one served last. -/
def nextQueue (s : State) (p : Nat) : Option Nat :=
  let last := (s.precinct p).served
  let qs := ((s.mgt.queues.filter fun q => q.1 / 64 = p).map (·.1)).filter s.queueReady
  let dist (q : Nat) : Nat := (q % 64 + 63 - last) % 64
  qs.foldl (fun (b : Option Nat) q => match b with
    | none => some q
    | some r => if (s.queue r).prio < (s.queue q).prio || ((s.queue r).prio = (s.queue q).prio && dist q < dist r) then some q else b) none

/-- The start of a command: nothing unless the queue's next command has the operation; one that cannot act yet asks for what it
waits for; at its queue's turn it is refused with a cause, or begins. -/
def startCommand (s : State) (q op : Nat) (bad : State → List Byte → Option Byte) (go : State → List Byte → State) : State :=
  if !s.queueLive q then s
  else match s.nextCommand q with
  | (s1, .wait) => s1
  | (s1, .fault c) => if s.nextQueue (q / 64) = some q then s1.queueError q c else s
  | (s1, .ok c) =>
    let here : Bool := recF c 0 1 = op || (op = 1 && (recF c 0 1 = 0 || 5 < recF c 0 1))
    if !here || !s.mayStart q c then s
    else if !s.actable q c then go s1 c
    else if s.nextQueue (q / 64) ≠ some q then s
    else if recF c 0 1 ≠ op then s1.queueError q 2
    else match bad s1 c with
    | some e => s1.queueError q e
    | none => go s1 c

end State

/-- LAUNCH: a queue's next command, when its turn has come, makes a grid on each island it names. -/
def execLaunch (q : Nat) (s : State) : Out := .next (s.startCommand q 1 State.launchBad fun s c => s.launchGo q c)

/-- WAIT: it starts, or completes when its counters have reached their thresholds. -/
def execWait (q : Nat) (s : State) : Out :=
  .next (
    match s.startedOf q 2 fun d => s.waitDone q d.body with
    | some d => s.ended q d
    | none => s.startCommand q 2 (fun s c => s.waitBad q c) fun s c => s.begun q (some { idx := (s.queue q).head, op := 2, body := c }))

/-- NOTIFY: the increment is applied. -/
def execNotifyCommand (q : Nat) (s : State) : Out := .next (s.startCommand q 3 (fun s c => s.notifyBad q c) fun s c => s.notifyGo q c)

/-- The queue's next command is a COPY whose turn has come. -/
def State.copyNext (s : State) (q : Nat) : Bool :=
  s.nextQueue (q / 64) = some q && (match (s.nextCommand q).2 with | .ok c => recF c 0 1 = 4 | _ => false)

/-- COPY: it starts, or a started one copies its next bytes; either comes first where a COPY may start beside others (R352). -/
def execCopy (q : Nat) (s : State) : Out :=
  .next (
    let ds := (s.queue q).started.filter (·.op = 4)
    let start (s : State) : State := s.startCommand q 4 (fun s c => s.copyBad q c) fun s c => s.copyGo q c
    match ds with
    | [] => start s
    | [d] => if s.copyNext q && Config.freeChoice s.choices % 2 = 1 then start { s with choices := s.choices + 1 } else s.copyStep q d
    | d :: _ =>
      let s1 := { s with choices := s.choices + 1 }
      if s.copyNext q && Config.freeChoice s.choices % 2 = 1 then start s1
      else s1.copyStep q (ds.getD (Config.freeChoice s.choices / 2 % ds.length) d))

/-- MARK: the value is stored, and the interrupt sent when it is performed. -/
def execMark (q : Nat) (s : State) : Out :=
  .next (
    match s.startedOf q 5 fun d => !s.hostOwes (State.ownCmd q d.idx) with
    | some d => (s.markIrq d.body).ended q d
    | none => s.startCommand q 5 (fun _ c => State.markBad c) fun s c => s.markGo q c)

/-- A write of QTAIL (R349). -/
def execQueueDoorbell (q : Nat) (v : W64) (s : State) : Out :=
  .next (
    let x := s.queue q
    let t : W32 := v.setWidth 32
    if !s.booted then s
    else if 2 ^ x.log < (t - x.head).toNat then s.setQueue q { x with err := true, cause := 2 }
    else s.setQueue q { x with tail := t })

/-- A write of QCTL (R348, R349). -/
def execQueueControlWrite (q : Nat) (v : W64) (s : State) : Out :=
  .next (
    let x := s.queue q
    let x1 := if v.getLsbD 25 then { x with err := false, cause := 0 } else x
    let x2 := { x1 with en := v.getLsbD 24 }
    if !s.booted then s
    else if x.en then s.setQueue q x2
    else s.setQueue q { x2 with log := max 4 (min 16 (fld v 0 5)), prio := fld v 5 2, home := fld v 7 5, spn := fld v 12 12 })

/-- A write of QBASE (R349). -/
def execQueueBaseWrite (q : Nat) (v : W64) (s : State) : Out :=
  .next (
    let x := s.queue q
    if !s.booted || x.en then s
    else s.setQueue q { x with base := v.setWidth 52 &&& 0xFFFFFFFFFFFC0, head := 0, tail := 0, ahead := [] })

end Sys2Proof.Machine
end

