-- ==== Sys2Proof/Machine/Host.lean ====
section
/-! DEFINITION. Precincts and contexts as the host creates and removes them, owners of host pages, counters (R59, R61, R415,
R422-R424). -/

namespace Sys2Proof.Machine

open Sys2Proof

/-! Precincts (R422). -/

namespace State

/-- The fields of PDESC: SIZE, TAG, NBASE, NCOUNT. -/
def withPdesc (x : Precinct) (v : W64) : Precinct :=
  { x with size := fld v 0 3, tag := fld v 4 4, nbase := fld v 8 14, ncount := fld v 22 15 }

/-- The reasons to refuse a precinct (R417, R421, R422). -/
def createBad (s : State) (p : Nat) (x : Precinct) : Bool :=
  let isl := p / 16
  let on := s.mgt.precincts.filter fun q => q.2.valid && q.1 / 16 = isl
  4 < x.size || p % 16 % 2 ^ x.size ≠ 0 || 2 ^ 14 < x.nbase + x.ncount || !s.populated isl || s.mgt.stoppedIsl.contains isl
    || (s.mgt.mod.mode = 2 && (x.size ≠ 0 || p % 16 ≠ 0))
    || on.any fun q => q.2.tag = x.tag || (q.2.nbase < x.nbase + x.ncount && x.nbase < q.2.nbase + q.2.ncount)
        || (q.2.state ≠ .swapped && p < q.1 + 2 ^ q.2.size && q.1 < p + 2 ^ x.size)

end State

/-- PRECINCT_CREATE: a write of PDESC with VALID = 1. -/
def execPrecinctCreate (p : Nat) (v : W64) (s : State) : Out :=
  .next (
    let x := s.precinct p
    let y := State.withPdesc x v
    if !s.booted || 320 ≤ p || x.valid || !v.getLsbD 63 then s
    else if s.createBad p y then s.refuse p
    else
      let s1 := s.setPrecinct p { y with valid := true, state := .running, image := 0, badImage := false, door := false, aborts := [],
                                         ctxbusy := false, served := 63 }
      let s2 := s1.clearClusters p
      let n := p / 16 * 16384 + y.nbase
      { s2 with eng.notify := s2.eng.notify.filter fun c => !(n ≤ c.1 && c.1 < n + y.ncount), mgt.images := s2.mgt.images.del p })

/-- PRECINCT_FREE: a write of PDESC with VALID = 0. -/
def execPrecinctFree (p : Nat) (s : State) : Out :=
  .next (
    let x := s.precinct p
    let used := s.trn.ctxs.any fun c => c.2.live && c.2.precinct = p && c.1 / 4096 = p / 16
    if !s.booted || !x.valid then s
    else if used || !(x.state = .halted || x.state = .swapped || x.state = .failed) then s.refuse p
    else
      let s1 := if x.state = .swapped then s else s.clearClusters p
      { s1.setPrecinct p { s1.precinct p with valid := false, state := .running, image := 0, badImage := false, door := false, aborts := [] } with
        mgt.images := s1.mgt.images.del p })

/-! Contexts (R423). -/

namespace State

/-- The bits that each register of a context descriptor defines: PTROOT, PTARENA, PTVIEW, TVEC, six apertures, BSNWIN. -/
def ctxMask : Nat → W64
  | 0 => 0xFFFFFFFFC000 | 1 => 0xFFF0FFFFFF800000 | 2 => 0xFFFFFFF800000 | 3 => 0xFFFFFFFFFF801 | 10 => 0x7FF03FF | _ => 0xFFFFFFF800003

/-- Register `k` of a descriptor. -/
def ctxReg (d : List Byte) (k : Nat) : W64 := BitVec.ofNat 64 (recF d (8 + 8 * k) 8)

def ctxBad (d : List Byte) : Bool :=
  recF d 0 2 / 2 ^ 12 ≠ 0 || recF d 2 6 ≠ 0 || recF d 96 32 ≠ 0 || (List.range 11).any fun k => ctxReg d k &&& ~~~(ctxMask k) ≠ 0

/-- A Basin window as it is stored (R34). -/
def bsnwinOf (v : W64) : W64 := BitVec.ofNat 64 (fld v 0 10 + min (fld v 16 11) 1024 * 2 ^ 16)

/-- The context that a descriptor gives. -/
def ctxOf (p : Nat) (d : List Byte) : Ctx :=
  { live := true, precinct := p, ptroot := ctxReg d 0, ptarena := ctxReg d 1, ptview := ctxReg d 2, tvec := ctxReg d 3
    aps := (List.range 6).foldl (fun (t : Tbl W64) k => t.put k (ctxReg d (4 + k) &&& apMask k)) []
    bsnwin := bsnwinOf (ctxReg d 10) }

/-- The descriptor at CTXADDR, or the RESULT of a command that cannot use it. -/
def ctxDescr (s : State) (p : Nat) : Except Byte (List Byte) :=
  let a := (s.precinct p).ctxaddr.toNat
  if a % 128 ≠ 0 then .error 3
  else if 2 ^ 47 ≤ a || s.badLine (locHost a) then .error 4
  else
    let d := Memory.readBytes s.mem (locHost a) 128
    if ctxBad d then .error 5 else .ok d

/-- A context command of a precinct: it sets BUSY, and then acts, once, with a RESULT. -/
def ctxCommand (s : State) (p cmd spn : Nat) (act : State → State × Byte) : State :=
  let x := s.precinct p
  if !s.booted then s
  else if !x.ctxbusy then s.setPrecinct p { x with ctxbusy := true, ctxcmd := cmd, ctxspn := spn }
  else if x.ctxcmd ≠ cmd then s
  else
    let r := act s
    r.1.setPrecinct p { r.1.precinct p with ctxbusy := false, ctxresult := r.2 }

/-- Requests and operations of a context that are outstanding on an island. -/
def engineBusy (s : State) (isl spn : Nat) : Bool :=
  (s.eng.tenders.any fun t => t.1 / 128 = isl && t.2.any (·.spn = spn)) || s.eng.ops.any fun o => o.2.isl = isl && o.2.spn = spn

/-- Saved state of a context's threads and requests. -/
def savedBusy (s : State) (isl spn : Nat) : Bool :=
  s.mgt.images.any fun i => i.1 / 16 = isl && ((i.2.exec.threads.any fun t => t.2.spn = spn && t.2.state ≠ .unstarted && t.2.state ≠ .halted)
    || i.2.tenders.any fun t => t.2.any (·.spn = spn))

/-- A crew, Tender request or island operation of the context is active on the island (R61). -/
def ctxActive (s : State) (isl spn : Nat) : Bool :=
  s.engineBusy isl spn || s.exe.gangs.any fun g => g.2.used && g.1 / 16 / 128 = isl && s.spnOfGang g.2 = spn

/-- Nothing of the context is left that would keep it from being destroyed (R423). -/
def ctxIdle (s : State) (isl spn : Nat) : Bool :=
  !s.engineBusy isl spn && !s.savedBusy isl spn
    && !((s.windowOf isl).any fun t => t.2.spn = spn)
    && !(s.exe.threads.any fun t => t.1 / 4 / 16 = isl && t.2.spn = spn && t.2.state ≠ .unstarted && t.2.state ≠ .halted)

/-- Cached translations and lines of a context leave the island (R68, R69). -/
def flushSpn (s : State) (isl spn : Nat) : State :=
  let ks := ((s.coh.l1.filter fun e => e.1 / 2 ^ 41 / 144 = isl && e.2.spn = spn).map (·.1))
    ++ ((s.coh.partials.filter fun e => e.1 / 2 ^ 41 / 144 = isl && e.2.spn = spn).map (·.1))
  let s1 := ks.foldl (fun s k => s.evictL1 isl (k / 2 ^ 41 % 144) (k % 2 ^ 41)) s
  { s1 with
    coh.icache := s1.coh.icache.filter fun e => !(e.1 / 2 ^ 45 / 4096 / 144 = isl && e.1 / 2 ^ 45 % 4096 = spn)
    trn.tlb := s1.trn.tlb.filter fun e => !(e.isl = isl && e.spn = spn)
    trn.wcache := s1.trn.wcache.filter fun e => !(e.isl = isl && e.spn = spn) }

/-- UPDATE's values. Accesses resolved while the command was BUSY used the old ones, as R35 allows; its end plays the part of the
writer's FENCE.T, which the island agent does not execute (DESIGN CHOICE, unsafe: log 22). Translations cached from an earlier table root or
arena stay cached (DESIGN CHOICE, unsafe: log 22). -/
def updateCtx (c n : Ctx) : Ctx :=
  { c with ptroot := n.ptroot, ptarena := n.ptarena, ptview := n.ptview, tvec := n.tvec, aps := n.aps, bsnwin := n.bsnwin }

end State

/-- CONTEXT_CREATE. -/
def execContextCreate (p : Nat) (s : State) : Out :=
  .next (s.ctxCommand p 1 0 fun s =>
    match s.ctxDescr p with
    | .error e => (s, e)
    | .ok d =>
      let spn := recF d 0 2
      if !(s.precinct p).valid || spn = 0 || (s.ctx (p / 16) spn).live then (s, 2)
      else (s.setCtx (p / 16) spn (State.ctxOf p d), 0))

/-- CONTEXT_UPDATE. -/
def execContextUpdate (p : Nat) (s : State) : Out :=
  .next (s.ctxCommand p 2 0 fun s =>
    match s.ctxDescr p with
    | .error e => (s, e)
    | .ok d =>
      let spn := recF d 0 2
      let c := s.ctx (p / 16) spn
      let n := State.ctxOf p d
      let moves : Bool := c.ptroot ≠ n.ptroot || c.ptarena ≠ n.ptarena || c.ptview ≠ n.ptview
      if !(s.precinct p).valid || !c.live || c.precinct ≠ p || (moves && s.ctxActive (p / 16) spn) then (s, 2)
      else (s.setCtx (p / 16) spn (State.updateCtx c n), 0))

/-- CONTEXT_DESTROY. -/
def execContextDestroy (p : Nat) (spn : BitVec 12) (s : State) : Out :=
  .next (s.ctxCommand p 3 spn.toNat fun s =>
    let n := (s.precinct p).ctxspn
    let isl := p / 16
    let c := s.ctx isl n
    let failed : Bool := (s.precinct p).state = .failed
    if !c.live || c.precinct ≠ p || (!failed && !s.ctxIdle isl n) then (s, 2)
    else
      let s1 := s.flushSpn isl n
      let s2 := (s1.mgt.tasks.filter fun t => failed && t.2.isl = isl && t.2.spn = n).foldl (fun (s : State) (t : Nat × Task) => s.endTask t.1) s1
      ({ s2 with trn.ctxs := s2.trn.ctxs.del (isl * 4096 + n)
                 exe.threads := s2.exe.threads.map fun t =>
                   if t.1 / 4 / 16 = isl && t.2.spn = n && t.2.state = .halted then (t.1, {}) else t }, 0))

/-! Owners of host pages (R415). -/

namespace State

/-- The directory keys of the lines of a host page at an island. -/
def hostLines (s : State) (isl page : Nat) : List Nat :=
  (s.coh.lines.filter fun e => lineIsl e.1 = isl && lineNo e.1 / 512 = 2 ^ 31 + page).map (·.1)

/-- Arrivals and landings of an island that are still to be performed in some lines are translated again; a Tender's granule ends there with the
refusal's cause (R106). -/
def refuseEngines (s : State) (isl : Nat) (line : Nat → Bool) : State :=
  let hit (ls : List (Nat × Nat)) : Bool := ls.any fun p => isGlobal p.1 && line (lineKey isl p.1)
  { s with
    eng.arrivals := s.eng.arrivals.map fun (a : Nat × Arr) =>
      if a.2.isl = isl && (match a.2.res with | some r => hit r.1 | none => false) then (a.1, { a.2 with res := none }) else a
    eng.ops := s.eng.ops.map fun (o : Nat × IslOp) =>
      if o.2.isl = isl && (match o.2.res with | some r => hit r.2.1 | none => false) then (o.1, { o.2 with res := none }) else o
    eng.tenders := s.eng.tenders.map fun (t : Nat × List TReq) =>
      if t.1 / 128 = isl then (t.1, t.2.map fun r => { r with granules := r.granules.map fun g =>
        if (g.todo.any fun q => hit (q.src ++ q.dst)) then { g with todo := [], out := [], fault := some 2 } else g }) else t }

/-- Stores of a line that stand in write buffers are performed at its home. -/
def flushEntries (s : State) (lk : Nat) : State :=
  let s1 := (s.coh.wbuf.filter fun e => e.line = lk).foldl applyEntry s
  { s1 with coh.wbuf := s1.coh.wbuf.filter fun e => e.line ≠ lk }

/-- The old owner gives up every line of the page, stores on their way to it performed; true when it has. -/
def giveUpPage (s : State) (isl page : Nat) : State × Bool :=
  let of (lk : Nat) : Bool := lineIsl lk = isl && lineNo lk / 512 = 2 ^ 31 + page
  let lks := (s.hostLines isl page ++ (s.coh.wbuf.filter fun e => of e.line && !e.unc).map (·.line)).eraseDups
  lks.foldl (fun (r : State × Bool) lk =>
    if !(r.1.line lk).hostOwn.isEmpty then (r.1, false)
    else match r.1.gatherEvict lk with
      | (s1, true) => ((s1.flushEntries lk).dropL2 lk, r.2)
      | (s1, false) => (s1, false)) (s, true)

end State

/-- HOST_PAGE_OWNER_CHANGE: a write of HPOREQ, which sets BUSY; then the old owner gives up the page and the new one is
recorded. -/
def execHostPageOwnerChange (v : W64) (s : State) : Out :=
  .next (
    let m := s.mgt.mod
    if m.mode = 3 then s
    else if !m.hpoBusy then { s with mgt.mod := { m with hpoPage := fld v 0 31, hpoIsl := fld v 32 5, hpoBusy := true } }
    else
      let old := s.coh.hostOwner.get 0 m.hpoPage
      let r := if old = 0 then (s, true) else s.giveUpPage (old - 1) m.hpoPage
      if r.2 then
        let of (lk : Nat) : Bool := lineIsl lk = old - 1 && lineNo lk / 512 = 2 ^ 31 + m.hpoPage
        let s1 := if old = 0 then r.1 else (r.1.repark (fun c => c / 128 = old - 1) of).refuseEngines (old - 1) of
        { s1 with mgt.mod := { s1.mgt.mod with hpoBusy := false }
                  coh.hostOwner := if m.hpoIsl < 20 then s1.coh.hostOwner.put m.hpoPage (m.hpoIsl + 1) else s1.coh.hostOwner.del m.hpoPage }
      else r.1)

/-- COUNTER_CLEAR (R424): `core` counts over the module. -/
def execCounterClear (core k : Nat) (s : State) : Out :=
  .next (if s.booted && k < 6 then { s with mgt.counters := s.mgt.counters.del (core * 8 + k) } else s)

end Sys2Proof.Machine
end

