-- ==== Sys2Proof/Machine/Boot.lean ====
section
/-! DEFINITION. Start-up, attestation, power and cooling (R415-R421). -/

namespace Sys2Proof.Machine

open Sys2Proof

namespace State

/-! Start-up (R416-R419). -/

/-- Memory that outlives a module reset: HBM and host memory; Basins are zero after it (R38), on-chip storage is written zero at
placement. -/
def keptMemory (m : List Host.Cell) : List Host.Cell := m.filter fun c => c.1 < 2 ^ 50

/-- The machine after a reset of the module, before its first attempt: the boot log and the count of attempts are kept, and the reason of a
failed attempt over the reset that follows it (R417-R419). -/
def afterReset (s : State) : State :=
  { inbox := s.inbox, choices := s.choices, clock := s.clock, mem := keptMemory s.mem, coh := { bad := s.coh.bad.filter fun b => b.1 < 2 ^ 43 }
    mgt := { mod := { sites := s.mgt.mod.sites, attempts := s.mgt.mod.attempts, log := s.mgt.mod.log,
                      reason := s.mgt.mod.reason } } }

/-- A boot-log record; the oldest of 128 is overwritten (R419). -/
def bootRecord (s : State) (reason : Nat) : State :=
  let m := s.mgt.mod
  let r : BootRec := { attempt := m.attempts, stage := m.stage, reason := reason, island := 0xFF,
                       detail := Config.bootDetail s.choices, time := s.clock }
  { s with choices := s.choices + 1, mgt.mod.log := (if m.log.length < 128 then m.log else m.log.drop 1) ++ [r] }

/-- The six measured digests, fixed when MODE is set (R420). -/
def measure (s : State) : State :=
  let m := s.mgt.mod
  let own := 5 + m.mode + 16 * m.pop.toNat + 2 ^ 24 * m.healthy.toNat
  { s with mgt.mod.digests := [0, 1, 2, 3, 4, own].map Config.measurement }

/-- Links of the islands in train (R396, R403). -/
def trainLinks (s : State) : State :=
  (List.range 20).foldl (fun s i => (List.range 4).foldl (fun s p =>
    match s.neighbour i p with | some _ => s.setPort i p { s.port i p with link := 1, progress := s.clock } | none => s) s) s

/-- The own entry of each island's Chart. -/
def ownCharts (s : State) : State := ((List.range 20).filter s.populated).foldl (fun s i => s.setChart i i 3) s

/-- Populated islands that a plan fails at stage 3. -/
def unhealthy (s : State) (plan : BootPlan) : Nat :=
  ((List.range 20).filter fun i => s.mgt.mod.sites.getLsbD i && !plan.healthy.getLsbD i).length

/-- BOOTSTAT once stage 3 has brought the populated islands up: POP, and those that passed (R416, R418). -/
def broughtUp (s : State) (plan : BootPlan) : State :=
  let m := s.mgt.mod
  { s with mgt.mod := { m with pop := m.sites, healthy := plan.healthy &&& m.sites } }

/-- One attempt of the boot ROM (R416): it reaches MODE 1, or stands at the stage that fails. -/
def attempt (s : State) (plan : BootPlan) : State :=
  match plan.fail with
  | some (stage, _) =>
    let s1 := if 3 < stage then s.broughtUp plan else s
    { s1 with mgt.mod.stage := stage }
  | none =>
    let s1 := s.broughtUp plan
    if 2 < s.unhealthy plan then { s1 with mgt.mod.stage := 3 }
    else
      let s2 := { s1 with mgt.mod := { s1.mgt.mod with stage := 5, mode := 1, attempts := 0 } }
      (s2.trainLinks.writeRoutes true).measure

/-- Minimal mode, or failure, after the last attempt (R417). -/
def bootMinimal (s : State) (plan : BootPlan) : State :=
  if plan.recoveryOk then
    let s1 := s.broughtUp plan
    ({ s1 with mgt.mod := { s1.mgt.mod with stage := 5, mode := 2, attempts := 3 } }.ownCharts).measure
  else { s with mgt.mod := { s.mgt.mod with mode := 3, attempts := 3 } }

end State

/-- MODULE_RESET (R416-R419). -/
def execModuleReset (plan : BootPlan) (s : State) : Out :=
  .next (
    let s1 := s.afterReset
    let m := { s1.mgt.mod with reason := 0 }
    { s1 with mgt.mod := if plan.powerOn then { m with attempts := 0, log := [] } else m }.attempt plan)

/-- BOOT_ATTEMPT_FAILED (R417-R419): the attempt is counted and logged; the next follows, or minimal mode. -/
def execBootAttemptFailed (reason : BitVec 8) (plan : BootPlan) (s : State) : Out :=
  .next (
    let m := s.mgt.mod
    if m.mode ≠ 0 then s
    else
      let s1 := { s with mgt.mod := { m with attempts := min 3 (m.attempts + 1), reason := reason } }.bootRecord reason.toNat
      if 3 ≤ s1.mgt.mod.attempts then s1.afterReset.bootMinimal plan else s1.afterReset.attempt plan)

/-! Power and cooling (R421). -/

namespace State

def clockOf (s : State) (isl : Nat) : Nat := s.mgt.mod.clocks.get 2000 isl

/-- An island's clock set; THERM reports it. -/
def setClock (s : State) (isl mhz : Nat) : State :=
  { s with mgt.mod := { s.mgt.mod with clocks := s.mgt.mod.clocks.put isl mhz, therm := mhz } }

def ratioOf (s : State) (isl : Nat) : Nat := s.mgt.mod.ratio.get 1 isl

/-- THROTTLE stands while some island issues in fewer than all of its clocks. -/
def setRatio (s : State) (isl n : Nat) : State :=
  let r := s.mgt.mod.ratio.put isl n
  { s with mgt.mod := { s.mgt.mod with ratio := r, throttle := r.any fun x => 1 < x.2 } }

/-- The watts of an island's share. -/
def shareOf (s : State) : Nat :=
  let n := ((List.range 20).filter s.populated).length
  if n = 0 then 0 else (s.mgt.mod.pwrcap - 60) / n

/-- An island is stopped: its precincts fail and its links are down. -/
def stopIsland (s : State) (isl : Nat) : State :=
  let ps := (s.mgt.precincts.filter fun p => p.2.valid && p.1 / 16 = isl).map (·.1)
  let s1 := ps.foldl State.failPrecinct { s with mgt.stoppedIsl := s.mgt.stoppedIsl ++ [isl] }
  ((List.range 4).foldl (fun s p => if (s.neighbour isl p).isSome then s.takeDown isl p else s) s1).postModule isl 2 isl 0

end State

/-- THERMAL_LIMIT (R421): the hottest die of an island, in °C. -/
def execThermalLimit (isl deg : Nat) (s : State) : Out :=
  .next (
    if !s.populated isl || s.mgt.stoppedIsl.contains isl then s
    else
      let s1 := { s with mgt.mod.temp := min deg 255 }
      let s2 := if 95 ≤ deg then s1.setClock isl 1000 else s1
      if 110 ≤ deg then s2.stopIsland isl else s2)

/-- POWER_SHARE_ADJUST (R421): the draw of an island, in watts, meets its share: a step of its clock or of its issue rate. -/
def execPowerShareAdjust (isl draw : Nat) (s : State) : Out :=
  .next (
    if !s.booted || !s.populated isl || s.mgt.stoppedIsl.contains isl then s
    else
      let f := s.clockOf isl
      let n := s.ratioOf isl
      let share := s.shareOf
      if share < draw then
        (if 1000 < f then s.setClock isl (f - 25)
         else if n < 8 then s.setRatio isl (n + 1)
         else if s.mgt.mod.excess then s
         else { s with mgt.mod.excess := true }.postModule isl 1 isl draw)
      else
        let s1 := { s with mgt.mod.excess := false }
        if 1 < n then s1.setRatio isl (n - 1)
        else if f < 2000 && s.mgt.mod.temp < 95 then s1.setClock isl (f + 25) else s1)

/-- PWRCAP_WRITE (R421). -/
def execPwrcapWrite (v : W64) (s : State) : Out :=
  .next (if s.mgt.mod.mode = 3 then s else { s with mgt.mod.pwrcap := max 2000 (min 30100 (fld v 0 16)) })

/-! Attestation (R420). -/

namespace State

/-- An answer over the DOE mailbox, once MODE is set and not 3 (R417, R420). -/
def answer (s : State) (a : Spdm) : State := if s.booted then { s with mgt.mod.spdm := s.mgt.mod.spdm ++ [a] } else s

end State

/-- GET_VERSION: the version of SPDM, 1.3. -/
def execGetVersion (s : State) : Out := .next (s.answer .version)
/-- GET_CAPABILITIES. -/
def execGetCapabilities (s : State) : Out := .next (s.answer .capabilities)
/-- NEGOTIATE_ALGORITHMS. -/
def execNegotiateAlgorithms (s : State) : Out := .next (s.answer .algorithms)
/-- GET_DIGESTS: the digest of the certificate chain. -/
def execGetDigests (s : State) : Out := .next (s.answer .digests)
/-- GET_CERTIFICATE: a part of the chain. -/
def execGetCertificate (off len : Nat) (s : State) : Out := .next (s.answer (.certificate off len))
/-- CHALLENGE: the nonce is answered under the device identity key. -/
def execChallenge (nonce : BitVec 256) (s : State) : Out := .next (s.answer (.challengeAuth nonce))

/-- GET_MEASUREMENTS: index 0 asks for the number of entries, 0xFF for all, 1 to 6 for one. -/
def execGetMeasurements (index : Nat) (s : State) : Out :=
  .next (
    let ds := s.mgt.mod.digests
    if index = 0 then s.answer (.measurements 0 [BitVec.ofNat 512 ds.length])
    else if index = 0xFF then s.answer (.measurements 0xFF ds)
    else match ds[index - 1]? with
      | some d => s.answer (.measurements index [d])
      | none => s.answer .error)

end Sys2Proof.Machine
end

