-- ==== Sys2Proof/Machine/Bar.lean ====
section
/-! DEFINITION. BAR0, the host's register space: writes and reads (R14, R348, R391, R412, R414, R415, R418-R424). -/

namespace Sys2Proof.Machine

open Sys2Proof

/-- A field placed at a bit. -/
def place (lo n x : Nat) : Nat := x % 2 ^ n * 2 ^ lo
def bitAt (lo : Nat) (b : Bool) : Nat := if b then 2 ^ lo else 0

/-- A host register of 64 bits, by its place in BAR0 (R414). -/
inductive Reg
  | module (off : Nat)             -- the module block
  | bootLog (off : Nat)
  | precinct (p off : Nat)
  | queue (q off : Nat)            -- `q` is precinct × 64 + queue
  | island (isl off : Nat)
  | chart (isl off : Nat)
  | none
  deriving DecidableEq, Repr

/-- The register at an offset. -/
def regAt (off : Nat) : Reg :=
  if off % 8 ≠ 0 then .none
  else if off < 0x40 then .module off
  else if 0x1000 ≤ off && off < 0x2000 then .bootLog (off - 0x1000)
  else if 0x80000 ≤ off && off < 0x80000 + 320 * 0x100 then .precinct ((off - 0x80000) / 0x100) (off % 0x100)
  else if 0x100000 ≤ off && off < 0x100000 + 320 * 0x1000 then
    let o := off - 0x100000
    if o % 0x1000 < 0x800 then .queue (o / 0x1000 * 64 + o % 0x1000 / 0x20) (o % 0x20) else .none
  else if 0x1000000 ≤ off && off < 0x1000000 + 20 * 0x10000 then .island ((off - 0x1000000) / 0x10000) (off % 0x10000)
  else if 0x4000000 ≤ off && off < 0x4000000 + 20 * 0x40000 then .chart ((off - 0x4000000) / 0x40000) (off % 0x40000)
  else .none

/-- The state that a step of the table leaves. -/
def after (o : Out) (s : State) : State := match o with | .next t => t | _ => s

namespace State

/-- LOG as a ring register stores it (R422). -/
def logOf (v : W64) : Nat := max 4 (min 16 (fld v 0 5))

/-! Writes. -/

/-- A command of PRCTL (R391). -/
def prctlCommand (s : State) (p : Nat) (v : W64) : State :=
  match fld v 0 3 with
  | 0 => s
  | 1 => after (execPrecinctHalt p s) s
  | 2 => after (execResume p s) s
  | 3 => after (execExchange p s) s
  | 4 => after (execAbort p (BitVec.ofNat 32 (fld v 32 32)) s) s
  | 5 => after (execRelease p (fld v 32 7) (fld v 40 6) s) s
  | 6 => after (execWake p (fld v 32 4) (BitVec.ofNat 4 (fld v 40 4)) s) s
  | _ => s.refuse p

/-- PRCTL: flags are cleared, ARG and ARMBP stored, and the command given. -/
def writePrctl (s : State) (p : Nat) (v : W64) : State :=
  let x := s.precinct p
  let s1 := s.setPrecinct p { x with arg := BitVec.ofNat 32 (fld v 32 32), df := x.df && !v.getLsbD 11, err := x.err && !v.getLsbD 10,
                                     armbp := x.armbp || v.getLsbD 9 }
  let s2 := if x.armbp && !v.getLsbD 9 then after (execArmbpClear p s1) s1 else s1
  s2.prctlCommand p v

/-- CTXCMD: ignored while BUSY; a number that is no command is refused (R423). -/
def writeCtxcmd (s : State) (p : Nat) (v : W64) : State :=
  if (s.precinct p).ctxbusy then s
  else match fld v 0 2 with
  | 1 => after (execContextCreate p s) s
  | 2 => after (execContextUpdate p s) s
  | 3 => after (execContextDestroy p (BitVec.ofNat 12 (fld v 16 12)) s) s
  | _ => s.setPrecinct p { s.precinct p with ctxresult := 2 }

/-- A register of a precinct block (R391, R422, R423). -/
def writePrecinct (s : State) (p off : Nat) (v : W64) : State :=
  let x := s.precinct p
  match off with
  | 0x00 => s.writePrctl p v
  | 0x08 =>
    if v.getLsbD 63 then after (execPrecinctCreate p v s) s
    else if x.valid then after (execPrecinctFree p s) s
    else s.setPrecinct p (withPdesc x v)
  | 0x10 => if x.valid then s else s.setPrecinct p { x with ovf := v }
  | 0x18 => after (execPoolDoorbell p s) s
  | 0x20 => s.setPrecinct p { x with evbase := v }
  | 0x28 => s.setPrecinct p { x with evlog := logOf v, dropped := if v.getLsbD 47 then 0 else x.dropped }
  | 0x30 => s.setPrecinct p { x with evhead := v.setWidth 32 }
  | 0x80 => s.setPrecinct p { x with ctxaddr := v }
  | 0x88 => s.writeCtxcmd p v
  | 0x98 => after (execPfpoolWrite p v s) s
  | _ =>
    if 0x48 ≤ off && off ≤ 0x78 then s.setPrecinct p { x with pway := x.pway.put ((off - 0x40) / 8) (v.setWidth 16) } else s

/-- A register of a queue (R348). -/
def writeQueue (s : State) (q off : Nat) (v : W64) : State :=
  match off with
  | 0x00 => after (execQueueBaseWrite q v s) s
  | 0x08 => after (execQueueControlWrite q v s) s
  | 0x18 => after (execQueueDoorbell q v s) s
  | _ => s

/-- OPSTATn: writing 1 to the top bit of a field clears it (R412). -/
def writeOpstat (s : State) (isl p : Nat) (v : W64) : State :=
  let x := s.port isl p
  s.setPort isl p { x with resent := if v.getLsbD 63 then 0 else x.resent, crcf := if v.getLsbD 47 then 0 else x.crcf,
                           corr := if v.getLsbD 31 then 0 else x.corr }

/-- A register of an island (R389, R412, R424). -/
def writeIsland (s : State) (isl off : Nat) (v : W64) : State :=
  if !s.populated isl then s
  else if off = 0 then
    (if v.getLsbD 0 then (if s.mgt.dhalt.get false isl then s else after (execDebugHalt isl s) s) else after (execDebugHaltClear isl s) s)
  else if 0x140 ≤ off && off < 0x160 then after (execSteerWrite isl ((off - 0x140) / 8) v s) s
  else if 0x180 ≤ off && off < 0x1A0 then s.writeOpstat isl ((off - 0x180) / 8) v
  else if off = 0x1C0 then { s with eng.fab.fstat := s.eng.fab.fstat.upd 0 isl (· &&& ~~~(v.setWidth 2)) }
  else if 0x400 ≤ off && off < 0x400 + 128 * 0x40 then
    after (execCounterClear (isl * 128 + (off - 0x400) / 0x40) ((off - 0x400) % 0x40 / 8) s) s
  else if 0x4000 ≤ off && off < 0x4800 && v.getLsbD 4 then after (execColourFaultClear isl ((off - 0x4000) / 8) s) s
  else s

/-- A register of the module block (R415, R421, R422). -/
def writeModule (s : State) (off : Nat) (v : W64) : State :=
  let m := s.mgt.mod
  match off with
  | 0x08 => after (execPwrcapWrite v s) s
  | 0x18 => if m.hpoBusy then s else after (execHostPageOwnerChange v s) s
  | 0x20 => { s with mgt.mod.ml := { m.ml with base := v } }
  | 0x28 => { s with mgt.mod.ml := { m.ml with log := logOf v, dropped := if v.getLsbD 47 then 0 else m.ml.dropped } }
  | 0x30 => { s with mgt.mod.ml := { m.ml with head := v.setWidth 32 } }
  | _ => s

/-! Reads, which change nothing. -/

/-- STATE of PRCTL (R391). -/
def prState : PrState → Nat
  | .running => 0 | .halting => 1 | .halted => 2 | .exchanging => 3 | .swapped => 4 | .failed => 5

def readModule (s : State) (off : Nat) : Nat :=
  let m := s.mgt.mod
  match off with
  | 0x00 => place 44 20 m.pop.toNat + place 24 20 m.healthy.toNat + place 16 8 m.reason.toNat + place 8 2 m.attempts + place 4 4 m.mode
      + place 0 4 m.stage
  | 0x08 => m.pwrcap
  | 0x10 => place 0 16 m.therm + place 16 8 m.temp + bitAt 24 m.throttle + bitAt 25 m.excess
  | 0x18 => place 0 31 m.hpoPage + place 32 5 m.hpoIsl + bitAt 63 m.hpoBusy
  | 0x20 => m.ml.base.toNat
  | 0x28 => place 0 5 m.ml.log + place 32 16 m.ml.dropped
  | 0x30 => m.ml.head.toNat
  | 0x38 => m.ml.tail.toNat
  | _ => 0

/-- A word of the boot log (R419). -/
def readBootLog (s : State) (off : Nat) : Nat :=
  match s.mgt.mod.log[off / 32]? with
  | none => 0
  | some r =>
    match off % 32 / 8 with
    | 0 => place 0 8 r.attempt + place 8 8 r.stage + place 16 8 r.reason + place 24 8 r.island
    | 1 => r.detail.toNat
    | 2 => place 0 64 r.time
    | _ => 0

def readPrecinct (s : State) (p off : Nat) : Nat :=
  let x := s.precinct p
  match off with
  | 0x00 => place 32 32 x.arg.toNat + bitAt 11 x.df + bitAt 10 x.err + bitAt 9 x.armbp + place 3 3 (prState x.state)
  | 0x08 => place 0 3 x.size + place 4 4 x.tag + place 8 14 x.nbase + place 22 15 x.ncount + bitAt 63 x.valid
  | 0x10 => x.ovf.toNat
  | 0x20 => x.evbase.toNat
  | 0x28 => place 0 5 x.evlog + place 32 16 x.dropped
  | 0x30 => x.evhead.toNat
  | 0x38 => x.evtail.toNat
  | 0x80 => x.ctxaddr.toNat
  | 0x90 => place 0 8 x.ctxresult.toNat + bitAt 63 x.ctxbusy
  | 0x98 => x.fpool.toNat
  | _ => if 0x48 ≤ off && off ≤ 0x78 then (x.pway.get 0xFFFF ((off - 0x40) / 8)).toNat else 0

def readQueue (s : State) (q off : Nat) : Nat :=
  let x := s.queue q
  match off with
  | 0x00 => x.base.toNat
  | 0x08 => place 0 5 x.log + place 5 2 x.prio + place 7 5 x.home + place 12 12 x.spn + bitAt 24 x.en + bitAt 25 x.err + place 32 8 x.cause.toNat
  | 0x10 => x.head.toNat
  | _ => 0

def readIsland (s : State) (isl off : Nat) : Nat :=
  let n := off % 0x20 / 8
  let x := s.port isl n
  if !s.populated isl then 0
  else if off = 0 then bitAt 0 (s.mgt.dhalt.get false isl) + bitAt 1 (s.debugHalted isl)
  else if 0x100 ≤ off && off < 0x120 then place 32 32 x.demLast.toNat + place 24 2 x.link + place 16 8 x.res + place 0 8 (s.wl isl n)
  else if 0x140 ≤ off && off < 0x160 then place 8 8 x.ceil + place 0 8 x.floor
  else if 0x180 ≤ off && off < 0x1A0 then place 48 16 x.resent + place 32 16 x.crcf + place 0 32 x.corr
  else if off = 0x1C0 then (s.eng.fab.fstat.get 0 isl).toNat
  else if 0x400 ≤ off && off < 0x400 + 128 * 0x40 then
    s.mgt.counters.get 0 ((isl * 128 + (off - 0x400) / 0x40) * 8 + (off - 0x400) % 0x40 / 8)
  else if 0x4000 ≤ off && off < 0x4800 then
    let k := (off - 0x4000) / 8
    let c := s.colour isl k
    place 16 8 (s.phaseError isl k).toNat + bitAt 5 c.alarm + bitAt 4 c.fault + bitAt 3 (s.pinned isl k) + place 0 3 c.port
  else 0

def readChart (s : State) (isl off : Nat) : Nat :=
  if off < 0x8000 then (s.chart isl (off / 8)).toNat
  else if 0x10000 ≤ off then (s.eng.fab.peers.get 0 ((isl * 4096 + 32 + (off - 0x10000) / 32) * 4 + off / 8 % 4)).toNat
  else 0

/-- What a read of 8 bytes of BAR0 answers (R414): WO registers and offsets that hold no register read as zero. -/
def barRead (s : State) (off : Nat) : W64 :=
  BitVec.ofNat 64 (match regAt off with
    | .module o => if s.mgt.mod.mode = 3 && o ≠ 0 then 0 else s.readModule o
    | .bootLog o => if s.mgt.mod.mode = 0 then 0 else s.readBootLog o
    | .precinct p o => if s.booted then s.readPrecinct p o else 0
    | .queue q o => if s.booted then s.readQueue q o else 0
    | .island i o => if s.booted then s.readIsland i o else 0
    | .chart i o => if s.booted then s.readChart i o else 0
    | .none => 0)

end State

/-- REGISTER_WRITE: an aligned 8-byte write of BAR0, under the register's access code (R14, R414). -/
def execRegisterWrite (off : Nat) (v : W64) (s : State) : Out :=
  .next (
    match regAt off with
    | .module o => if s.mgt.mod.mode = 3 then s else s.writeModule o v
    | .precinct p o => if s.booted then s.writePrecinct p o v else s
    | .queue q o => if s.booted then s.writeQueue q o v else s
    | .island i o => if s.booted then s.writeIsland i o v else s
    | .chart i o =>
      if !s.booted then s
      else if o < 0x8000 then after (execChartWrite i (o / 8) v s) s
      else if 0x10000 ≤ o then after (execPeerEntryWrite i (o - 0x10000) v s) s
      else s
    | .bootLog _ | .none => s)

end Sys2Proof.Machine
end

