-- ==== Sys2Proof/Machine/Collect.lean ====
section
/-! DEFINITION. The crew instructions (R191, R279-R284). -/

namespace Sys2Proof.Machine

open Sys2Proof

/-- A one- or two-register result written in the lanes of a mask, as a number. -/
def wrReg (x : RI) (s : State) (m : Mask) (f : Nat → W64) : State :=
  if x.ty.regs = 2 then s.wrV64 (vnum x.d) m f else s.wrV (vnum x.d) m fun L => (f L).extractLsb' 0 32

/-- Source A of a lane as 64 bits, zero-extended from one register. -/
def srcA (x : RI) (s : State) (w : W64) (L : Nat) : W64 :=
  if x.ty.regs = 2 then s.v64 w x.lit x.a L else (s.v32 w x.lit x.a L).setWidth 64

/-- The source lane of a SHFL (R281). -/
def shflSrc (mode w L : Nat) (b : W32) : Option Nat :=
  let base := L - L % w
  match mode with
  | 0 => some (base + b.toNat % w)
  | 1 => let j : Int := L + b.toInt
         if base ≤ j && j < base + w then some j.toNat else none
  | 2 => some (base + (L - base + b.toNat) % w)
  | _ => some (base + ((L - base) ^^^ (b.toNat % w)))

/-- SHFL: another active lane's value, or the lane's own with a false predicate (R281). -/
def execShfl (x : RI) (s : State) : Out :=
  .next (perLane x s fun w m s =>
    let src (L : Nat) : Option Nat :=
      (shflSrc (x.subN % 4) (2 ^ (x.subN / 4 % 8)) L (s.v32 w x.lit x.b L)).filter (m.getLsbD ·)
    (wrReg x s m fun L => srcA x s w ((src L).getD L)).wrP x.c m fun L => (src L).isSome)

/-- QSWZ: a lane of the quad by the pattern (R281). -/
def execQswz (x : RI) (s : State) : Out :=
  .next (perLane x s fun w m s =>
    wrReg x s m fun L =>
      let j := L - L % 4 + x.subN / 2 ^ (2 * (L % 4)) % 4
      srcA x s w (if m.getLsbD j then j else L))

/-- VOTE over the contributors (R282). -/
def execVote (x : RI) (s : State) : Out :=
  .next (perLane x s fun _ m s =>
    let con := m &&& ~~~s.helpers
    let k := match x.a with | .p n => n.toNat | _ => 7
    let v := maskBy fun L => con.getLsbD L && (s.rdP k L != x.sub.getLsbD 3)
    match x.subN % 8 with
    | 0 => s.wrP x.d m fun _ => v = con
    | 1 => s.wrP x.d m fun _ => v ≠ 0
    | 2 => s.wrP x.d m fun _ => v = con || v = 0
    | 3 => s.wrV (vnum x.d) m fun _ => v
    | _ => s.wrV (vnum x.d) m fun _ => BitVec.ofNat 32 (popc v))

/-- MATCH: contributors with the lane's value (R282). -/
def execMatchEq (x : RI) (s : State) : Out :=
  .next (perLane x s fun w m s =>
    let con := m &&& ~~~s.helpers
    s.wrV (vnum x.d) m fun L => maskBy fun j => con.getLsbD j && srcA x s w j = srcA x s w L)

/-- ELECT: one contributor (R282). -/
def execElect (x : RI) (s : State) : Out :=
  .next (perLane x s fun _ m s =>
    let ls := lanesOf (m &&& ~~~s.helpers)
    let one := if x.sub.getLsbD 0 then ls.getLast? else ls.head?
    s.wrP x.d m fun L => one = some L)

/-- The combination of the values of a list of lanes (R283): code and flags. -/
def combineX (op : Nat) (t : Ty) (vs : List W64) : W64 × BitVec 6 :=
  let w := t.width
  if t = .f32 then
    let f := fmtOfTy .f32
    let xs := vs.map fun v => decodeF f v.toNat
    match op with
    | 0 => if vs.isEmpty then (0, 0) else
        let r := sumN false xs
        let q := cvtFloat f {} r.1
        (BitVec.ofNat 64 q.1, r.2 ||| q.2)
    | _ =>
      let code := match vs with
        | [] => if op = 1 then 0x7F800000 else 0xFF800000
        | v :: r => r.foldl (fun a b => minMaxF f (op = 2) a b.toNat) (minMaxF f (op = 2) v.toNat v.toNat)
      (BitVec.ofNat 64 code, 0)
  else
    let val (v : W64) : Int := if w = 64 then valOf t v else valOf t (v.extractLsb' 0 32)
    let bits (i : Int) : W64 := BitVec.ofInt 64 (i % 2 ^ w)
    let r : W64 := match op with
      | 0 => bits ((vs.map val).sum)
      | 1 => bits ((vs.map val).foldl min (maxOf t w))
      | 2 => bits ((vs.map val).foldl max (minOf t w))
      | 3 => vs.foldl (· &&& ·) (BitVec.ofNat 64 (2 ^ w - 1))
      | 4 => vs.foldl (· ||| ·) 0
      | _ => vs.foldl (· ^^^ ·) 0
    (r, 0)

/-- REDX over the contributors (R283). -/
def execRedx (x : RI) (s : State) : Out :=
  .next (perLane x s fun w m s =>
    let con := m &&& ~~~s.helpers
    let r := combineX (x.subN % 8) x.ty ((lanesOf con).map (srcA x s w))
    (wrReg x s m fun _ => r.1).raise (if con = 0 then 0 else r.2))

/-- SCANX: each lane's combination over the contributors up to it, or below it (R283). -/
def execScanx (x : RI) (s : State) : Out :=
  .next (perLane x s fun w m s =>
    let con := lanesOf (m &&& ~~~s.helpers)
    let at_ (L : Nat) : W64 × BitVec 6 :=
      combineX (x.subN % 8) x.ty ((con.filter fun j => j < L || (j = L && !x.sub.getLsbD 3)).map (srcA x s w))
    (wrReg x s m fun L => (at_ L).1).raise (con.foldl (fun a L => a ||| (at_ L).2) 0))

/-- HELP: whether the lane is a helper lane (R284). -/
def execHelp (x : RI) (s : State) : Out :=
  .next (perLane x s fun _ m s => s.wrP x.d m fun L => s.helpers.getLsbD L)

/-- MASK: a set of lanes as a mask (R284). -/
def execMask (x : RI) (s : State) : Out :=
  .next (perLane x s fun _ m s =>
    s.wrV (vnum x.d) m fun L =>
      match x.subN % 4 with
      | 0 => m
      | 1 => s.frag.mask
      | 2 => s.crew.live
      | _ => m &&& BitVec.ofNat 32 (2 ^ L - 1))

end Sys2Proof.Machine
end

