-- ==== Sys2Proof/Machine/Bridge.lean ====
section
/-! DEFINITION. What a request or a snoop of the host needs of a line, and its effect (R72, R76, R97, R99, R103-R106). -/

namespace Sys2Proof.Machine

open Sys2Proof

/-! Host requests for a half line of island memory (R103, R104). -/

namespace State

def halfOf (x : Line) (h : Nat) : HS := if h = 0 then x.hs0 else x.hs1
def setHalf (s : State) (lk h : Nat) (v : HS) : State :=
  let x := s.line lk
  s.setLine lk (if h = 0 then { x with hs0 := v } else { x with hs1 := v })

/-- No partial sum, replica, or copy in E or M, a step at a time: the home has a token of its own, which it keeps while the host holds a
half; true when it is so. -/
def gatherShared (s : State) (lk : Nat) : State × Bool :=
  let x := s.line lk
  if !unblocked x then (s, false)
  else if x.ukey.isSome then (s.startMerge lk, false)
  else if replicated x then (s.startUnrepl lk, false)
  else if x.tokens ≠ 0 then (s, true)
  else (s.startRecall lk, false)

/-- What a request needs that a back-invalidation of its half has met: it comes first, with the island recall it needs, while the line waits
for the host (R105). -/
def gatherMet (s : State) (lk : Nat) (all tr : Bool) : State × Bool :=
  let x := s.line lk
  if x.tx then (s, false)
  else if tr && x.trSharers ≠ 0 then (s.startTx lk, false)
  else if x.tokens = 144 || (!all && x.tokens ≠ 0) then (s, true)
  else if x.fwds.isEmpty && x.flight.isEmpty then (s.sendFwds lk (sharersOf x.sharers) .recall, false)
  else (s, false)

/-- What a host request needs of the island's copies: all of them recalled, or none in E, M or U (R104). -/
def hostGather (s : State) (lk : Nat) (all tr met : Bool) : State × Bool :=
  if met then s.gatherMet lk all tr else if all then s.gatherHome lk tr else s.gatherShared lk

/-- The answer to a read of a half line: its bytes, or poison (R59). -/
def hostAnswer (s : State) (off : Nat) : State :=
  let l := lineLoc (hdmLine off) + 64 * hdmHalf off
  let ans : HostAns := if s.badLine l then .poison else .data (Memory.readBytes s.mem l 64)
  { s with mgt.mod := { s.mgt.mod with m2sData := s.mgt.mod.m2sData ++ [(off, ans)] } }

/-- Bytes of a half line written under a byte mask. -/
def hostBytes (s : State) (off : Nat) (mask : W64) (data : List Byte) : State :=
  let l := lineLoc (hdmLine off) + 64 * hdmHalf off
  { s with mem := Memory.writeAll s.mem (((List.range 64).filter (mask.getLsbD ·)).map fun i => (l + i, data.getD i 0)) }

/-- A host request performed, if it can be; `met` says that the line waits for the host and the request comes first. A read with snoop type NoOp is
treated as one with SnpCur (DESIGN CHOICE, unsafe: log 120). MemInv recalls every copy, whatever its MetaValue (DESIGN CHOICE, unsafe: log 121). -/
def hostDo (s : State) (i : Instr) (met : Bool) : State × Bool :=
  match i with
  | .hostMemrd off snp =>
    let lk := hdmLine off
    let r := s.hostGather lk (snp = .inv) (snp = .inv) met
    if !r.2 then r
    else
      let s1 := r.1.hostAnswer off
      (match snp with
       | .data => s1.setHalf lk (hdmHalf off) .S
       | .inv => s1.setHalf lk (hdmHalf off) .A
       | _ => s1, true)
  | .hostMemwr off mv mask data =>
    let lk := hdmLine off
    let r := s.hostGather lk true true met
    if !r.2 then r else ((r.1.hostBytes off mask data).setHalf lk (hdmHalf off) mv, true)
  | .hostMeminv off mv =>
    let lk := hdmLine off
    let r := s.hostGather lk true (mv = .A) met
    if !r.2 then r
    else ((r.1.setLine lk { r.1.line lk with l2dirty := false }).setHalf lk (hdmHalf off) mv, true)
  | _ => (s, true)

/-! Snoops of the host for a line of its memory (R106). -/

def sendCxl (s : State) (ms : List CxlMsg) : State := { s with mgt.mod := { s.mgt.mod with cxlOut := s.mgt.mod.cxlOut ++ ms } }

/-- The bytes of a half of a line. -/
def halfBytes (s : State) (lk h : Nat) : List Byte := Memory.readBytes s.mem (lineLoc lk + 64 * h) 64

/-- SnpInv on a line whose copies are all at its home: the snooped half is returned, the other half given up; what had been asked of the
host is asked again. -/
def snoopInv (s : State) (lk half : Nat) : State :=
  let x := s.line lk
  let other := 1 - half % 2
  let s1 := (s.sendCxl [.snoopData lk half (s.halfBytes lk half)]).evictMsgs lk x.l2dirty [other]
  let y := s1.line lk
  let asked := match y.hostOwn with | h :: _ => [(0, h.2), (1, h.2)] | [] => []
  s1.setLine lk { y with inL2 := false, way := 0, mark := .none, used := 0, l2dirty := false, owned := none, hostOwn := asked }

/-- SnpData on a line that no agent holds in E or M: it is S from now on, and dirty halves are written back. -/
def snoopShare (s : State) (lk : Nat) : State :=
  let x := s.line lk
  let s1 := if x.l2dirty then s.sendCxl ([0, 1].map fun h => .writeBack lk h (s.halfBytes lk h)) else s
  s1.setLine lk { s1.line lk with owned := x.owned.map fun _ => false, l2dirty := false }

/-- A snoop performed, if it can be. -/
def snoopDo (s : State) (lk half : Nat) (inv : Bool) : State × Bool :=
  let x := s.line lk
  if x.owned.isNone && x.hostOwn.isEmpty then (s, true)
  else if inv then
    match s.gatherEvict lk with
    | (s1, true) => (s1.snoopInv lk half, true)
    | r => r
  else if x.owned = some false then (s, true)
  else match s.gatherShared lk with
    | (s1, true) => (s1.snoopShare lk, true)
    | r => r

/-- A request or snoop of the host that no back-invalidation has met: performed, or it waits in the queue of its line (R94). -/
def hostServe (s : State) (i : Instr) : State :=
  match i with
  | .hostSnoop isl line half inv =>
    let lk := isl * 2 ^ 41 + line
    match s.snoopDo lk half inv with
    | (s1, true) => s1
    | (s1, false) => s1.holdFor lk (.host i)
  | _ =>
    match hostOff i with
    | none => s
    | some off =>
      match s.hostDo i false with
      | (s1, true) => s1
      | (s1, false) => s1.holdFor (hdmLine off) (.host i)

/-- A back-invalidation of the half is outstanding (R105). -/
def backInvalidated (s : State) (lk h : Nat) : Bool :=
  let x := s.line lk
  x.trans = .biw && x.bisnp.any fun b => b.1 = h

/-- Requests for a half that the bridge holds, in order of arrival. -/
def bridgeFor (s : State) (lk h : Nat) : List Instr :=
  s.coh.bridge.filter fun i => match hostOff i with | some o => hdmLine o = lk && hdmHalf o = h | none => false

/-- A request that meets a back-invalidation waits in the bridge, and the conflict handshake is due. After the handshake newer requests are
held, but for an eviction of the half by the host that was in flight already (R105). -/
def meetsBi (s : State) (i : Instr) (lk h : Nat) : State :=
  let evicts : Bool := match i with | .hostMemwr _ .I _ _ => halfOf (s.line lk) h = .A | _ => false
  if s.coh.heldM2S.contains (lk, h, true) then
    if evicts then { s with coh.bridge := i :: s.coh.bridge
                            coh.heldM2S := s.coh.heldM2S.map fun m => if m = (lk, h, true) then (lk, h, false) else m }
    else { s with coh.bridge := s.coh.bridge ++ [i] }
  else if s.coh.heldM2S.contains (lk, h, false) then { s with coh.bridge := s.coh.bridge ++ [i] }
  else { s with coh.bridge := s.coh.bridge ++ [i], coh.heldM2S := s.coh.heldM2S ++ [(lk, h, false)] }

end State

end Sys2Proof.Machine
end

