-- ==== Sys2Proof/Machine/Translate.lean ====
section
/-! DEFINITION. Requests at their home slices, tokens, translation invalidation (R66-R78, R85-R102). -/

namespace Sys2Proof.Machine

open Sys2Proof

namespace State

/-! Requests (R89-R93, R101). -/

def req (s : State) (rid : Nat) : Option Req := s.coh.reqs.find rid
def putReq (s : State) (rid : Nat) (r : Req) : State := { s with coh.reqs := s.coh.reqs.put rid r }

/-- A request is gone from the tables; a Pilot's permit returns. -/
def dropReq (s : State) (rid : Nat) : State :=
  match s.req rid with
  | some r => { s with coh.reqs := s.coh.reqs.del rid }.freePermit r.agent r.line
  | none => s

/-- A request is over. A persistent or queued one is still to be deactivated, which frees its entry and lets the next be served (R92, R93). -/
def endReq (s : State) (rid : Nat) : State :=
  match s.req rid with
  | some r => if 3 ≤ r.state then s.putReq rid { r with state := 5 } else s.dropReq rid
  | none => s

/-- Of two requests, the first comes first (R91). -/
def wins (a b : Req) : Bool := a.born < b.born || (a.born = b.born && a.agent < b.agent)

/-- The active persistent request that the agents serve for a line (R92). -/
def winner (s : State) (lk : Nat) : Option (Nat × Req) :=
  (s.coh.reqs.filter fun r => r.2.line = lk && r.2.state = 3).foldl (fun (b : Option (Nat × Req)) r => match b with
    | none => some r
    | some x => if wins r.2 x.2 then some r else b) none

/-- The agent to which an active persistent request sends the tokens that reach others; only towards a line of its precinct (R92, R102). -/
def drawnTo (s : State) (lk : Nat) : Option Nat :=
  match s.winner lk with
  | some w => if w.2.tag = (s.line lk).owntag then some w.2.agent else none
  | none => none

/-- A request stays at its home, which sends a wait notice (R90). -/
def notice (s : State) (rid : Nat) : State :=
  match s.req rid with
  | some r => s.putReq rid { r with sent := s.clock, state := if r.state ≤ 1 then 0 else r.state }
  | none => s

/-- A request is being answered. -/
def answering (s : State) (rid : Nat) : State :=
  match s.req rid with
  | some r => s.putReq rid { r with state := if r.state = 0 then 1 else r.state }
  | none => s

/-- Tokens of the home leave it for an agent (R88). -/
def grant (s : State) (lk a n : Nat) (owner : Bool) : State :=
  let x := s.line lk
  if n = 0 then s
  else ((s.setLine lk { x with tokens := x.tokens - n, owner := x.owner && !owner, sharers := addSharer x.sharers a }).fly lk
    .home (.agent a) n owner).refreshMesi lk

/-- A request is forwarded to the holders that the record names, but for its own agent, which the record names from now on (R89). -/
def forwardTo (s : State) (lk rid a : Nat) (hs : List Nat) : State :=
  let x := s.line lk
  let new := hs.filter fun h => h ≠ a && !x.fwds.any fun f => f.to_ = h && f.kind = .take rid a
  (s.setLine lk { x with sharers := addSharer x.sharers a }).sendFwds lk new (.take rid a)

/-- An access of an agent to a line of a host page that it may no longer cache is translated again, and so refused (R106); a
store that had left the core is lost (DESIGN CHOICE, unsafe: log 94). -/
def refuseHost (s : State) (rid : Nat) (r : Req) : State :=
  let s1 := s.repark (fun c => r.agent < 128 && c = r.isl * 128 + r.agent) (· = r.line)
  { s1 with coh.wbuf := s1.coh.wbuf.filter fun e => !(e.core = r.isl * 144 + r.agent && e.line = r.line) }.endReq rid

/-! Hot lines (R98, R99). -/

def mayReplicate (x : Line) : Bool :=
  (x.mesi = .I || x.mesi = .S) && x.ukey.isNone && x.trSharers = 0 && unblocked x && x.hs0 = .I && x.hs1 = .I && !replicated x

def isHot (s : State) (lk : Nat) : Bool := s.coh.hot.any fun h => h.line = lk && 256 ≤ h.count

/-- The network interface of an agent that holds a redirect entry of a line uses it for a read (R98). -/
def useRedirect (s : State) (lk a : Nat) : State :=
  let x := s.line lk
  if x.redirects.any fun e => e.1 = a then
    { s with choices := s.choices + 1 }.setLine lk { x with
      redirects := x.redirects.map fun (e : Nat × Nat) => if e.1 = a then (a, s.choices) else e }
  else s

/-- A read that a redirect entry sends to a helper slice which has a token left: the helper grants it, and its copy is touched (R52, R98). One of
another precinct goes to the home (R102), as does one for a helper that has given its replica up (R99). -/
def helperGrant (s : State) (rid : Nat) (r : Req) : Option State :=
  let lk := r.line
  let x := s.line lk
  if !(x.redirects.any fun e => e.1 = r.agent) || !unblocked x || r.tag ≠ x.owntag then none
  else
    let j := r.agent % (x.replicas.length + 1)
    if j = 0 then none
    else match x.replicas[j - 1]? with
      | some p =>
        if p.tokens = 0 || !p.live then none
        else
          let m := s.retouch p.touches r.turn r.hint p.mark
          let p' := { p with tokens := p.tokens - 1, mark := m.1, touches := m.2, used := if r.hint = 3 then p.used else s.choices }
          let s1 := { s with choices := s.choices + 1 }.setLine lk { x with
            replicas := x.replicas.set (j - 1) p', sharers := addSharer x.sharers r.agent }
          some ((s1.fly lk (.helper p.slice) (.agent r.agent) 1 false).answering rid)
      | none => none

/-! The home serves requests (R88, R89, R94, R96, R97, R102, R104). -/

/-- A read served (R88, R89): E where nothing else has the line, else a token of the home, if it can spare one; and the request is forwarded to
the holders that the record names. -/
def serveRead (s : State) (rid : Nat) (r : Req) : State :=
  let lk := r.line
  let x := s.line lk
  let alone : Bool := x.tokens = 144 && !keepsToken x && !replicated x && (!isHost (lineLoc lk) || x.owned = some true)
  let n := if alone then 144 else if keepsToken x then min 1 (x.tokens - 1) else min 1 x.tokens
  ((s.grant lk r.agent n (x.owner && x.tokens = n)).forwardTo lk rid r.agent (sharersOf x.sharers)).answering rid

/-- A request for ownership served: the home's tokens, and those of every holder (R88, R89). -/
def serveOwn (s : State) (rid : Nat) (r : Req) : State :=
  let x := s.line r.line
  ((s.grant r.line r.agent x.tokens x.owner).forwardTo r.line rid r.agent (sharersOf x.sharers)).answering rid

/-- U granted for a key: the agent's partial line holds the identity (R96). None where the agent's TLB no longer covers the line (R69). -/
def serveUpd (s : State) (rid : Nat) (r : Req) (k : UKey) : State :=
  let x := s.line r.line
  if !s.covered r.isl r.agent r.spn r.va then s.endReq rid
  else
    let u : ULine := { key := k, elems := List.replicate (128 / k.width) (identity k), spn := r.spn, va := r.va, mark := fillMark r.hint,
                       used := s.choices }
    let s1 := { s with choices := s.choices + 1 }.setLine r.line
      { x with ukey := some k, mesi := .U, uholders := (x.uholders.filter (· ≠ r.agent)) ++ [r.agent] }
    { s1 with coh.partials := s1.coh.partials.put (cacheKey r.isl r.agent (lineNo r.line)) u }.endReq rid

/-- A request that joins the queue of a line in queued-forward mode: a starved one in the order of R91, behind the one that has been granted the
line, another at the tail (R93). -/
def queueFor (s : State) (rid : Nat) (r : Req) (starved : Bool) : State :=
  let x := s.line r.line
  let older (n : Nat) : Bool := match s.req n with | some a => !wins r a | none => true
  let q := if x.qf.contains rid then x.qf
           else if starved then x.qf.take 1 ++ (x.qf.drop 1).takeWhile older ++ [rid] ++ (x.qf.drop 1).dropWhile older
           else x.qf ++ [rid]
  (s.setLine r.line { x with qf := q }).putReq rid { r with state := 4 }

/-- A request at its home is served, held behind a blocked line, or waits for a fill. -/
def serveNow (s : State) (rid : Nat) : State :=
  match s.req rid with
  | none => s
  | some r =>
    let lk := r.line
    let x := s.line lk
    match (if r.kind = .read then s.helperGrant rid r else none) with
    | some s1 => s1
    | none =>
      if x.trans = .qf then s.queueFor rid r false
      else if !unblocked x then s.hold lk rid
      else match s.ownTag lk r.tag with
      | (s1, false) => s1.hold lk rid
      | (s1, true) =>
        let own : Bool := r.kind ≠ .read
        match s1.hostFill lk own with
        | (s2, .wait) => s2.notice rid
        | (s2, .refused) => s2.refuseHost rid r
        | (s2, .ok) =>
          match s2.fillL2 lk r.hint r.ways r.turn with
          | (s3, false) => s3.notice rid
          | (s3, true) =>
            let x := s3.line lk
            match r.kind with
            | .read =>
              if x.ukey.isSome then (s3.startMerge lk).hold lk rid
              else if x.hs0 = .A || x.hs1 = .A then (s3.startBi lk false).hold lk rid
              else s3.serveRead rid r
            | .own =>
              if x.ukey.isSome then (s3.startMerge lk).hold lk rid
              else if replicated x then (s3.startUnrepl lk).hold lk rid
              else if x.hs0 ≠ .I || x.hs1 ≠ .I then (s3.startBi lk true).hold lk rid
              else if x.trSharers ≠ 0 then (s3.startTx lk).hold lk rid
              else s3.serveOwn rid r
            | .upd k =>
              if x.trSharers ≠ 0 || replicated x || x.hs0 ≠ .I || x.hs1 ≠ .I then s3.endReq rid
              else if x.ukey.isSome && x.ukey ≠ some k then (s3.startMerge lk).hold lk rid
              else if x.tokens ≠ 144 then (s3.startRecall lk).hold lk rid
              else s3.serveUpd rid r k

/-- The home slice of a line, as the persistent-request tables are kept. -/
def prtKey (lk : Nat) : Nat := lineIsl lk * 96 + sliceOf (lineNo lk)

/-- An active persistent request is broadcast: the agents that hold tokens of the line, and its helper slices, send them to the requester; those
that receive some later do so then (R92). -/
def activate (s : State) (rid : Nat) (r : Req) : State :=
  let lk := r.line
  if (s.line lk).owntag ≠ r.tag then s
  else
    let s1 := s.forwardTo lk rid r.agent (s.holders r.isl (lineNo lk))
    let x := s1.line lk
    let s2 := s1.setLine lk { x with replicas := x.replicas.map fun p => { p with tokens := 0 } }
    x.replicas.foldl (fun (s : State) (p : Replica) => s.fly lk (.helper p.slice) (.agent r.agent) p.tokens false) s2

/-- Requests in the order of R91. -/
def byAge : List (Nat × Req) → List Nat
  | [] => []
  | l => (l.foldl (fun (acc : List (Nat × Req)) r => acc.takeWhile (fun a => wins a.2 r.2) ++ [r] ++ acc.dropWhile fun a => wins a.2 r.2) []).map (·.1)

/-- The head of the queue of a line in queued-forward mode is granted the line when all of it is at its home (R93, R102). -/
def serveQueue (s : State) (lk : Nat) : State :=
  let x := s.line lk
  let q := x.qf.filter fun n => (s.req n).isSome
  let s1 := if q = x.qf then s else s.setLine lk { x with qf := q }
  match q.head?.bind s.req with
  | some r => if x.tokens = 144 then (s1.setLine lk { s1.line lk with owntag := r.tag }).grant lk r.agent 144 true else s1
  | none => s1

/-- The line enters queued-forward mode once all is at its home: the starved requests for it queue in the order of R91. Until then the request
waits behind what is gathered. -/
def queueMode (s : State) (rid : Nat) (r : Req) : State :=
  let lk := r.line
  match s.hostFill lk true with
  | (s1, .wait) => s1
  | (s1, .refused) => s1.refuseHost rid r
  | (s1, .ok) =>
    match s1.gatherWrite lk with
    | (s2, false) => s2.holdFor lk (.req rid)
    | (s2, true) =>
      let rs := s2.coh.reqs.filter fun q => q.2.line = lk && q.2.state = 2
      let s3 := { s2 with coh.reqs := s2.coh.reqs.map fun (q : Nat × Req) =>
        if q.2.line = lk && q.2.state = 2 then (q.1, { q.2 with state := 4 }) else q }
      (s3.setLine lk { s3.line lk with trans := .qf, qf := byAge rs }).serveQueue lk

/-- A starved request at its home (R92, R93): it joins the queue of a line in queued-forward mode, else takes an entry of the slice's table, else
puts the line into that mode; where another entry is active for the line it waits for that one's end (DESIGN CHOICE, safe: log 97). A starved request
for U is one for ownership from then on (DEDUCED, safe: log 97). -/
def starved (s : State) (rid : Nat) (r0 : Req) : State :=
  let r := match r0.kind with | .upd _ => { r0 with kind := .own } | _ => r0
  let s0 := s.putReq rid r
  let pk := prtKey r.line
  let t := s.coh.prt.get [] pk
  if (s.line r.line).trans = .qf then s0.queueFor rid r true
  else if t.length < 32 then
    let s1 := { s.putReq rid { r with state := 3 } with coh.prt := s.coh.prt.put pk (t ++ [rid]) }
    (s1.activate rid r).serveNow rid
  else if (s.winner r.line).isSome then s0
  else s0.queueMode rid r

/-- A request at its home. -/
def homeServe (s : State) (rid : Nat) : State :=
  match s.req rid with
  | some r => if r.state = 2 then s.starved rid r else if r.state = 4 || r.state = 5 then s else s.serveNow rid
  | none => s

/-- An entry of a write buffer that waits in the queue of a line, if nothing of its buffer comes before it there (R116). -/
def serveEntry (s : State) (lk id : Nat) : State :=
  match s.coh.wbuf.find? fun e => e.id = id && e.line = lk with
  | none => s
  | some e =>
    if (s.coh.wbuf.takeWhile fun f => f ≠ e).any fun f => f.core = e.core && f.line = lk then s
    else match s.tryEntry e with
      | (s1, true) => { s1 with coh.wbuf := s1.coh.wbuf.erase e }
      | (s1, false) => s1

/-- A walk that has waited reads its entry, and its permit returns with the value (R72, R77, R101). What comes after it in the queue waits while an
agent's copy in E or M is downgraded for it. -/
def serveWalk (s : State) (lk t a : Nat) : State :=
  match (s.givePermit lk (17 + t)).readEntry (lineIsl lk) t a with
  | (s1, some v) => { s1 with trn.replies := s1.trn.replies ++ [(lineIsl lk, t, a, v)] }
  | (s1, none) => s1.queueAt lk (17 + t) (.walk t a)

/-- What waits in the queue of a line is served. An access of the island agent is made again; its permit returns (R101; log 130). -/
def serveOne (s : State) (lk : Nat) : Held → State
  | .req rid => s.homeServe rid
  | .host i => s.hostServe i
  | .walk t a => s.serveWalk lk t a
  | .agent => s.givePermit lk 16
  | .entry id => s.serveEntry lk id
  | .op ck id => s.progressOp ck id
  | .arr n => s.tryArr n
  | .land op ofs =>
    match (s.eng.acks ++ s.eng.hmacks).find? fun a => a.op = op && (match a.reply with | some p => decide (p.1 = ofs) | none => false) with
    | some a => match a.reply with
      | some (o, d, l) => s.getReply op o d l
      | none => s
    | none => s
  | .gran core id k => granuleDone core id k s

/-- The queue of a line served in order, until the line is blocked again; the rest then keeps its order. -/
def serveGo (lk : Nat) : List Held → State → State
  | [], s => s
  | h :: r, s =>
    if unblocked (s.line lk) then serveGo lk r (s.serveOne lk h)
    else let x := s.line lk
         s.setLine lk { x with held := x.held ++ (h :: r).filter fun g => !x.held.contains g }

/-- What was held is served in order of arrival, now that nothing blocks the line (R94). -/
def serveHeld (s : State) (lk : Nat) : State :=
  let x := s.line lk
  if !settled x || x.held.isEmpty then s else serveGo lk x.held (s.setLine lk { x with held := [] })

/-- A transient state is left when its condition holds, and what was held is served (R94). -/
def settleLine (s0 : State) (lk : Nat) : State :=
  let s := if (s0.line lk).trans = .qf then s0.serveQueue lk else s0
  let x := s.line lk
  let done : Bool := match x.trans with
    | .none => true
    | .recall => x.tokens = 144
    | .merge => x.uholders.isEmpty
    | .unrepl => !replicated x && (x.fwds.all fun f => f.kind ≠ .unredirect) &&
        x.flight.all fun f => match f.src with | .helper _ => false | _ => true
    | .qf => x.qf.isEmpty
    | .biw => x.bisnp.isEmpty
  if done then
    ((s.setLine lk { x with trans := .none, ukey := if x.trans = .merge then none else x.ukey }).refreshMesi lk |>.serveHeld lk).drain
  else s

/-! The order of messages (R100). -/

/-- Lines of an island. -/
def linesOf (s : State) (isl : Nat) : Tbl Line := s.coh.lines.filter fun e => lineIsl e.1 = isl

/-- No message of its home slice to its agent was sent before it and is still on its way. -/
def firstFwd (s : State) (lk : Nat) (f : Fwd) : Bool :=
  (s.linesOf (lineIsl lk)).all fun e => sliceOf (lineNo e.1) ≠ sliceOf (lineNo lk) || e.2.fwds.all fun g => g.to_ ≠ f.to_ || f.seq ≤ g.seq

/-- A place that tokens leave or reach: an agent, or 144 + a slice. -/
def place (lk : Nat) : TokDest → Nat
  | .agent a => a
  | .home => 144 + sliceOf (lineNo lk)
  | .helper sl => 144 + sl

/-- No tokens were sent before these, from the same place to the same place, and are still on their way. -/
def firstFlight (s : State) (lk : Nat) (f : Flight) : Bool :=
  (s.linesOf (lineIsl lk)).all fun e => e.2.flight.all fun g =>
    place e.1 g.src ≠ place lk f.src || place e.1 g.dest ≠ place lk f.dest || f.seq ≤ g.seq

/-- No request of its agent to its slice was sent before it and is still on its way. -/
def firstReq (s : State) (r : Req) : Bool :=
  s.coh.reqs.all fun q => q.2.isl ≠ r.isl || q.2.agent ≠ r.agent || sliceOf (lineNo q.2.line) ≠ sliceOf (lineNo r.line)
    || !(q.2.state = 0 || q.2.state = 2) || r.seq ≤ q.2.seq

/-- The slice has one of its 256 entries of ordinary requests free; a privileged agent's request has its permit (R100, R101). -/
def hasEntry (s : State) (r : Req) : Bool := 128 ≤ r.agent || s.hasSlot r.isl (sliceOf (lineNo r.line))

/-- The tag that a core or Pilot compares with the OWNTAG of a message: its current precinct's (R102). -/
def agentTag (s : State) (isl a : Nat) : Nat := (s.precinct (s.precinctOf (isl * 16 + clusterOfAgent a))).tag + 1

/-- The agent answers "not present" without looking the line up (R102). -/
def foreign (s : State) (lk a : Nat) : Bool := (s.line lk).owntag ≠ 0 && (s.line lk).owntag ≠ s.agentTag (lineIsl lk) a

end State

namespace State

/-- A read that reaches the home for the first time is counted, but for one that a helper grants (R98). -/
def countRead (s : State) (rid : Nat) (r : Req) : State :=
  if r.kind ≠ .read then s
  else
    let s1 := s.useRedirect r.line r.agent
    if r.retries ≠ 0 || (s1.helperGrant rid r).isSome then s1 else s1.countHot r.line

end State

/-- HOME_REQUEST (R89, R98): a request reaches its home, or a helper slice. -/
def execHomeRequest (rid : Nat) (s : State) : Out :=
  .next (
    match s.req rid with
    | some r => if r.state = 0 && s.firstReq r && s.hasEntry r then ((s.countRead rid r).homeServe rid).drain else s
    | none => s)

namespace State

/-- What an agent sends in answer to a message of the home: nothing where its tag differs (R102). Every forward is answered with the tokens held
(R88); while a persistent request is active they go to its requester (R92). -/
def answerFwd (s : State) (isl line holder : Nat) (k : FwdKind) : State :=
  let lk := isl * 2 ^ 41 + line
  let x := s.line lk
  match k with
  | .unredirect => s.setLine lk { x with redirects := x.redirects.filter fun e => e.1 ≠ holder }
  | .recall => if s.foreign lk holder then s else s.sendTokens isl holder line .home
  | .merge => if s.foreign lk holder then s else s.combine isl holder line
  | .downgrade => if s.foreign lk holder then s else s.keepOne isl holder line
  | .take _ b =>
    let a := (s.drawnTo lk).getD b
    if a = holder || s.foreign lk holder then s else s.sendTokens isl holder line (.agent a)

end State

/-- FORWARD (R72, R88, R89, R94, R97, R99, R100, R102): the first message of a slice to an agent, or to its network interface, is received and
answered. -/
def execForward (isl line holder : Nat) (k : FwdKind) (s : State) : Out :=
  .next (
    let lk := isl * 2 ^ 41 + line
    let x := s.line lk
    match x.fwds.find? fun f => f.to_ = holder && f.kind = k with
    | none => s
    | some f =>
      if !s.firstFwd lk f then s
      else
        let s1 := s.setLine lk { x with fwds := x.fwds.erase f }
        (((s1.answerFwd isl line holder k).probed lk holder).refreshMesi lk).settleLine lk)

namespace State

/-- The agent holds what the request asks for. -/
def satisfied (s : State) (r : Req) : Bool :=
  let c := s.cline r.isl r.agent (lineNo r.line)
  match r.kind with | .read => c.tokens ≠ 0 | .own => c.tokens = 144 | .upd _ => false

/-- Tokens reach a caching agent (R88). They join those it has; the first of a line fill the way that its request keeps for it, if its TLB still
covers the line (R53, R69), and go to the home otherwise. -/
def takeTokens (s : State) (isl a line n : Nat) (owner : Bool) : State :=
  let lk := isl * 2 ^ 41 + line
  let mine := s.coh.reqs.find? fun r => r.2.isl = isl && r.2.agent = a && r.2.line = lk
  let c := s.cline isl a line
  let back (s : State) : State := (s.fly lk (.agent a) .home n owner).refreshSharers lk
  let finish (s : State) : State := match mine with
    | some r => if s.satisfied r.2 && r.2.state ≤ 2 then s.endReq r.1 else s
    | none => s
  if c.tokens ≠ 0 then finish (s.setCline isl a line { c with tokens := c.tokens + n, owner := c.owner || owner })
  else match mine with
    | none => back s
    | some r =>
      if !s.covered isl a r.2.spn r.2.va then back (s.endReq r.1)
      else
        let fresh : CLine := { tokens := n, owner := owner, mark := fillMark r.2.hint, used := s.choices, spn := r.2.spn, va := r.2.va }
        finish ({ s with choices := s.choices + 1 }.setCline isl a line fresh)

/-- Tokens reach the home; an active persistent request, or the queue of the line, is given them (R92, R93). -/
def homeTokens (s : State) (lk n : Nat) (owner : Bool) : State :=
  let x := s.line lk
  let s1 := ((s.setLine lk { x with tokens := x.tokens + n, owner := x.owner || owner }).refreshMesi lk).settleLine lk
  match s1.winner lk with
  | some w => if unblocked (s1.line lk) then s1.homeServe w.1 else s1
  | none => s1

/-- Tokens reach a helper slice: they fill its replica, but for one that is being recalled, or an active persistent request that draws them
(R92, R98, R99). -/
def helperTokens (s : State) (lk sl n : Nat) : State :=
  let x := s.line lk
  match s.drawnTo lk with
  | some a => s.fly lk (.helper sl) (.agent a) n false
  | none =>
    if x.trans = .unrepl || !(x.replicas.any fun r => r.live && r.slice = sl) then s.fly lk (.helper sl) .home n false
    else s.setLine lk { x with replicas := x.replicas.map fun r => if r.live && r.slice = sl then { r with tokens := r.tokens + n } else r }

end State

/-- TOKEN_ARRIVAL (R88, R92, R94, R98, R100): tokens reach an agent, a home or a helper. -/
def execTokenArrival (isl line : Nat) (dest : TokDest) (n : Nat) (owner : Bool) (s : State) : Out :=
  .next (
    let lk := isl * 2 ^ 41 + line
    let x := s.line lk
    match x.flight.find? fun f => f.dest = dest && f.n = n && f.owner = owner with
    | none => s
    | some f =>
      if !s.firstFlight lk f then s
      else
        let s1 := s.setLine lk { x with flight := x.flight.erase f }
        (match dest with
          | .home => s1.homeTokens lk n owner
          | .helper sl => s1.helperTokens lk sl n
          | .agent a =>
            if x.trans = Transient.recall then (s1.fly lk (.agent a) .home n owner).refreshSharers lk
            else match s1.drawnTo lk with
              | some b =>
                if b = a then s1.takeTokens isl a line n owner
                else
                  let y := s1.line lk
                  ((s1.setLine lk { y with sharers := State.addSharer y.sharers b }).fly lk (.agent a) (.agent b) n owner).refreshSharers lk
              | none => s1.takeTokens isl a line n owner).drain)

/-- LINE_EVICTION (R53, R69, R88, R97, R99): an agent gives up a line or a partial line, or a helper slice, 144 + its number, a replica. -/
def execLineEviction (isl agent line : Nat) (s : State) : Out :=
  .next (
    let lk := isl * 2 ^ 41 + line
    if 144 ≤ agent then
      (if State.unblocked (s.line lk) && (s.line lk).replicas.any fun r => r.live && r.slice = agent - 144 then
        (s.dropReplica lk (agent - 144)).settleLine lk else s)
    else if (s.cline isl agent line).tokens = 0 && (s.coh.partials.find (cacheKey isl agent line)).isNone then s
    else ((s.evictL1 isl agent line).refreshSharers lk).settleLine lk)

/-- REQUEST_RETRY (R90): the request is sent again, or as a persistent request after the fourth time; one that is held has had a wait
notice. -/
def execRequestRetry (rid : Nat) (s : State) : Out :=
  .next (
    match s.req rid with
    | some r =>
      if 1 < r.state || s.clock < r.sent + 2048 then s
      else if (s.line r.line).held.contains (.req rid) then s.putReq rid { r with sent := s.clock }
      else
        let r1 := { r with sent := s.clock, seq := s.coh.msgs }
        let s1 := { s with coh.msgs := s.coh.msgs + 1 }
        if r.retries < 4 then s1.putReq rid { r1 with retries := r.retries + 1, state := 0 } else s1.putReq rid { r1 with state := 2 }
    | none => s)

/-- PERSISTENT_REQUEST (R92, R93): a starved request reaches its home. -/
def execPersistentRequest (rid : Nat) (s : State) : Out :=
  .next (
    match s.req rid with
    | none => s
    | some r => if r.state ≠ 2 || !s.firstReq r || (s.line r.line).held.contains (.req rid) then s else (s.homeServe rid).drain)

namespace State

/-- An access of the agent still wants the line. -/
def wanted (s : State) (r : Req) : Bool :=
  (s.coh.wbuf.any fun e => e.core = r.isl * 144 + r.agent && e.line = r.line)
    || (s.exe.crews.any fun c => r.agent < 128 && c.1 / 64 = r.isl * 128 + r.agent &&
        c.2.ops.any fun o => o.2.accs.any fun a => a.locs.any fun p => isGlobal p.1 && lineKey r.isl p.1 = r.line)
    || (128 ≤ r.agent && s.exe.threads.any fun t => t.1 / 4 = r.isl * 16 + (r.agent - 128) && t.2.state = .wait)

/-- The line passes from a queued agent to the next, which the record names; by its home where the next is of another precinct (R93, R102). -/
def passLine (s : State) (lk a : Nat) (n : Req) : State :=
  let x := s.line lk
  if n.agent = a then s
  else if n.tag ≠ x.owntag then s.sendTokens n.isl a (lineNo lk) .home
  else (s.setLine lk { x with sharers := addSharer x.sharers n.agent }).sendTokens n.isl a (lineNo lk) (.agent n.agent)

end State

/-- PERSISTENT_DEACTIVATE (R92, R93): the access has been performed; the entry frees, or the line passes to the next of the queue. -/
def execPersistentDeactivate (rid : Nat) (s : State) : Out :=
  .next (
    match s.req rid with
    | none => s
    | some r =>
      let lk := r.line
      let x := s.line lk
      let done : Bool := r.state = 5 || ((r.state = 3 || r.state = 4) && s.satisfied r && !s.wanted r)
      if !done then s
      else
        let pk := State.prtKey lk
        let s1 := { s.dropReq rid with coh.prt := s.coh.prt.put pk ((s.coh.prt.get [] pk).filter (· ≠ rid)) }
        if x.trans = .qf then
          let q := x.qf.filter fun n => n ≠ rid && (s1.req n).isSome
          let s2 := s1.setLine lk { s1.line lk with qf := q }
          match q.head?.bind s2.req with
          | some n => (s2.passLine lk r.agent n).settleLine lk
          | none => s2.settleLine lk
        else match s1.winner lk with
          | some w => ((s1.activate w.1 w.2).homeServe w.1).drain
          | none => s1)

namespace State

/-- A helper slice has a way for a replica, or is making one, or declines (R53, R98). -/
inductive HelperWay
  | way (w : Nat)
  | making
  | declined
  deriving DecidableEq, Repr

def helperWay (s : State) (lk sl : Nat) : State × HelperWay :=
  let x := s.line lk
  let others := x.making.filter fun m => m.1 ≠ sl
  match s.takeWay lk sl 0xFFFF ((x.making.find? fun m => m.1 = sl).map (·.2)) with
  | (s1, some w, _) => (s1.setLine lk { s1.line lk with making := others }, .way w)
  | (s1, none, some v) => (s1.setLine lk { s1.line lk with making := others ++ [(sl, v)] }, .making)
  | (s1, none, none) => (s1.setLine lk { s1.line lk with making := others }, .declined)

/-- The ways that some helper slices find. -/
def helperWays (lk : Nat) : List Nat → State → State × List (Nat × HelperWay)
  | [], s => (s, [])
  | sl :: r, s =>
    let a := s.helperWay lk sl
    let b := helperWays lk r a.1
    (b.1, (sl, a.2) :: b.2)

/-- Room for one more redirect entry in an agent's network interface: of 64, the least recently used is dropped. -/
def dropRedirect (s : State) (isl a : Nat) : State :=
  let mine := (s.linesOf isl).flatMap fun e => (e.2.redirects.filter fun r => r.1 = a).map fun r => (e.1, r.2)
  if mine.length < 64 then s
  else match mine.foldl (fun (b : Option (Nat × Nat)) e => match b with
      | none => some e
      | some y => if e.2 < y.2 then some e else b) none with
    | some v => s.setLine v.1 { s.line v.1 with redirects := (s.line v.1).redirects.filter fun r => r.1 ≠ a }
    | none => s

/-- Replicas are sent to helpers with ways, each with its share, and redirect entries are broadcast (R98). -/
def replicate (s : State) (lk share : Nat) (ws : List (Nat × Nat)) : State :=
  let s0 := (List.range 144).foldl (fun s a => s.dropRedirect (lineIsl lk) a) s
  let x := s0.line lk
  let s1 := { s0 with choices := s.choices + 1 }.setLine lk { x with
    tokens := x.tokens - ws.length * share
    replicas := ws.map fun (w : Nat × Nat) => { slice := w.1, way := w.2, mark := x.mark, used := s.choices }
    redirects := (List.range 144).map fun a => (a, s.choices) }
  ws.foldl (fun (s : State) (w : Nat × Nat) => s.fly lk .home (.helper w.1) share false) s1

end State

/-- HOT_LINE_REPLICATE (R98): replicas go to the helper slices that have a way, and redirect entries to every agent. The home keeps a share of
its own (DEDUCED, safe: log 25). A candidate for which a condition of R98 fails is dropped with its count (DESIGN CHOICE, safe: log 25). -/
def execHotLineReplicate (isl line : Nat) (s : State) : Out :=
  .next (
    let lk := isl * 2 ^ 41 + line
    let cooled (s : State) : State := { s with coh.hot := s.coh.hot.filter fun h => h.line ≠ lk }
    if !s.isHot lk then s
    else if !State.mayReplicate (s.line lk) then cooled (s.setLine lk { s.line lk with making := [] })
    else
      let r := State.helperWays lk ([24, 48, 72].map fun d => (sliceOf line + d) % 96) s
      if r.2.any fun w => w.2 = .making then r.1
      else
        let ws := r.2.filterMap fun w => match w.2 with | .way n => some (w.1, n) | _ => none
        let share := (r.1.line lk).tokens / (ws.length + 1)
        if ws.isEmpty || share = 0 then cooled r.1 else (cooled r.1).replicate lk share ws)

/-! Translation (R66-R73). -/

/-- WALK (R66, R71): a TLB translates an address for an access of a kind; what is valid is cached. The null guard and the regions of enabled
apertures are never translated (R18). -/
def execWalk (isl tlb : Nat) (spn : BitVec 12) (va : W64) (k : AKind) (sup : Bool) (s : State) : Out :=
  .next (
    let w : Who := { isl := isl, tlb := tlb, spn := spn.toNat, sup := sup }
    if 18 ≤ tlb || 2 ^ 52 ≤ va.toNat || va.toNat < 0x10000 || (s.apHit w va.toNat [0, 1, 2, 3, 4, 5]).isSome then s
    else (s.translate w va.toNat k).1)

namespace State

/-- An address of a context, with a length, lies on one of the pages of an invalidation. -/
def onPages (d : TackDue) (spn va n : Nat) : Bool := d.pages.any fun p => p.1 = spn && p.2.1 < va + n && va < p.2.1 + p.2.2

/-- A resolved stretch of a granule; a landing, and an arrival, that have resolved. -/
def rowOn (d : TackDue) (spn : Nat) (q : Row) : Bool :=
  (!q.src.isEmpty && onPages d spn q.sa q.n) || (!q.dst.isEmpty && onPages d spn q.da.toNat q.n)
def landOn (d : TackDue) (o : IslOp) : Bool :=
  o.isl = d.isl && tlbOfOp o = d.tlb && match o.res with
    | some (ofs, ls, _) => onPages d o.spn (o.la.toNat + ofs) ((ls.map (·.2)).sum)
    | none => false
def arrOn (d : TackDue) (a : Arr) : Bool :=
  d.tlb = 16 && a.isl = d.isl && a.res.isSome && onPages d a.desc.spn.toNat (a.desc.ta.toNat + (arrRange a).1) (arrRange a).2

/-- An access of a crew lies on a page of an invalidation of its TLB. -/
def crewOn (s : State) (d : TackDue) (ck : Nat) (a : Acc) : Bool :=
  d.tlb < 16 && ck / 64 / 8 = d.isl * 16 + d.tlb &&
    a.locs.any fun p => onPages d (s.spnOfGang (s.gangAt (ck / 64 * 16 + (s.crewAt ck).gang))) p.2.2 p.2.1

end State

/-- TINV (R69, R73, R100): the first of a slice to a TLB is received; entries whose walk read the line leave the TLB and its walk cache, with the
cache lines of their pages, as does what a walk in flight has read of it; the accesses parked on them are released, and those that have not been sent
from their cores are translated again (R74, R77). -/
def execTinv (isl tlb line : Nat) (s : State) : Out :=
  .next (
    let lk := isl * 2 ^ 41 + line
    let slice (k : Nat) : Nat := sliceOf (lineNo k)
    if (s.trn.tinvs.find? fun t => t.1 = isl && t.2.1 = tlb && slice t.2.2 = slice lk) ≠ some (isl, tlb, lk) then s
    else
      let hit (e : TlbE) : Bool := e.isl = isl && e.tlb = tlb && e.lines.contains lk
      let gone := s.trn.tlb.filter hit
      let d : TackDue := { isl := isl, tlb := tlb, line := lk, pages := (gone ++ s.trn.evicted.filter hit).map fun e => (e.spn, e.page, e.size) }
      let s1 := { s with trn.tinvs := s.trn.tinvs.erase (isl, tlb, lk)
                         trn.replies := s.trn.replies.filter fun r => !(r.1 = isl && r.2.1 = tlb && lineKey isl (locPA isl r.2.2.1) = lk)
                         trn.wcache := s.trn.wcache.filter fun e => !(e.isl = isl && e.tlb = tlb && e.lines.contains lk) }
      let s2 := gone.foldl (fun (s : State) (e : TlbE) => s.dropEntry e) s1
      let s3 := { s2 with trn.evicted := s2.trn.evicted.filter fun e => !hit e, trn.tacks := s2.trn.tacks ++ [d] }
      s3.reparkBy fun ck id o a => s3.crewOn d ck a && s3.atCore ck id o a)

namespace State

/-- Storage in a line whose translations are being invalidated. -/
def inTx (s : State) (isl : Nat) (ls : List (Nat × Nat)) : Bool := (linesOfPieces isl 0 ls).any fun lk => (s.line lk).tx

/-- Accesses on the pages of an invalidation that wait for a line in TX are translated again: they would wait for an acknowledgement which waits
for them (R74, R77; DEDUCED, safe: log 131). -/
def unstick (s : State) (d : TackDue) : State :=
  let s1 := s.reparkBy fun ck _ o a => s.crewOn d ck a && !a.parked && s.inTx d.isl (a.locs.map fun p => (p.1, p.2.1)) &&
    match o.kind with | .ld _ | .st _ | .red _ _ | .atom _ _ | .pref _ => true | .mma | .ald | .ldf | .adrn _ => false
  { s1 with
    eng.tenders := s1.eng.tenders.map fun (t : Nat × List TReq) =>
      if d.tlb < 16 && t.1 / 8 = d.isl * 16 + d.tlb then (t.1, t.2.map fun r => { r with granules := r.granules.map fun g =>
        { g with todo := g.todo.map fun q => if q.ready && rowOn d r.spn q && s.inTx d.isl (q.src ++ q.dst) then { q with ready := false } else q } })
      else t
    eng.ops := s1.eng.ops.map fun (o : Nat × IslOp) =>
      (o.1, match o.2.res with
        | some (_, ls, _) => if landOn d o.2 && s.inTx d.isl ls then { o.2 with res := none } else o.2
        | none => o.2)
    eng.arrivals := s1.eng.arrivals.map fun (a : Nat × Arr) =>
      (a.1, match a.2.res with
        | some (ls, _) => if arrOn d a.2 && s.inTx d.isl ls then { a.2 with res := none } else a.2
        | none => a.2) }

/-- No access that used a removed entry is still under way (R73): stores on their way, accesses of operations, granules, arrivals and landings whose
storage is known. Writes that an invalidation holds are at their home and are not waited for (R77). -/
def drained (s : State) (d : TackDue) : Bool :=
  let agents := (tlbAgents d.tlb).map (d.isl * 144 + ·)
  !(s.coh.wbuf.any fun e => agents.contains e.core && !(s.line e.line).tx && e.vas.any fun va => onPages d e.spn va 1)
    && !(s.exe.crews.any fun c => c.2.ops.any fun o => o.2.accs.any fun a => s.crewOn d c.1 a)
    && !(s.eng.tenders.any fun t => d.tlb < 16 && t.1 / 8 = d.isl * 16 + d.tlb && t.2.any fun r => r.granules.any fun g =>
      g.todo.any fun q => q.ready && rowOn d r.spn q)
    && !(s.eng.ops.any fun o => landOn d o.2)
    && !(s.eng.arrivals.any fun a => arrOn d a.2)

end State

/-- A line that a fill has chosen as its victim leaves the L2 once its translation sharers are gone (R53, R72). -/
def State.leaveL2 (s : State) (lk : Nat) : State :=
  if !s.claimed lk lk then s
  else match s.gatherEvict lk with
    | (s1, true) => s1.dropL2 lk
    | (s1, false) => s1

/-- TACK (R72-R74): a TLB's acknowledgement reaches the home; with the last one the queue of the line is served, the held write first, or the line
leaves the L2 whose victim it is. -/
def execTack (isl tlb line : Nat) (s0 : State) : Out :=
  .next (
    let lk := isl * 2 ^ 41 + line
    match s0.trn.tacks.find? fun d => d.isl = isl && d.tlb = tlb && d.line = lk with
    | none => s0
    | some d =>
      let s := s0.unstick d
      if !s.drained d then s
      else
        let x := s.line lk
        let s1 := { s with trn.tacks := s.trn.tacks.erase d }
        if 1 < x.tacksDue then s1.setLine lk { x with tacksDue := x.tacksDue - 1 }
        else ((s1.setLine lk { x with tacksDue := 0, tx := false, trSharers := 0 }).leaveL2 lk |>.serveHeld lk).drain)

end Sys2Proof.Machine
end

