-- ==== Sys2Proof/Machine/Cxl.lean ====
section
/-! DEFINITION. The CXL bridge: host requests for island memory, back-invalidation, host-coherent lines (R72, R76, R103-R106, R113). -/

namespace Sys2Proof.Machine

open Sys2Proof

namespace State

/-- A host request arrives: an unpopulated site is answered with poison and logged, a write as well as a read (DESIGN CHOICE, unsafe: log 122);
one that meets a back-invalidation waits in the bridge; another is performed, or waits in the queue of its line. -/
def hostArrives (s : State) (i : Instr) (off : Nat) : State :=
  if !s.populated (off / 2 ^ 39) then
    { s with mgt.mod := { s.mgt.mod with m2sLog := s.mgt.mod.m2sLog ++ [off], m2sData := s.mgt.mod.m2sData ++ [(off, .poison)] } }
  else if s.backInvalidated (hdmLine off) (hdmHalf off) then s.meetsBi i (hdmLine off) (hdmHalf off)
  else (s.hostServe i).drain

end State

/-- HOST_MEMRD (MemRd, MemRdData). -/
def execHostMemrd (off : Nat) (snp : Snp) (s : State) : Out := .next (s.hostArrives (.hostMemrd off snp) off)
/-- HOST_MEMWR (MemWr, MemWrPtl). -/
def execHostMemwr (off : Nat) (mv : HS) (mask : W64) (data : List Byte) (s : State) : Out :=
  .next (s.hostArrives (.hostMemwr off mv mask data) off)
/-- HOST_MEMINV. -/
def execHostMeminv (off : Nat) (mv : HS) (s : State) : Out := .next (s.hostArrives (.hostMeminv off mv) off)
/-- HOST_MEMSPECRD: accepted and ignored. -/
def execHostMemspecrd (_off : Nat) (s : State) : Out := .next s
/-- HOST_M2S_UNSUPPORTED: the host receives the error completion, which is logged. -/
def execHostM2sUnsupported (opcode : Nat) (s : State) : Out :=
  .next { s with mgt.mod := { s.mgt.mod with m2sLog := s.mgt.mod.m2sLog ++ [opcode],
                                             m2sData := s.mgt.mod.m2sData ++ [(opcode, .unsupported)] } }

/-! Back-invalidation (R104, R105). -/

namespace State

/-- A back-invalidation of a half is complete: what the bridge held for the half goes on, in order of arrival. -/
def releaseBridge (s : State) (lk h : Nat) : State :=
  let is := s.bridgeFor lk h
  let s1 := { s with coh.bridge := s.coh.bridge.filter fun i => !is.contains i
                     coh.heldM2S := s.coh.heldM2S.filter fun m => !(m.1 = lk && m.2.1 = h) }
  is.foldl (fun (s : State) i => s.holdFor lk (.host i)) s1

end State

/-- BISNP_RESPONSE: the host answers for a half, in the order half 0, half 1, with its data when it held it in A; not while a conflict handshake for
the half is under way. -/
def execBisnpResponse (isl line half : Nat) (data : Option (List Byte)) (s : State) : Out :=
  .next (
    let lk := isl * 2 ^ 41 + line
    let x := s.line lk
    match x.bisnp with
    | (h, inv) :: rest =>
      if x.trans ≠ Transient.biw || x.tx || h ≠ half || s.coh.heldM2S.contains (lk, h, false) then s
      else
        let s1 := match data with
          | some d => if State.halfOf x h = HS.A then { s with mem := Memory.writeBytes s.mem (lineLoc lk + 64 * h) (d.take 64) } else s
          | none => s
        (((s1.setLine lk { x with bisnp := rest }).setHalf lk h (if inv then .I else .S)).releaseBridge lk h).settleLine lk
    | [] => s)

/-- BI_CONFLICT (R105): the host request that a back-invalidation has met completes first, with the recall it needs; newer ones are held until the
back-invalidation completes. -/
def execBiConflict (isl line half : Nat) (s : State) : Out :=
  .next (
    let lk := isl * 2 ^ 41 + line
    let agreed (s : State) : State := { s with coh.heldM2S := s.coh.heldM2S.map fun m => if m = (lk, half, false) then (lk, half, true) else m }
    if !s.coh.heldM2S.contains (lk, half, false) then s
    else match s.bridgeFor lk half with
    | [] => agreed s
    | i :: _ =>
      match s.hostDo i true with
      | (s1, true) => agreed { s1 with coh.bridge := s1.coh.bridge.erase i }
      | (s1, false) => s1)

/-! Host-coherent lines (R106), and writes of uncached host pages (R113). -/

/-- HOST_SNOOP: the whole island line is downgraded to S, or given up. -/
def execHostSnoop (isl line half : Nat) (inv : Bool) (s : State) : Out := .next ((s.hostServe (.hostSnoop isl line half inv)).drain)

/-- CXL_CACHE_RESPONSE: a half of a host line comes to the island that asked for it, and the line takes the weaker of the two states; or, without
data, the oldest WOWrInv for the half is complete. -/
def execCxlCacheResponse (lk half : Nat) (own : Bool) (data : List Byte) (s : State) : Out :=
  .next (
    let x := s.line lk
    match (if data.isEmpty then none else x.hostOwn.find? fun h => h.1 = half) with
    | none =>
      (match (if data.isEmpty then s.coh.wow.find? fun w => w.half = (lineLoc lk - 2 ^ 48) / 64 + half && w.core / 144 = lineIsl lk else none) with
        | some w => { s with coh.wow := s.coh.wow.erase w }
        | none => s)
    | some h =>
      let rest := x.hostOwn.erase h
      let got := own && h.2 && x.owned.getD true
      let s1 := { s with mem := Memory.writeBytes s.mem (lineLoc lk + 64 * half) (data.take 64) }
      (s1.setLine lk { x with hostOwn := rest, owned := some got }).settleLine lk)

end Sys2Proof.Machine
end

