-- ==== Sys2Proof/Machine/Scalar.lean ====
section
/-! DEFINITION. The scalar class (R241-R246). -/

namespace Sys2Proof.Machine

open Sys2Proof

/-- SADD: sum, wrapped or clamped. -/
def execSadd (x : RI) (s : State) : Out := .next (scalar32 x s fun a b _ => addT x.ty x.sat a b)

/-- SSUB: difference, wrapped or clamped. -/
def execSsub (x : RI) (s : State) : Out := .next (scalar32 x s fun a b _ => subT x.ty x.sat a b)

/-- SMUL: low half of the product. -/
def execSmul (x : RI) (s : State) : Out := .next (scalar32 x s fun a b _ => mulT x.ty a b)

/-- SMULH: high half of the 64-bit product. -/
def execSmulh (x : RI) (s : State) : Out := .next (scalar32 x s fun a b _ => mulhT x.ty a b)

/-- SMAD: product plus addend, wrapped or clamped. -/
def execSmad (x : RI) (s : State) : Out := .next (scalar32 x s fun a b c => madT x.ty x.sat a b c)

/-- SDIV: quotient toward zero; all ones for a zero divisor. -/
def execSdiv (x : RI) (s : State) : Out := .next (scalar32 x s fun a b _ => divT x.ty a b)

/-- SREM: remainder with the dividend's sign; the dividend for a zero divisor. -/
def execSrem (x : RI) (s : State) : Out := .next (scalar32 x s fun a b _ => remT x.ty a b)

/-- SAND. -/
def execSand (x : RI) (s : State) : Out := .next (scalar32 x s fun a b _ => a &&& b)

/-- SOR. -/
def execSor (x : RI) (s : State) : Out := .next (scalar32 x s fun a b _ => a ||| b)

/-- SXOR. -/
def execSxor (x : RI) (s : State) : Out := .next (scalar32 x s fun a b _ => a ^^^ b)

/-- SANDN: a and not b. -/
def execSandn (x : RI) (s : State) : Out := .next (scalar32 x s fun a b _ => a &&& ~~~b)

/-- SSHL: zero from 32 on. -/
def execSshl (x : RI) (s : State) : Out := .next (scalar32 x s fun a b _ => shlW a b)

/-- SSHR: zero fill, zero from 32 on. -/
def execSshr (x : RI) (s : State) : Out := .next (scalar32 x s fun a b _ => shrW a b)

/-- SSAR: sign fill, all sign from 32 on. -/
def execSsar (x : RI) (s : State) : Out := .next (scalar32 x s fun a b _ => sarW a b)

/-- SROT: rotate left by b mod 32. -/
def execSrot (x : RI) (s : State) : Out := .next (scalar32 x s fun a b _ => rotW a b)

/-- SMIN in its type. -/
def execSmin (x : RI) (s : State) : Out := .next (scalar32 x s fun a b _ => minT x.ty a b)

/-- SMAX in its type. -/
def execSmax (x : RI) (s : State) : Out := .next (scalar32 x s fun a b _ => maxT x.ty a b)

/-- SPOPC of one register or a pair. -/
def execSpopc (x : RI) (s : State) : Out := .next (uniform x s fun w s => s.wrS x.d (BitVec.ofNat 32 (if x.ty.regs = 2 then popc (s.u64 w x.lit x.a) else popc (s.u32 w x.lit x.a))))

/-- SCLZ of one register or a pair. -/
def execSclz (x : RI) (s : State) : Out := .next (uniform x s fun w s => s.wrS x.d (BitVec.ofNat 32 (if x.ty.regs = 2 then clz (s.u64 w x.lit x.a) else clz (s.u32 w x.lit x.a))))

/-- SBFE: the field of a that the descriptor b names (R245). -/
def execSbfe (x : RI) (s : State) : Out := .next (scalar32 x s fun a b _ => bfeT x.ty a b)

/-- SBFI: b placed in a at the field that c names (R245). -/
def execSbfi (x : RI) (s : State) : Out := .next (scalar32 x s fun a b c => bfiW a b c)

/-- SADD64 (R246). -/
def execSadd64 (x : RI) (s : State) : Out := .next (scalar64 x s fun w s => s.u64 w x.lit x.a + s.u64 w x.lit x.b)

/-- SSUB64 (R246). -/
def execSsub64 (x : RI) (s : State) : Out := .next (scalar64 x s fun w s => s.u64 w x.lit x.a - s.u64 w x.lit x.b)

/-- SLEA: base plus the scaled index (R246). -/
def execSlea (x : RI) (s : State) : Out := .next (scalar64 x s fun w s => leaT x.ty x.subN (s.u64 w x.lit x.a) (s.u32 w x.lit x.b))

/-- SSEL: a where the predicate is true, else b. -/
def execSsel (x : RI) (s : State) : Out :=
  .next (uniform x s fun w s =>
    let c := match x.c with | .p k => s.rdQ k.toNat | _ => true
    if x.ty.regs = 2 then s.wrS64 x.d (if c then s.u64 w x.lit x.a else s.u64 w x.lit x.b)
    else s.wrS x.d (if c then s.u32 w x.lit x.a else s.u32 w x.lit x.b))

/-- SCMP: the condition of a and b in the type. -/
def execScmp (x : RI) (s : State) : Out :=
  .next (uniform x s fun w s =>
    s.wrQ x.d (if x.ty.regs = 2 then condInt x.cond (valOf x.ty (s.u64 w x.lit x.a)) (valOf x.ty (s.u64 w x.lit x.b))
               else condInt x.cond (valOf x.ty (s.u32 w x.lit x.a)) (valOf x.ty (s.u32 w x.lit x.b))))

/-- SMOV of one register or a pair. -/
def execSmov (x : RI) (s : State) : Out :=
  .next (uniform x s fun w s =>
    if x.ty.regs = 2 then s.wrS64 x.d (s.u64 w x.lit x.a) else s.wrS x.d (s.u32 w x.lit x.a))

/-- SLI: the immediate, sign-extended to 64 bits under `.d`. -/
def execSli (x : II) (s : State) : Out :=
  .next ((if s.qguard x.guard then
      if x.sub = 1 then s.wrS64 x.d (x.imm.signExtend 64) else s.wrS x.d x.imm
    else s).advance 1)

end Sys2Proof.Machine
end

