-- ==== Sys2Proof/Machine/VectorInt.lean ====
section
/-! DEFINITION. The vector integer class (R262, R263, R265, R266). -/

namespace Sys2Proof.Machine

open Sys2Proof

/-- A bitwise instruction on one register or a pair. -/
def bitwise (x : RI) (s : State) (f : W32 → W32 → W32) (g : W64 → W64 → W64) : State :=
  if x.ty.regs = 2 then vector64 x s fun w s L => g (s.v64 w x.lit x.a L) (s.v64 w x.lit x.b L)
  else vector32 x s fun a b _ => f a b

/-- A count of bits of one register or a pair. -/
def vcount (x : RI) (s : State) (f : W32 → Nat) (g : W64 → Nat) : State :=
  perLane x s fun w m s => s.wrV (vnum x.d) m fun L =>
    BitVec.ofNat 32 (if x.ty.regs = 2 then g (s.v64 w x.lit x.a L) else f (s.v32 w x.lit x.a L))

/-- VADD: sum, wrapped or clamped. -/
def execVadd (x : RI) (s : State) : Out := .next (vector32 x s fun a b _ => addT x.ty x.sat a b)

/-- VSUB: difference, wrapped or clamped. -/
def execVsub (x : RI) (s : State) : Out := .next (vector32 x s fun a b _ => subT x.ty x.sat a b)

/-- VMUL: low half of the product. -/
def execVmul (x : RI) (s : State) : Out := .next (vector32 x s fun a b _ => mulT x.ty a b)

/-- VMULH: high half of the product. -/
def execVmulh (x : RI) (s : State) : Out := .next (vector32 x s fun a b _ => mulhT x.ty a b)

/-- VMIN in its type. -/
def execVmin (x : RI) (s : State) : Out := .next (vector32 x s fun a b _ => minT x.ty a b)

/-- VMAX in its type. -/
def execVmax (x : RI) (s : State) : Out := .next (vector32 x s fun a b _ => maxT x.ty a b)

/-- VSHL: zero from 32 on. -/
def execVshl (x : RI) (s : State) : Out := .next (vector32 x s fun a b _ => shlW a b)

/-- VSHR: zero fill. -/
def execVshr (x : RI) (s : State) : Out := .next (vector32 x s fun a b _ => shrW a b)

/-- VSAR: sign fill. -/
def execVsar (x : RI) (s : State) : Out := .next (vector32 x s fun a b _ => sarW a b)

/-- VROT: rotate left by b mod 32. -/
def execVrot (x : RI) (s : State) : Out := .next (vector32 x s fun a b _ => rotW a b)

/-- VBFE: the field of a that b names (R245). -/
def execVbfe (x : RI) (s : State) : Out := .next (vector32 x s fun a b _ => bfeT x.ty a b)

/-- VMAD: product plus addend, wrapped or clamped. -/
def execVmad (x : RI) (s : State) : Out := .next (vector32 x s fun a b c => madT x.ty x.sat a b c)

/-- VBFI: b placed in a at the field that c names (R245). -/
def execVbfi (x : RI) (s : State) : Out := .next (vector32 x s fun a b c => bfiW a b c)

/-- VABS: magnitude modulo 2^32. -/
def execVabs (x : RI) (s : State) : Out := .next (vector32 x s fun a _ _ => BitVec.ofInt 32 a.toInt.natAbs)

/-- VABSD: magnitude of the difference. -/
def execVabsd (x : RI) (s : State) : Out := .next (vector32 x s fun a b _ => BitVec.ofInt 32 (valOf x.ty a - valOf x.ty b).natAbs)

/-- VAND of one register or a pair. -/
def execVand (x : RI) (s : State) : Out := .next (bitwise x s (fun a b => a &&& b) (fun a b => a &&& b))

/-- VOR of one register or a pair. -/
def execVor (x : RI) (s : State) : Out := .next (bitwise x s (fun a b => a ||| b) (fun a b => a ||| b))

/-- VXOR of one register or a pair. -/
def execVxor (x : RI) (s : State) : Out := .next (bitwise x s (fun a b => a ^^^ b) (fun a b => a ^^^ b))

/-- VANDN: a and not b of one register or a pair. -/
def execVandn (x : RI) (s : State) : Out := .next (bitwise x s (fun a b => a &&& ~~~b) (fun a b => a &&& ~~~b))

/-- VPOPC of one register or a pair. -/
def execVpopc (x : RI) (s : State) : Out := .next (vcount x s popc popc)

/-- VCLZ of one register or a pair. -/
def execVclz (x : RI) (s : State) : Out := .next (vcount x s clz clz)

/-- VSEL: a where the lane's predicate is true, else b. -/
def execVsel (x : RI) (s : State) : Out :=
  .next (
    let c (s : State) (L : Nat) : Bool := match x.c with | .p k => s.rdP k.toNat L | _ => true
    if x.ty.regs = 2 then
      vector64 x s fun w s L => if c s L then s.v64 w x.lit x.a L else s.v64 w x.lit x.b L
    else perLane x s fun w m s => s.wrV (vnum x.d) m fun L => if c s L then s.v32 w x.lit x.a L else s.v32 w x.lit x.b L)

/-- VCMP: the condition of a and b in the type, into the lane's predicate. -/
def execVcmp (x : RI) (s : State) : Out :=
  .next (perLane x s fun w m s => s.wrP x.d m fun L =>
    if x.ty.regs = 2 then condInt x.cond (valOf x.ty (s.v64 w x.lit x.a L)) (valOf x.ty (s.v64 w x.lit x.b L))
    else condInt x.cond (valOf x.ty (s.v32 w x.lit x.a L)) (valOf x.ty (s.v32 w x.lit x.b L)))

/-- VMOV of one register or a pair. -/
def execVmov (x : RI) (s : State) : Out :=
  .next (if x.ty.regs = 2 then vector64 x s fun w s L => s.v64 w x.lit x.a L else vector32 x s fun a _ _ => a)

/-- VLI: the immediate in every active lane, sign-extended to 64 bits under `.d`. -/
def execVli (x : II) (s : State) : Out :=
  .next ((if x.sub = 1 then s.wrV64 (vnum x.d) (s.act x.guard) fun _ => x.imm.signExtend 64
          else s.wrV (vnum x.d) (s.act x.guard) fun _ => x.imm).advance 1)

/-- The sum of four byte products and an addend (R266). -/
def dot4 (t : Ty) (sat mix : Bool) (a b c : W32) : W32 :=
  let sa := t = .s8
  let sb := sa != mix
  let byte (sg : Bool) (v : W32) (k : Nat) : Int :=
    let e := v.extractLsb' (8 * k) 8
    if sg then e.toInt else e.toNat
  let rt := if sa || sb then Ty.s32 else Ty.n32
  narrow32 rt sat (valOf rt c + ((List.range 4).map fun k => byte sa a k * byte sb b k).sum)

/-- VDOT4. -/
def execVdot4 (x : RI) (s : State) : Out :=
  .next (vector32 x s fun a b c => dot4 x.ty x.sat (x.sub.getLsbD 1) a b c)

/-- VADD64. -/
def execVadd64 (x : RI) (s : State) : Out :=
  .next (vector64 x s fun w s L => s.v64 w x.lit x.a L + s.v64 w x.lit x.b L)

/-- VLEA: base plus the scaled index. -/
def execVlea (x : RI) (s : State) : Out :=
  .next (vector64 x s fun w s L => leaT x.ty x.subN (s.v64 w x.lit x.a L) (s.v32 w x.lit x.b L))

end Sys2Proof.Machine
end

