-- ==== Sys2Proof/Machine/Dispatch.lean ====
section
/-! DEFINITION. The meaning of every step, one arm each. -/

namespace Sys2Proof.Machine

open Sys2Proof

def exec (i : Instr) (s : State) : Host.Outcome State Fault Refusal :=
  match i with
  | .sadd x => Sys2Proof.Machine.execSadd x s
  | .ssub x => Sys2Proof.Machine.execSsub x s
  | .smul x => Sys2Proof.Machine.execSmul x s
  | .smulh x => Sys2Proof.Machine.execSmulh x s
  | .smad x => Sys2Proof.Machine.execSmad x s
  | .sdiv x => Sys2Proof.Machine.execSdiv x s
  | .srem x => Sys2Proof.Machine.execSrem x s
  | .sand x => Sys2Proof.Machine.execSand x s
  | .sor x => Sys2Proof.Machine.execSor x s
  | .sxor x => Sys2Proof.Machine.execSxor x s
  | .sandn x => Sys2Proof.Machine.execSandn x s
  | .sshl x => Sys2Proof.Machine.execSshl x s
  | .sshr x => Sys2Proof.Machine.execSshr x s
  | .ssar x => Sys2Proof.Machine.execSsar x s
  | .srot x => Sys2Proof.Machine.execSrot x s
  | .smin x => Sys2Proof.Machine.execSmin x s
  | .smax x => Sys2Proof.Machine.execSmax x s
  | .ssel x => Sys2Proof.Machine.execSsel x s
  | .scmp x => Sys2Proof.Machine.execScmp x s
  | .smov x => Sys2Proof.Machine.execSmov x s
  | .sli x => Sys2Proof.Machine.execSli x s
  | .spopc x => Sys2Proof.Machine.execSpopc x s
  | .sclz x => Sys2Proof.Machine.execSclz x s
  | .sbfe x => Sys2Proof.Machine.execSbfe x s
  | .sbfi x => Sys2Proof.Machine.execSbfi x s
  | .sadd64 x => Sys2Proof.Machine.execSadd64 x s
  | .ssub64 x => Sys2Proof.Machine.execSsub64 x s
  | .slea x => Sys2Proof.Machine.execSlea x s
  | .bra x => Sys2Proof.Machine.execBra x s
  | .brx x => Sys2Proof.Machine.execBrx x s
  | .bri x => Sys2Proof.Machine.execBri x s
  | .join x => Sys2Proof.Machine.execJoin x s
  | .call x => Sys2Proof.Machine.execCall x s
  | .ret x => Sys2Proof.Machine.execRet x s
  | .exit x => Sys2Proof.Machine.execExit x s
  | .yield x => Sys2Proof.Machine.execYield x s
  | .nop x => Sys2Proof.Machine.execNop x s
  | .brw x => Sys2Proof.Machine.execBrw x s
  | .wbind x => Sys2Proof.Machine.execWbind x s
  | .wset x => Sys2Proof.Machine.execWset x s
  | .wget x => Sys2Proof.Machine.execWget x s
  | .vadd x => Sys2Proof.Machine.execVadd x s
  | .vsub x => Sys2Proof.Machine.execVsub x s
  | .vmul x => Sys2Proof.Machine.execVmul x s
  | .vmulh x => Sys2Proof.Machine.execVmulh x s
  | .vmad x => Sys2Proof.Machine.execVmad x s
  | .vmin x => Sys2Proof.Machine.execVmin x s
  | .vmax x => Sys2Proof.Machine.execVmax x s
  | .vabs x => Sys2Proof.Machine.execVabs x s
  | .vabsd x => Sys2Proof.Machine.execVabsd x s
  | .vand x => Sys2Proof.Machine.execVand x s
  | .vor x => Sys2Proof.Machine.execVor x s
  | .vxor x => Sys2Proof.Machine.execVxor x s
  | .vandn x => Sys2Proof.Machine.execVandn x s
  | .vshl x => Sys2Proof.Machine.execVshl x s
  | .vshr x => Sys2Proof.Machine.execVshr x s
  | .vsar x => Sys2Proof.Machine.execVsar x s
  | .vrot x => Sys2Proof.Machine.execVrot x s
  | .vpopc x => Sys2Proof.Machine.execVpopc x s
  | .vclz x => Sys2Proof.Machine.execVclz x s
  | .vbfe x => Sys2Proof.Machine.execVbfe x s
  | .vbfi x => Sys2Proof.Machine.execVbfi x s
  | .vsel x => Sys2Proof.Machine.execVsel x s
  | .vcmp x => Sys2Proof.Machine.execVcmp x s
  | .vmov x => Sys2Proof.Machine.execVmov x s
  | .vli x => Sys2Proof.Machine.execVli x s
  | .vdot4 x => Sys2Proof.Machine.execVdot4 x s
  | .vadd64 x => Sys2Proof.Machine.execVadd64 x s
  | .vlea x => Sys2Proof.Machine.execVlea x s
  | .fadd x => Sys2Proof.Machine.execFadd x s
  | .fsub x => Sys2Proof.Machine.execFsub x s
  | .fmul x => Sys2Proof.Machine.execFmul x s
  | .ffma x => Sys2Proof.Machine.execFfma x s
  | .fmin x => Sys2Proof.Machine.execFmin x s
  | .fmax x => Sys2Proof.Machine.execFmax x s
  | .fcmp x => Sys2Proof.Machine.execFcmp x s
  | .frcp x => Sys2Proof.Machine.execFrcp x s
  | .frsq x => Sys2Proof.Machine.execFrsq x s
  | .fsqrt x => Sys2Proof.Machine.execFsqrt x s
  | .fexp2 x => Sys2Proof.Machine.execFexp2 x s
  | .flog2 x => Sys2Proof.Machine.execFlog2 x s
  | .fsin x => Sys2Proof.Machine.execFsin x s
  | .fcos x => Sys2Proof.Machine.execFcos x s
  | .ftanh x => Sys2Proof.Machine.execFtanh x s
  | .frnd x => Sys2Proof.Machine.execFrnd x s
  | .fclass x => Sys2Proof.Machine.execFclass x s
  | .fscale x => Sys2Proof.Machine.execFscale x s
  | .cvt x => Sys2Proof.Machine.execCvt x s
  | .cvtb x => Sys2Proof.Machine.execCvtb x s
  | .pack x => Sys2Proof.Machine.execPack x s
  | .unpk x => Sys2Proof.Machine.execUnpk x s
  | .fdot2 x => Sys2Proof.Machine.execFdot2 x s
  | .shfl x => Sys2Proof.Machine.execShfl x s
  | .qswz x => Sys2Proof.Machine.execQswz x s
  | .vote x => Sys2Proof.Machine.execVote x s
  | .matchEq x => Sys2Proof.Machine.execMatchEq x s
  | .elect x => Sys2Proof.Machine.execElect x s
  | .redx x => Sys2Proof.Machine.execRedx x s
  | .scanx x => Sys2Proof.Machine.execScanx x s
  | .help x => Sys2Proof.Machine.execHelp x s
  | .mask x => Sys2Proof.Machine.execMask x s
  | .bara x => Sys2Proof.Machine.execBara x s
  | .barw x => Sys2Proof.Machine.execBarw x s
  | .bars x => Sys2Proof.Machine.execBars x s
  | .bard x => Sys2Proof.Machine.execBard x s
  | .barj x => Sys2Proof.Machine.execBarj x s
  | .bart x => Sys2Proof.Machine.execBart x s
  | .ld x => Sys2Proof.Machine.execLd x s
  | .st x => Sys2Proof.Machine.execSt x s
  | .ldf x => Sys2Proof.Machine.execLdf x s
  | .atomArith x => Sys2Proof.Machine.execAtomArith x s
  | .atomBitwise x => Sys2Proof.Machine.execAtomBitwise x s
  | .redArith x => Sys2Proof.Machine.execRedArith x s
  | .redBitwise x => Sys2Proof.Machine.execRedBitwise x s
  | .pref x => Sys2Proof.Machine.execPref x s
  | .cctl x => Sys2Proof.Machine.execCctl x s
  | .fence x => Sys2Proof.Machine.execFence x s
  | .twin x => Sys2Proof.Machine.execTwin x s
  | .setc x => Sys2Proof.Machine.execSetc x s
  | .waitc x => Sys2Proof.Machine.execWaitc x s
  | .testc x => Sys2Proof.Machine.execTestc x s
  | .put x => Sys2Proof.Machine.execPut x s
  | .puts x => Sys2Proof.Machine.execPuts x s
  | .get x => Sys2Proof.Machine.execGet x s
  | .radd x => Sys2Proof.Machine.execRadd x s
  | .notify x => Sys2Proof.Machine.execNotify x s
  | .waitn x => Sys2Proof.Machine.execWaitn x s
  | .testn x => Sys2Proof.Machine.execTestn x s
  | .rfence x => Sys2Proof.Machine.execRfence x s
  | .mma x => Sys2Proof.Machine.execMma x s
  | .aclr x => Sys2Proof.Machine.execAclr x s
  | .ald x => Sys2Proof.Machine.execAld x s
  | .adrn x => Sys2Proof.Machine.execAdrn x s
  | .setfb x => Sys2Proof.Machine.execSetfb x s
  | .kick x => Sys2Proof.Machine.execKick x s
  | .trap x => Sys2Proof.Machine.execTrap x s
  | .rett x => Sys2Proof.Machine.execRett x s
  | .sysrd x => Sys2Proof.Machine.execSysrd x s
  | .syswr x => Sys2Proof.Machine.execSyswr x s
  | .bkpt x => Sys2Proof.Machine.execBkpt x s
  | .poolpop x => Sys2Proof.Machine.execPoolpop x s
  | .poolpush x => Sys2Proof.Machine.execPoolpush x s
  | .evpop x => Sys2Proof.Machine.execEvpop x s
  | .evwait x => Sys2Proof.Machine.execEvwait x s
  | .tlaunch x => Sys2Proof.Machine.execTlaunch x s
  | .halt x => Sys2Proof.Machine.execHalt x s
  | .idle x => Sys2Proof.Machine.execIdle x s
  | .clauseHeader h => Sys2Proof.Machine.execClauseHeader h s
  | .handlerEntry core entry => Sys2Proof.Machine.execHandlerEntry core entry s
  | .fragmentWake a => Sys2Proof.Machine.execFragmentWake a s
  | .longLatencyComplete crew op => Sys2Proof.Machine.execLongLatencyComplete crew op s
  | .gangFree gang => Sys2Proof.Machine.execGangFree gang s
  | .launch q => Sys2Proof.Machine.execLaunch q s
  | .wait q => Sys2Proof.Machine.execWait q s
  | .notifyCommand q => Sys2Proof.Machine.execNotifyCommand q s
  | .copy q => Sys2Proof.Machine.execCopy q s
  | .mark q => Sys2Proof.Machine.execMark q s
  | .queueDoorbell q v => Sys2Proof.Machine.execQueueDoorbell q v s
  | .queueControlWrite q v => Sys2Proof.Machine.execQueueControlWrite q v s
  | .queueBaseWrite q v => Sys2Proof.Machine.execQueueBaseWrite q v s
  | .taskEnterWindow isl => Sys2Proof.Machine.execTaskEnterWindow isl s
  | .taskReady isl task => Sys2Proof.Machine.execTaskReady isl task s
  | .gangPlace isl task => Sys2Proof.Machine.execGangPlace isl task s
  | .precinctHalt p => Sys2Proof.Machine.execPrecinctHalt p s
  | .haltComplete p => Sys2Proof.Machine.execHaltComplete p s
  | .resume p => Sys2Proof.Machine.execResume p s
  | .exchange p => Sys2Proof.Machine.execExchange p s
  | .exchangeComplete p => Sys2Proof.Machine.execExchangeComplete p s
  | .abort p tag => Sys2Proof.Machine.execAbort p tag s
  | .abortComplete p tag => Sys2Proof.Machine.execAbortComplete p tag s
  | .release p core slot => Sys2Proof.Machine.execRelease p core slot s
  | .wake p cl threads => Sys2Proof.Machine.execWake p cl threads s
  | .armbpClear p => Sys2Proof.Machine.execArmbpClear p s
  | .debugHalt isl => Sys2Proof.Machine.execDebugHalt isl s
  | .debugHaltClear isl => Sys2Proof.Machine.execDebugHaltClear isl s
  | .precinctCreate p v => Sys2Proof.Machine.execPrecinctCreate p v s
  | .precinctFree p => Sys2Proof.Machine.execPrecinctFree p s
  | .poolDoorbell p => Sys2Proof.Machine.execPoolDoorbell p s
  | .pfpoolWrite p v => Sys2Proof.Machine.execPfpoolWrite p v s
  | .contextCreate p => Sys2Proof.Machine.execContextCreate p s
  | .contextUpdate p => Sys2Proof.Machine.execContextUpdate p s
  | .contextDestroy p spn => Sys2Proof.Machine.execContextDestroy p spn s
  | .hostPageOwnerChange v => Sys2Proof.Machine.execHostPageOwnerChange v s
  | .pwrcapWrite v => Sys2Proof.Machine.execPwrcapWrite v s
  | .steerWrite isl port v => Sys2Proof.Machine.execSteerWrite isl port v s
  | .chartWrite isl e v => Sys2Proof.Machine.execChartWrite isl e v s
  | .peerEntryWrite isl off v => Sys2Proof.Machine.execPeerEntryWrite isl off v s
  | .colourFaultClear isl colour => Sys2Proof.Machine.execColourFaultClear isl colour s
  | .counterClear core k => Sys2Proof.Machine.execCounterClear core k s
  | .registerWrite off v => Sys2Proof.Machine.execRegisterWrite off v s
  | .moduleReset plan => Sys2Proof.Machine.execModuleReset plan s
  | .bootAttemptFailed reason plan => Sys2Proof.Machine.execBootAttemptFailed reason plan s
  | .thermalLimit isl deg => Sys2Proof.Machine.execThermalLimit isl deg s
  | .powerShareAdjust isl draw => Sys2Proof.Machine.execPowerShareAdjust isl draw s
  | .getCertificate off len => Sys2Proof.Machine.execGetCertificate off len s
  | .challenge nonce => Sys2Proof.Machine.execChallenge nonce s
  | .getMeasurements index => Sys2Proof.Machine.execGetMeasurements index s
  | .walk isl tlb spn va k sup => Sys2Proof.Machine.execWalk isl tlb spn va k sup s
  | .tinv isl tlb line => Sys2Proof.Machine.execTinv isl tlb line s
  | .tack isl tlb line => Sys2Proof.Machine.execTack isl tlb line s
  | .homeRequest req => Sys2Proof.Machine.execHomeRequest req s
  | .forward isl line holder k => Sys2Proof.Machine.execForward isl line holder k s
  | .tokenArrival isl line dest n owner => Sys2Proof.Machine.execTokenArrival isl line dest n owner s
  | .lineEviction isl agent line => Sys2Proof.Machine.execLineEviction isl agent line s
  | .requestRetry req => Sys2Proof.Machine.execRequestRetry req s
  | .persistentRequest req => Sys2Proof.Machine.execPersistentRequest req s
  | .persistentDeactivate req => Sys2Proof.Machine.execPersistentDeactivate req s
  | .hotLineReplicate isl line => Sys2Proof.Machine.execHotLineReplicate isl line s
  | .hostMemrd off snp => Sys2Proof.Machine.execHostMemrd off snp s
  | .hostMemwr off mv mask data => Sys2Proof.Machine.execHostMemwr off mv mask data s
  | .hostMeminv off mv => Sys2Proof.Machine.execHostMeminv off mv s
  | .hostMemspecrd off => Sys2Proof.Machine.execHostMemspecrd off s
  | .hostM2sUnsupported opcode => Sys2Proof.Machine.execHostM2sUnsupported opcode s
  | .bisnpResponse isl line half data => Sys2Proof.Machine.execBisnpResponse isl line half data s
  | .biConflict isl line half => Sys2Proof.Machine.execBiConflict isl line half s
  | .hostSnoop isl line half inv => Sys2Proof.Machine.execHostSnoop isl line half inv s
  | .cxlCacheResponse lk half own data => Sys2Proof.Machine.execCxlCacheResponse lk half own data s
  | .tenderRequestStart core => Sys2Proof.Machine.execTenderRequestStart core s
  | .tenderGranuleDone core req k => Sys2Proof.Machine.execTenderGranuleDone core req k s
  | .peqPost cl => Sys2Proof.Machine.execPeqPost cl s
  | .islandOpLocalComplete op => Sys2Proof.Machine.execIslandOpLocalComplete op s
  | .islandOpArrival isl n => Sys2Proof.Machine.execIslandOpArrival isl n s
  | .heldArrivalPlace isl n => Sys2Proof.Machine.execHeldArrivalPlace isl n s
  | .positiveAcknowledgement op => Sys2Proof.Machine.execPositiveAcknowledgement op s
  | .negativeAcknowledgement op cause => Sys2Proof.Machine.execNegativeAcknowledgement op cause s
  | .getReply op ofs data last => Sys2Proof.Machine.execGetReply op ofs data last s
  | .flitReceive isl port f => Sys2Proof.Machine.execFlitReceive isl port f s
  | .repeatRequest isl port seq => Sys2Proof.Machine.execRepeatRequest isl port seq s
  | .linkAcknowledgement isl port seq => Sys2Proof.Machine.execLinkAcknowledgement isl port seq s
  | .resendTimeout isl port seq => Sys2Proof.Machine.execResendTimeout isl port seq s
  | .linkDown isl port => Sys2Proof.Machine.execLinkDown isl port s
  | .linkUp isl port => Sys2Proof.Machine.execLinkUp isl port s
  | .operationTimeout isl n => Sys2Proof.Machine.execOperationTimeout isl n s
  | .creditReturn isl dst cls => Sys2Proof.Machine.execCreditReturn isl dst cls s
  | .steerWindow isl => Sys2Proof.Machine.execSteerWindow isl s
  | .quadratureAlarm isl colour phase => Sys2Proof.Machine.execQuadratureAlarm isl colour phase s
  | .colourRecover isl colour => Sys2Proof.Machine.execColourRecover isl colour s
  | .circuitRetry isl task => Sys2Proof.Machine.execCircuitRetry isl task s
  | .uePacketReceive isl ep p => Sys2Proof.Machine.execUePacketReceive isl ep p s
  | .uePacketAbandon op => Sys2Proof.Machine.execUePacketAbandon op s
  | .steeringMessage isl port m => Sys2Proof.Machine.execSteeringMessage isl port m s
  | .getVersion => Sys2Proof.Machine.execGetVersion s
  | .getCapabilities => Sys2Proof.Machine.execGetCapabilities s
  | .negotiateAlgorithms => Sys2Proof.Machine.execNegotiateAlgorithms s
  | .getDigests => Sys2Proof.Machine.execGetDigests s

end Sys2Proof.Machine
end

