-- ==== Sys2Proof/Machine/Place.lean ====
section
/-! DEFINITION. An instruction placed where the next step fetches it (DESIGN CHOICE, safe: log 10). -/

namespace Sys2Proof.Machine

open Sys2Proof

/-- The virtual and physical address of the page that holds the clause that `placeWord` builds, on island 0. -/
def placeAt : Nat := 0x10000

/-- A 64 KiB page at `placeAt`: readable, writable, executable, accessed and dirty, of tag 1. -/
def placePte : W64 := 0x1131D

/-- The word stands in header position, at the clause's first word, or after a header. -/
def placeIsHeader (w : Nat) : Bool := w / 2 ^ 56 % 256 = 0xFF

/-- Where the clause begins: at the page's first word, or, for a header alone, at the last word of a line, so that what follows it is on no
line that its own fetch has put into the instruction cache. -/
def placePc (w : Nat) : Nat := if placeIsHeader w then placeAt + 0x78 else placeAt

/-- The bytes of the clause: the header word alone, or a header and the instruction with its literal. -/
def placeBytes (w : Nat) : List Byte :=
  let i := w % 2 ^ 128
  if placeIsHeader w then byteList 16 i
  else byteList 8 ((0xFF00_00FF_0000_0000 : Nat) + if w / 2 ^ 15 % 2 = 1 then 2 ^ 33 else 0) ++ byteList 16 i

/-- The header that stands before the instruction: no flags, one word, or two when the word has LIT = 1. -/
def placeHdr (w : Nat) : Header := ⟨0, 15, 15, if w / 2 ^ 15 % 2 = 1 then 1 else 0, false, false⟩

namespace State

/-- A program of one instruction placed and selected: a precinct with tag 1 and a context of SPN 1 on island 0, the page
of the clause in the TLB, and a crew of 32 lanes (or a Pilot thread, for a word only a Pilot executes) that stands at the
instruction and issues next. RETT, POOLPOP and POOLPUSH stand in a handler. -/
def placeWord (s : State) (nbits w : Nat) : State :=
  let w := w % 2 ^ max nbits 64
  let op := w / 2 ^ 56 % 256
  let sup := op = 0xE1 || op = 0xE5 || op = 0xE6
  let ctl : Ctl := { pc := BitVec.ofNat 52 (placePc w), cpos := if placeIsHeader w then 0 else 1, sup := sup, hdr := placeHdr w }
  let who := if pilotOnly op then Agent.pilot 0 0 else Agent.frag 0 0
  let pte : TlbE := { isl := 0, tlb := 0, spn := 1, precinct := 0, page := placeAt, size := 65536, pte := placePte, addr := 0,
                      level := 4, lines := [] }
  let task : Task := { isl := 0, id := 1, tag := 1, spn := 1, precinct := 0, sup := false, prio := 0, origin := none,
                       pilot := none, record := List.replicate 56 0 ++ [0x10] ++ List.replicate 71 0, kdesc := [], deps := [],
                       circ := [], order := 0, state := .placed }
  { s with
    turn := some who
    inbox := []
    mem := Memory.writeBytes s.mem (locPA 0 (placePc w)) (placeBytes w)
    coh := { s.coh with icache := [] }
    trn := { s.trn with tlb := [pte], ctxs := s.trn.ctxs.put 1 { s.ctx 0 1 with live := true, precinct := 0, aps := [] } }
    mgt := { s.mgt with precincts := s.mgt.precincts.put 0 { s.precinct 0 with valid := true, tag := 1, state := .running }
                        tasks := s.mgt.tasks.put 0 task }
    exe := { s.exe with
      crews := s.exe.crews.put 0 { used := true, live := 0xFFFFFFFF, granules := 32,
                                   handling := if sup then some 0x101 else none }
      joins := if sup then s.exe.joins.put 1 { used := true, gen := 1, pend := 1 } else s.exe.joins
      gangs := s.exe.gangs.put 0 { used := true, lanes := 32, crews := [0], tiles := 64 }
      frags := s.exe.frags.put 0 { mask := 0xFFFFFFFF, state := if sup then .handling else .ready, ctl := ctl, run := 1,
                                   token := if sup then 0x101 else 0 }
      threads := if pilotOnly op then s.exe.threads.put 0 { state := .running, ctl := ctl, spn := 1 } else s.exe.threads } }

end State

end Sys2Proof.Machine
end

