-- ==== Sys2Proof/Machine/Sched.lean ====
section
/-! DEFINITION. What the next step may be: an agent's instruction, an event of the machine, an event from outside (DESIGN CHOICE, safe: log 5). -/

namespace Sys2Proof.Machine

open Sys2Proof

/-- What a step does. -/
inductive Turn
  | agent (a : Agent)
  | event (i : Instr)
  | outside (i : Instr)
  | idle
  deriving DecidableEq, Repr

namespace State

/-! The events of the machine that may come about now. One whose condition does not hold when it comes changes nothing. -/

/-- Fragments, threads, operations and gangs. -/
def eventsExec (s : State) : List Instr :=
  (s.exe.frags.filterMap fun f =>
      if f.2.state = .moored then some (.handlerEntry (f.1 / 320) (f.1 % 320))
      else if f.2.state = .waiting || f.2.window.isSome then some (.fragmentWake (.frag (f.1 / 320) (f.1 % 320))) else none)
    ++ (s.exe.threads.filterMap fun t => match t.2.state with
      | .wait | .evwait _ _ _ => some (.fragmentWake (.pilot (t.1 / 4) (t.1 % 4)))
      | _ => none)
    ++ (s.exe.crews.flatMap fun c => c.2.ops.map fun o => .longLatencyComplete c.1 o.1)
    ++ (s.exe.gangs.filterMap fun g => if g.2.used && g.2.left = g.2.lanes then some (.gangFree g.1) else none)

/-- Queues, tasks and precincts. -/
def eventsTask (s : State) : List Instr :=
  ((s.mgt.queues.filter fun q => !q.2.started.isEmpty || s.queueLive q.1).flatMap fun q =>
      [.launch q.1, .wait q.1, .notifyCommand q.1, .copy q.1, .mark q.1])
    ++ (s.mgt.tasks.map fun t => match t.2.state with
      | .entering => .taskEnterWindow t.2.isl
      | .held => .taskReady t.2.isl t.1
      | _ => .gangPlace t.2.isl t.1)
    ++ (s.eng.fab.circuits.filterMap fun c => if c.granted then none else some (.circuitRetry c.isl c.task))
    ++ (s.mgt.precincts.flatMap fun p =>
      (match p.2.state with
        | .halting => [.haltComplete p.1]
        | .exchanging => [.exchangeComplete p.1]
        | _ => [])
      ++ p.2.aborts.map (fun t => .abortComplete p.1 t)
      ++ (if !p.2.ctxbusy then []
          else match p.2.ctxcmd with
            | 1 => [.contextCreate p.1] | 2 => [.contextUpdate p.1] | _ => [.contextDestroy p.1 (BitVec.ofNat 12 p.2.ctxspn)]))
    ++ if s.mgt.mod.hpoBusy then [.hostPageOwnerChange 0] else []

/-- Translation, coherence and the host's lines. -/
def eventsCoh (s : State) : List Instr :=
  (s.trn.tinvs.map fun t => .tinv t.1 t.2.1 (t.2.2 % 2 ^ 41))
    ++ (s.trn.tacks.map fun t => .tack t.isl t.tlb (t.line % 2 ^ 41))
    ++ (s.coh.reqs.flatMap fun r => match r.2.state with
      | 0 => [.homeRequest r.1, .requestRetry r.1] | 1 => [.requestRetry r.1] | 2 => [.persistentRequest r.1] | _ => [.persistentDeactivate r.1])
    ++ (s.coh.lines.flatMap fun l =>
      (l.2.fwds.map fun f => .forward (lineIsl l.1) (lineNo l.1) f.to_ f.kind)
      ++ (l.2.flight.map fun t => .tokenArrival (lineIsl l.1) (lineNo l.1) t.dest t.n t.owner)
      ++ if s.isHot l.1 then [.hotLineReplicate (lineIsl l.1) (lineNo l.1)] else [])
    ++ s.coh.heldM2S.filterMap fun m => if m.2.2 then none else some (.biConflict (lineIsl m.1) (lineNo m.1) m.2.1)

/-- Tenders, Pilot queues and island operations. -/
def eventsEng (s : State) : List Instr :=
  (s.eng.tenders.flatMap fun t =>
      .tenderRequestStart t.1 :: t.2.flatMap fun r => r.flight.map fun k => .tenderGranuleDone t.1 r.id k)
    ++ ((((s.eng.peqDue.map fun d => d.1) ++ s.eng.tenders.map fun (t : Nat × List TReq) => t.1 / 8).eraseDups.filter s.peqWaits).map fun c => .peqPost c)
    ++ (s.eng.ops.map fun o => .islandOpLocalComplete o.1)
    ++ (s.eng.arrivals.map fun a => if a.2.held then .heldArrivalPlace a.2.isl a.1 else .islandOpArrival a.2.isl a.1)
    ++ ((s.eng.acks ++ s.eng.hmacks).map fun a => match a.reply, a.cause with
      | some (ofs, d, l), _ => .getReply a.op ofs d l
      | none, some c => .negativeAcknowledgement a.op c
      | none, none => .positiveAcknowledgement a.op)
    ++ (s.eng.progs.map fun p => .operationTimeout (p.1 / 2 ^ 40) (p.1 % 2 ^ 40))
    ++ s.eng.ops.filterMap fun o => if s.abandoned o.2 then some (.uePacketAbandon o.1) else none

/-- A port's link and its far end. -/
def eventsPort (s : State) (k : Nat) (x : Port) : List Instr :=
  let i := k / 4
  let p := k % 4
  (match s.neighbour i p with
    | none => []
    | some j => ((pumpGo x.queue.length x s.clock).wire.map fun f => .flitReceive j (opposite p) f)
        ++ x.steer.map fun m => .steeringMessage j (opposite p) m)
    ++ (x.repeats.map fun n => .repeatRequest i p n)
    ++ (x.acks.map fun n => .linkAcknowledgement i p n)
    ++ (x.unacked.filterMap fun u => if u.at_ + 4000 ≤ s.clock then some (.resendTimeout i p u.flit.seq.toNat) else none)
    ++ (if s.linkFailing i p then [.linkDown i p] else [])
    ++ if x.link = 1 || x.link = 3 then [.linkUp i p] else []

/-- The panel fabric. -/
def eventsFab (s : State) : List Instr :=
  (s.eng.fab.ports.flatMap fun x => s.eventsPort x.1 x.2)
    ++ (s.eng.fab.returns.filterMap fun r => if r.2 = 0 then none else some (.creditReturn (r.1 / 40) (r.1 / 2 % 20) (r.1 % 2)))
    ++ (s.eng.fab.colours.filterMap fun c => if c.2.cleared.isSome then some (.colourRecover (c.1 / 256) (c.1 % 256)) else none)
    ++ if s.mgt.mod.mode = 1 then
        ((List.range 20).filter fun i => s.populated i && s.eng.fab.windows.get 0 i + 20000 ≤ s.clock).map fun i => .steerWindow i
      else []

/-- Events of the machine itself that may happen now. -/
def enabled (s : State) : List Instr := s.eventsExec ++ s.eventsTask ++ s.eventsCoh ++ s.eventsEng ++ s.eventsFab

/-- The next step: the named agent's instruction, or a free choice among all that may happen (DESIGN CHOICE, safe: log 5). -/
def pick (s : State) : Turn :=
  match s.turn with
  | some a => .agent a
  | none =>
    let ts := s.readyAgents.map Turn.agent ++ s.enabled.map Turn.event ++ (s.inbox.take 1).map Turn.outside
    ts.getD (Config.freeChoice s.choices % ts.length) .idle

/-- Time and the free choice move on (DESIGN CHOICE, safe: log 6). -/
def tick (s : State) : State := { s with clock := s.clock + 1 + Config.freeClocks s.clock, choices := s.choices + 1 }

/-- The state in which an agent's turn comes. -/
def forAgent (s : State) (a : Agent) : State := { s with cur := a, turn := none }.tick

end State

end Sys2Proof.Machine
end

