-- ==== Sys2Proof/Machine/Step.lean ====
section
/-! DEFINITION. One step of the machine. -/

namespace Sys2Proof.Machine

open Sys2Proof

/-- An agent's turn: the next word is fetched and checked, and executed unless the agent was moored or waits. -/
def runAgent (s : State) : Host.Outcome State Fault Refusal :=
  match s.issue with
  | (s1, none) => .next s1
  | (s1, some i) => exec i s1

/-- One step: an agent's instruction, an event, or nothing. -/
def step (s : State) : Host.Outcome State Fault Refusal :=
  match s.pick with
  | .agent a => runAgent (s.forAgent a)
  | .event i => exec i s.tick
  | .outside i => exec i { s with inbox := s.inbox.drop 1 }.tick
  | .idle => .next s.tick

/-- The state with an instruction placed where the next step fetches it (DESIGN CHOICE, safe: log 10). -/
def State.withFetchWord (s : State) (nbits w : Nat) : State := s.placeWord nbits w

end Sys2Proof.Machine
end

