-- ==== Sys2Proof/Safety.lean ====
section
/-! DEFINITION. What counts as a safe run: the invariants that statements assume and conclude. -/

namespace Sys2Proof.Machine

open Sys2Proof

/-- Memory is in canonical form. -/
def State.MemOk (s : State) : Prop := Memory.wf s.mem = true

end Sys2Proof.Machine
end

