-- ==== Sys2Proof/Certificates/Slice0/Obligations.lean ====
section
/-! DEFINITION. The statements about the machine, from the numbered rules of the spec. -/

/-! Shared words of the statements. -/

namespace Sys2Proof.Claims

open Sys2Proof Sys2Proof.Machine

/-- An instruction completes with a state that has a property. -/
abbrev Ends (i : Instr) (s : State) (P : State → Prop) : Prop := ∃ t, exec i s = .next t ∧ P t

/-- An instruction completes and leaves exactly this state. -/
abbrev Gives (i : Instr) (s t : State) : Prop := exec i s = .next t

/-- A type of the scalar and vector integer classes (R243, R265). -/
abbrev IntTy (x : RI) : Prop := x.ty = .s32 ∨ x.ty = .n32 ∨ x.ty = .b32

/-- A 32-bit value as a number of the instruction's type: two's complement under `.s32`, else unsigned. -/
def num (x : RI) (v : W32) : Int := if x.ty = .s32 then v.toInt else v.toNat

/-- An exact result in 32 bits: clamped to the type's range under `.sat`, else wrapped (R236). -/
def fit (x : RI) (r : Int) : W32 :=
  if x.sat then
    (if x.ty = .s32 then BitVec.ofInt 32 (max (-2147483648) (min 2147483647 r)) else BitVec.ofInt 32 (max 0 (min 4294967295 r)))
  else BitVec.ofInt 32 r

/-- The field that a descriptor names: its low bit, and its length cut at the top of the register (R245). -/
def lowBit (d : W32) : Nat := (d.extractLsb' 0 5).toNat
def length (d : W32) : Nat := min (d.extractLsb' 8 6).toNat (32 - lowBit d)

/-- A field moved down to bit 0, sign- or zero-extended. -/
def extracted (x : RI) (a d : W32) : W32 :=
  let up := a <<< (32 - lowBit d - length d)
  if length d = 0 then 0
  else if x.ty = .s32 then up.sshiftRight (32 - length d) else up >>> (32 - length d)

/-- A value with a field replaced. -/
def inserted (a b d : W32) : W32 :=
  let m : W32 := (BitVec.allOnes 32 >>> (32 - length d)) <<< lowBit d
  (a &&& ~~~m) ||| ((b <<< lowBit d) &&& m)

/-- An integer condition by its code (R238). -/
def holds (c : Nat) (a b : Int) : Bool :=
  match c with
  | 0 => a == b
  | 1 => a != b
  | 2 => decide (a < b)
  | 3 => decide (a ≤ b)
  | 4 => decide (a > b)
  | _ => decide (a ≥ b)

/-- What the two-operand and three-operand integer operations compute (R244, R245), by name. -/
def addOf (x : RI) (a b _c : W32) : W32 := fit x (num x a + num x b)
def subOf (x : RI) (a b _c : W32) : W32 := fit x (num x a - num x b)
def madOf (x : RI) (a b c : W32) : W32 := fit x (num x a * num x b + num x c)
def mulOf (_x : RI) (a b _c : W32) : W32 := a * b
def mulhOf (x : RI) (a b _c : W32) : W32 := BitVec.ofInt 32 ((num x a * num x b).shiftRight 32)
def divOf (x : RI) (a b _c : W32) : W32 := if b = 0 then BitVec.allOnes 32 else if x.ty = .s32 then a.sdiv b else a / b
def remOf (x : RI) (a b _c : W32) : W32 := if b = 0 then a else if x.ty = .s32 then a.srem b else a % b
def andOf (_x : RI) (a b _c : W32) : W32 := a &&& b
def orOf (_x : RI) (a b _c : W32) : W32 := a ||| b
def xorOf (_x : RI) (a b _c : W32) : W32 := a ^^^ b
def andnOf (_x : RI) (a b _c : W32) : W32 := a &&& ~~~b
def shlOf (_x : RI) (a b _c : W32) : W32 := a <<< b
def shrOf (_x : RI) (a b _c : W32) : W32 := a >>> b
def sarOf (_x : RI) (a b _c : W32) : W32 := a.sshiftRight' b
def rotOf (_x : RI) (a b _c : W32) : W32 := (a <<< (b % 32)) ||| (a >>> (32 - b % 32))
def minOf (x : RI) (a b _c : W32) : W32 := if num x a ≤ num x b then a else b
def maxOf (x : RI) (a b _c : W32) : W32 := if num x a ≥ num x b then a else b
def bfeOf (x : RI) (a b _c : W32) : W32 := extracted x a b
def bfiOf (_x : RI) (a b c : W32) : W32 := inserted a b c
def absOf (_x : RI) (a _b _c : W32) : W32 := if a.toInt < 0 then 0 - a else a
def absdOf (x : RI) (a b _c : W32) : W32 := if num x a ≥ num x b then a - b else b - a

/-- The scalar instructions on 32-bit registers with what they compute. -/
def scalarOps : List ((RI → Instr) × (RI → W32 → W32 → W32 → W32)) :=
  [(.sadd, addOf), (.ssub, subOf), (.smul, mulOf), (.smulh, mulhOf), (.smad, madOf), (.sdiv, divOf), (.srem, remOf)]
  ++ [(.sand, andOf), (.sor, orOf), (.sxor, xorOf), (.sandn, andnOf), (.sshl, shlOf), (.sshr, shrOf), (.ssar, sarOf)]
  ++ [(.srot, rotOf), (.smin, minOf), (.smax, maxOf), (.sbfe, bfeOf), (.sbfi, bfiOf)]

/-- The vector instructions on 32-bit registers with what they compute in a lane. -/
def vectorOps : List ((RI → Instr) × (RI → W32 → W32 → W32 → W32)) :=
  [(.vadd, addOf), (.vsub, subOf), (.vmul, mulOf), (.vmulh, mulhOf), (.vmad, madOf), (.vmin, minOf), (.vmax, maxOf)]
  ++ [(.vshl, shlOf), (.vshr, shrOf), (.vsar, sarOf), (.vrot, rotOf), (.vbfe, bfeOf), (.vbfi, bfiOf)]

/-- The bitwise vector instructions, on one register or a pair (R265). -/
def bitwiseOps : List ((RI → Instr) × ((n : Nat) → BitVec n → BitVec n → BitVec n)) :=
  [(.vand, fun _ a b => a &&& b), (.vor, fun _ a b => a ||| b), (.vxor, fun _ a b => a ^^^ b), (.vandn, fun _ a b => a &&& ~~~b)]

/-- The number of 1 bits, counted one by one. -/
def ones {n : Nat} (v : BitVec n) : Nat := (List.range n).foldl (fun k i => k + (v.getLsbD i).toNat) 0

/-- A number of leading zeros: every bit above is 0, and the next bit down, if any, is 1. -/
def IsClz {n : Nat} (v : BitVec n) (k : Nat) : Prop :=
  k ≤ n ∧ (∀ i, n - k ≤ i → i < n → v.getLsbD i = false) ∧ (k < n → v.getLsbD (n - 1 - k) = true)

end Sys2Proof.Claims

open Sys2Proof Sys2Proof.Machine Sys2Proof.Claims

/-- R241 to R245: a scalar instruction of 32-bit operands whose guard is true writes its result and goes on; walkers are read
once, whatever the guard. `r` is the walker value and the state after that read. -/
def Sys2Proof.Claims.ScalarResults : Prop :=
  ∀ p ∈ scalarOps, ∀ (x : RI) (s : State), IntTy x →
    let r := s.walk [x.a, x.b, x.c]
    r.2.qguard x.guard = true →
    Gives (p.1 x) s ((r.2.wrS x.d (p.2 x (r.2.u32 r.1 x.lit x.a) (r.2.u32 r.1 x.lit x.b) (r.2.u32 r.1 x.lit x.c))).advance (RI.len x))

/-- R243, R244, R246, R238: the scalar instructions with a pair, a predicate or a count. -/
def Sys2Proof.Claims.ScalarPairResults : Prop :=
  ∀ (x : RI) (s : State),
    let r := s.walk [x.a, x.b, x.c]
    let a := r.2.u32 r.1 x.lit x.a
    let b := r.2.u32 r.1 x.lit x.b
    let aa := r.2.u64 r.1 x.lit x.a
    let bb := r.2.u64 r.1 x.lit x.b
    let go (t : State) : State := t.advance (RI.len x)
    r.2.qguard x.guard = true →
    Gives (.sadd64 x) s (go (r.2.wrS64 x.d (aa + bb)))
    ∧ Gives (.ssub64 x) s (go (r.2.wrS64 x.d (aa - bb)))
    ∧ (x.ty = .s32 → Gives (.slea x) s (go (r.2.wrS64 x.d (aa + (b.signExtend 64 <<< x.subN)))))
    ∧ (x.ty = .n32 → Gives (.slea x) s (go (r.2.wrS64 x.d (aa + (b.setWidth 64 <<< x.subN)))))
    ∧ (x.ty = .b32 → Gives (.smov x) s (go (r.2.wrS x.d a)))
    ∧ (x.ty = .b64 → Gives (.smov x) s (go (r.2.wrS64 x.d aa)))
    ∧ (∀ k, x.c = .p k → x.ty = .b32 → Gives (.ssel x) s (go (r.2.wrS x.d (if r.2.rdQ k.toNat then a else b))))
    ∧ (∀ k, x.c = .p k → x.ty = .b64 → Gives (.ssel x) s (go (r.2.wrS64 x.d (if r.2.rdQ k.toNat then aa else bb))))
    ∧ (x.ty = .s32 ∨ x.ty = .n32 → x.cond ≤ 5 → Gives (.scmp x) s (go (r.2.wrQ x.d (holds x.cond (num x a) (num x b)))))
    ∧ (x.ty = .s64 → x.cond ≤ 5 → Gives (.scmp x) s (go (r.2.wrQ x.d (holds x.cond aa.toInt bb.toInt))))
    ∧ (x.ty = .n64 → x.cond ≤ 5 → Gives (.scmp x) s (go (r.2.wrQ x.d (holds x.cond aa.toNat bb.toNat))))
    ∧ (x.ty = .b32 → Gives (.spopc x) s (go (r.2.wrS x.d (BitVec.ofNat 32 (ones a)))))
    ∧ (x.ty = .b64 → Gives (.spopc x) s (go (r.2.wrS x.d (BitVec.ofNat 32 (ones aa)))))
    ∧ (x.ty = .b32 → ∃ k, IsClz a k ∧ Gives (.sclz x) s (go (r.2.wrS x.d (BitVec.ofNat 32 k))))
    ∧ (x.ty = .b64 → ∃ k, IsClz aa k ∧ Gives (.sclz x) s (go (r.2.wrS x.d (BitVec.ofNat 32 k))))

/-- R243, R265: SLI and VLI write the immediate, sign-extended to a pair under `.d`. -/
def Sys2Proof.Claims.ImmediateResults : Prop :=
  ∀ (x : II) (s : State),
    (s.qguard x.guard = true → x.sub = 0 → Gives (.sli x) s ((s.wrS x.d x.imm).advance 1))
    ∧ (s.qguard x.guard = true → x.sub = 1 → Gives (.sli x) s ((s.wrS64 x.d (x.imm.signExtend 64)).advance 1))
    ∧ (x.sub = 0 → Gives (.vli x) s ((s.wrV (vnum x.d) (s.act x.guard) fun _ => x.imm).advance 1))
    ∧ (x.sub = 1 → Gives (.vli x) s ((s.wrV64 (vnum x.d) (s.act x.guard) fun _ => x.imm.signExtend 64).advance 1))

/-- R262, R265, R266: a vector integer instruction on 32-bit registers computes its result in every active lane. -/
def Sys2Proof.Claims.VectorResults : Prop :=
  ∀ (x : RI) (s : State), IntTy x →
    let r := s.walk [x.a, x.b, x.c]
    let in_ (o : Opnd) (L : Nat) : W32 := r.2.v32 r.1 x.lit o L
    let out (f : Nat → W32) : State := (r.2.wrV (vnum x.d) (r.2.act x.guard) f).advance (RI.len x)
    (∀ p ∈ vectorOps, Gives (p.1 x) s (out fun L => p.2 x (in_ x.a L) (in_ x.b L) (in_ x.c L)))
    ∧ (x.ty = .s32 → Gives (.vabs x) s (out fun L => absOf x (in_ x.a L) 0 0))
    ∧ Gives (.vabsd x) s (out fun L => absdOf x (in_ x.a L) (in_ x.b L) 0)
    ∧ Gives (.vmov x) s (out fun L => in_ x.a L)
    ∧ (∀ p ∈ bitwiseOps, Gives (p.1 x) s (out fun L => p.2 32 (in_ x.a L) (in_ x.b L)))
    ∧ Gives (.vpopc x) s (out fun L => BitVec.ofNat 32 (ones (in_ x.a L)))
    ∧ (∃ k : Nat → Nat, (∀ L, IsClz (in_ x.a L) (k L)) ∧ Gives (.vclz x) s (out fun L => BitVec.ofNat 32 (k L)))
    ∧ (∀ k, x.c = .p k → Gives (.vsel x) s (out fun L => if r.2.rdP k.toNat L then in_ x.a L else in_ x.b L))
    ∧ (x.cond ≤ 5 → Gives (.vcmp x) s ((r.2.wrP x.d (r.2.act x.guard) fun L =>
        holds x.cond (num x (in_ x.a L)) (num x (in_ x.b L))).advance (RI.len x)))

/-- R265, R266: the vector instructions on pairs, and the dot product of four bytes. -/
def Sys2Proof.Claims.VectorPairResults : Prop :=
  ∀ (x : RI) (s : State),
    let r := s.walk [x.a, x.b, x.c]
    let in_ (o : Opnd) (L : Nat) : W32 := r.2.v32 r.1 x.lit o L
    let inn (o : Opnd) (L : Nat) : W64 := r.2.v64 r.1 x.lit o L
    let out (f : Nat → W32) : State := (r.2.wrV (vnum x.d) (r.2.act x.guard) f).advance (RI.len x)
    let outt (f : Nat → W64) : State := (r.2.wrV64 (vnum x.d) (r.2.act x.guard) f).advance (RI.len x)
    Gives (.vadd64 x) s (outt fun L => inn x.a L + inn x.b L)
    ∧ (x.ty = .s32 → Gives (.vlea x) s (outt fun L => inn x.a L + ((in_ x.b L).signExtend 64 <<< x.subN)))
    ∧ (x.ty = .n32 → Gives (.vlea x) s (outt fun L => inn x.a L + ((in_ x.b L).setWidth 64 <<< x.subN)))
    ∧ (x.ty = .b64 → Gives (.vmov x) s (outt fun L => inn x.a L)
        ∧ (∀ p ∈ bitwiseOps, Gives (p.1 x) s (outt fun L => p.2 64 (inn x.a L) (inn x.b L)))
        ∧ Gives (.vpopc x) s (out fun L => BitVec.ofNat 32 (ones (inn x.a L)))
        ∧ (∀ k, x.c = .p k → Gives (.vsel x) s (outt fun L => if r.2.rdP k.toNat L then inn x.a L else inn x.b L)))
    ∧ (x.ty = .n8 → x.sat = false → Gives (.vdot4 x) s (out fun L =>
        let byte (o : Opnd) (k : Nat) : BitVec 8 := (in_ o L).extractLsb' (8 * k) 8
        let sb (k : Nat) : Int := if x.sub.getLsbD 1 then (byte x.b k).toInt else (byte x.b k).toNat
        BitVec.ofInt 32 ((in_ x.c L).toInt + (byte x.a 0).toNat * sb 0 + (byte x.a 1).toNat * sb 1
          + (byte x.a 2).toNat * sb 2 + (byte x.a 3).toNat * sb 3)))
    ∧ (x.ty = .s8 → x.sat = true → x.sub.getLsbD 1 = false → Gives (.vdot4 x) s (out fun L =>
        let byte (o : Opnd) (k : Nat) : BitVec 8 := (in_ o L).extractLsb' (8 * k) 8
        BitVec.ofInt 32 (max (-2147483648) (min 2147483647 ((in_ x.c L).toInt + (byte x.a 0).toInt * (byte x.b 0).toInt
          + (byte x.a 1).toInt * (byte x.b 1).toInt + (byte x.a 2).toInt * (byte x.b 2).toInt
          + (byte x.a 3).toInt * (byte x.b 3).toInt)))))

/-! Registers, walkers and the way on. -/

namespace Sys2Proof.Claims

open Sys2Proof Sys2Proof.Machine

/-- The position of a walker in its block: the index of dimension 0 plus COUNT0 times that of dimension 1, and so on. -/
def place : List WDim → Nat
  | [] => 0
  | d :: ds => d.idx.toNat + d.count.toNat * place ds

/-- The number of elements of the block that the first dimensions span. -/
def span (ds : List WDim) : Nat := (ds.map fun d => d.count.toNat).foldl (· * ·) 1

/-- The walker's dimensions, all four. -/
def dims4 (w : Walker) : List WDim := [w.d0, w.d1, w.d2, w.d3]

/-- The registers and position of the agent of `s`, as they stand in `t`. -/
def uniIn (s t : State) : Uni := if s.pilot then (t.exe.threads.get {} s.tkey).uni else (t.crewAt s.ckey).uni
def ctlIn (s t : State) : Ctl := if s.pilot then (t.exe.threads.get {} s.tkey).ctl else (t.fragAt s.fkey).ctl

end Sys2Proof.Claims

/-- R209: a walker read supplies BASE plus the indices times the strides, and moves to the next element of its block; E[d] says
whether dimension d and all below it have wrapped. -/
def Sys2Proof.Claims.WalkerReadAdvances : Prop :=
  ∀ (s : State) (n : BitVec 3), s.ctl.wrv = none → (∀ d ∈ (s.walker n.toNat).dims, d.idx.toNat < d.count.toNat) →
    let w := s.walker n.toNat
    let r := s.walk [.none, .w n, .none]
    let w' := r.2.walker n.toNat
    r.1 = w.base + (w.dims.map fun d => BitVec.ofNat 64 d.idx.toNat * d.stride.signExtend 64).foldl (· + ·) 0
    ∧ r.2.ctl.wrv = some (n, r.1)
    ∧ w'.base = w.base
    ∧ (dims4 w').map (fun d => (d.count, d.stride)) = (dims4 w).map (fun d => (d.count, d.stride))
    ∧ (w.dims ≠ [] → place w'.dims = (place w.dims + 1) % span w.dims)
    ∧ (∀ k, k < w.dims.length → ((dims4 w').map (·.e)).getD k false = decide ((place w.dims + 1) % span (w.dims.take (k + 1)) = 0))
    ∧ (∀ k, w.dims.length ≤ k → ((dims4 w').map (·.e)).getD k false = false)

/-- R209, R210: a walker whose value a replay record holds is not read again, and an instruction that names no walker reads none. -/
def Sys2Proof.Claims.WalkerReadOnce : Prop :=
  ∀ (s : State) (n : BitVec 3) (v : W64),
    (s.ctl.wrv = some (n, v) → s.walk [.w n, .w n, .none] = (v, s)) ∧ s.walk [.s 3, .imm 5, .lit] = (0, s)

/-- R219, R220, R241: a scalar register written reads back, every other one reads as before, and a discarded result writes
nothing. -/
def Sys2Proof.Claims.ScalarRegisterWrite : Prop :=
  ∀ (s : State) (n m : BitVec 7) (v : W32) (v2 : W64),
    (s.wrS (.s n) v).rdS n.toNat = v
    ∧ (m ≠ n → (s.wrS (.s n) v).rdS m.toNat = s.rdS m.toNat)
    ∧ s.wrS .discard v = s ∧ s.wrS64 .discard v2 = s
    ∧ (n.toNat + 1 < 128 → (s.wrS64 (.s n) v2).rdS64 n.toNat = v2)
    ∧ (n.toNat % 2 = 0 → m.toNat % 2 = 0 → m ≠ n → (s.wrS64 (.s n) v2).rdS64 m.toNat = s.rdS64 m.toNat)

/-- R193: the registers s112 to s127 of a handler are others than those of the user. -/
def Sys2Proof.Claims.SupervisorBank : Prop :=
  ∀ (s : State) (c : Ctl) (n : BitVec 7) (v : W32), s.ctl.sup = true → c.sup = false →
    let t := (s.wrS (.s n) v).setCtl c
    (112 ≤ n.toNat → t.rdS n.toNat = (s.setCtl c).rdS n.toNat) ∧ (n.toNat < 112 → t.rdS n.toNat = v)

/-- R219, R262: a vector register is written in the lanes of the mask alone; v255 reads as zero and discards what is written. -/
def Sys2Proof.Claims.VectorRegisterWrite : Prop :=
  ∀ (s : State) (n m L : Nat) (k : Mask) (f : Nat → W32), L < 32 → n ≤ 255 → m ≤ 255 →
    (n ≠ 255 → (s.wrV n k f).rdV n L = if k.getLsbD L then f L else s.rdV n L)
    ∧ (m ≠ n → (s.wrV n k f).rdV m L = s.rdV m L)
    ∧ s.wrV 255 k f = s ∧ s.rdV 255 L = 0

/-- R219: predicates p0 to p6 and q0 to q6 hold what is written to them; index 7 is always true. -/
def Sys2Proof.Claims.PredicateWrite : Prop :=
  ∀ (s : State) (n m : BitVec 3) (L : Nat) (k : Mask) (b : Bool) (f : Nat → Bool), L < 32 →
    (n ≠ 7 → (s.wrQ (.p n) b).rdQ n.toNat = b)
    ∧ (m ≠ n → (s.wrQ (.p n) b).rdQ m.toNat = s.rdQ m.toNat)
    ∧ (s.wrQ (.p n) b).rdQ 7 = true
    ∧ (n ≠ 7 → (s.wrP (.p n) k f).rdP n.toNat L = if k.getLsbD L then f L else s.rdP n.toNat L)
    ∧ (m ≠ n → (s.wrP (.p n) k f).rdP m.toNat L = s.rdP m.toNat L)
    ∧ (s.wrP (.p n) k f).rdP 7 L = true

/-- R211: within a clause the next word comes next; the last word leads to the boundary of the clause after it. -/
def Sys2Proof.Claims.AdvanceInClause : Prop :=
  ∀ (s : State) (k : Nat), 
    (s.ctl.cpos + k ≤ s.ctl.hdr.len.toNat + 1 →
      let t := s.advance k
      t.ctl.pc = s.ctl.pc ∧ t.ctl.cpos = s.ctl.cpos + k ∧ t.ctl.hdr = s.ctl.hdr ∧ t.ctl.sup = s.ctl.sup ∧ t.ctl.wrv = none
      ∧ t.mem = s.mem ∧ t.exe.crews = s.exe.crews ∧ t.coh = s.coh ∧ t.trn = s.trn ∧ t.eng = s.eng ∧ t.mgt = s.mgt)
    ∧ (s.ctl.hdr.len.toNat + 1 < s.ctl.cpos + k → s.ctl.pc.toNat + 8 * (s.ctl.hdr.len.toNat + 2) < 2 ^ 52 →
      s.advance k = s.boundary (s.ctl.pc + 8 * (s.ctl.hdr.len.setWidth 52 + 2)))

/-! Floating point, conversion and crew instructions. -/

namespace Sys2Proof.Claims

open Sys2Proof Sys2Proof.Machine

/-- The exact operation of an arithmetic instruction on the values of its elements, with the flag it raises of itself. -/
def floatOps : List ((RI → Instr) × (RI → Machine.Num → Machine.Num → Machine.Num → Machine.Num × BitVec 6)) :=
  [(.fadd, fun x a b _ => sumN (x.rnd = 2) [a, b]), (.fsub, fun x a b _ => sumN (x.rnd = 2) [a, b.neg]),
   (.fmul, fun _ a b _ => mulN a b), (.ffma, fun x a b c => fusedSum (x.rnd = 2) [mulN a b] c)]
  ++ [(.frcp, fun _ a _ _ => funcN 0x67 a), (.frsq, fun _ a _ _ => funcN 0x68 a), (.fsqrt, fun _ a _ _ => funcN 0x69 a),
      (.fexp2, fun _ a _ _ => funcN 0x6A a)]
  ++ [(.flog2, fun _ a _ _ => funcN 0x6B a), (.fsin, fun _ a _ _ => funcN 0x6C a), (.fcos, fun _ a _ _ => funcN 0x6D a),
      (.ftanh, fun _ a _ _ => funcN 0x6E a)]

/-- Element `e` of a lane's register: the word itself, or its low or high half (R264). -/
def elem (t : Ty) (v : W32) (e : Nat) : Nat := if t = .f32 then v.toNat else (v.extractLsb' (16 * e) 16).toNat
/-- A register from its elements. -/
def fromElems (t : Ty) (f : Nat → Nat) : W32 :=
  if t = .f32 then BitVec.ofNat 32 (f 0) else BitVec.ofNat 32 (f 0 + f 1 * 65536)
/-- Flags of a register's elements together. -/
def flagsOf (t : Ty) (f : Nat → BitVec 6) : BitVec 6 := if t = .f32 then f 0 else f 0 ||| f 1

/-- A lane result with flags, in every active lane; the flags of the lanes that are no helpers enter `sys.astat`. -/
def lanesEnd (x : RI) (s : State) (f : Nat → W32 × BitVec 6) : State :=
  let m := s.act x.guard
  ((s.wrV (vnum x.d) m fun L => (f L).1).raise
    ((lanesOf (m &&& ~~~s.helpers)).foldl (fun a L => a ||| (f L).2) 0)).advance (RI.len x)

/-- The element formats of the arithmetic instructions. -/
abbrev FloatTy (x : RI) : Prop := x.ty = .f32 ∨ x.ty = .f16 ∨ x.ty = .bf16

/-- The codes of a format. -/
def codes (f : Machine.Fmt) : Nat := 2 ^ (f.e + f.m + 1)

/-- The value of a finite exact number, for comparison: sign, and magnitude n × 2^e / d scaled by 2^400. -/
def scaled : Machine.Num → Int
  | .fin s n d e _ => let m : Int := (n * 2 ^ (400 + e).toNat : Nat) / d
                      if s then -m else m
  | _ => 0

end Sys2Proof.Claims

/-- R264, R267, R268, R271: an arithmetic or function instruction reads its elements, computes exactly, rounds once into the
format, and ORs the flags of the lanes that are no helper lanes into `sys.astat`. -/
def Sys2Proof.Claims.FloatResults : Prop :=
  ∀ p ∈ floatOps, ∀ (x : RI) (s : State), FloatTy x →
    let r := s.walk [x.a, x.b, x.c]
    let f := fmtOfTy x.ty
    let arg (o : Opnd) (L e : Nat) : Machine.Num := readF f x.ftz (elem x.ty (r.2.v32 r.1 x.lit o L) e)
    let res (L e : Nat) : Nat × BitVec 6 :=
      let y := p.2 x (arg x.a L e) (arg x.b L e) (arg x.c L e)
      let z := cvtFloat f { rnd := x.rnd, ovf := x.ovf, ftz := x.ftz } y.1
      (z.1, y.2 ||| z.2)
    Gives (p.1 x) s (lanesEnd x r.2 fun L => (fromElems x.ty fun e => (res L e).1, flagsOf x.ty fun e => (res L e).2))

/-- R269, R272: minimum, maximum, rounding to an integer and classification work element by element and raise no flag; a
comparison writes the lane's predicate. -/
def Sys2Proof.Claims.FloatCompareResults : Prop :=
  ∀ (x : RI) (s : State), FloatTy x →
    let r := s.walk [x.a, x.b, x.c]
    let f := fmtOfTy x.ty
    let raw (o : Opnd) (L e : Nat) : Nat := elem x.ty (r.2.v32 r.1 x.lit o L) e
    let arg (o : Opnd) (L e : Nat) : Nat := flushIn f x.ftz (raw o L e)
    let out (g : Nat → Nat → Nat) : State := (r.2.wrV (vnum x.d) (r.2.act x.guard) fun L => fromElems x.ty (g L)).advance (RI.len x)
    Gives (.fmin x) s (out fun L e => minMaxF f false (arg x.a L e) (arg x.b L e))
    ∧ Gives (.fmax x) s (out fun L e => minMaxF f true (arg x.a L e) (arg x.b L e))
    ∧ Gives (.frnd x) s (out fun L e => roundF f x.rnd (arg x.a L e))
    ∧ Gives (.fclass x) s (out fun L e => classF f (raw x.a L e))
    ∧ (x.ty = .f32 → Gives (.fcmp x) s ((r.2.wrP x.d (r.2.act x.guard) fun L =>
        condF x.fcond (decodeF f (arg x.a L 0)) (decodeF f (arg x.b L 0))).advance (RI.len x)))

/-- R272, R273: FSCALE multiplies by a power of two and FDOT2 sums two products and an addend, each with one rounding. -/
def Sys2Proof.Claims.ScaleAndDotResults : Prop :=
  ∀ (x : RI) (s : State),
    let r := s.walk [x.a, x.b, x.c]
    let v (o : Opnd) (L : Nat) : W32 := r.2.v32 r.1 x.lit o L
    let cv : Cv := { rnd := x.rnd, ovf := x.ovf, ftz := x.ftz }
    (FloatTy x →
      let f := fmtOfTy x.ty
      let res (L e : Nat) : Nat × BitVec 6 := cvtFloat f cv (scaleN (v x.b L).toInt (readF f x.ftz (elem x.ty (v x.a L) e)))
      Gives (.fscale x) s (lanesEnd x r.2 fun L => (fromElems x.ty fun e => (res L e).1, flagsOf x.ty fun e => (res L e).2)))
    ∧ (x.sty = .f16 ∨ x.sty = .bf16 →
      let h := fmtOfTy x.sty
      let f := fmtOfTy .f32
      let term (L e : Nat) : Machine.Num × BitVec 6 := mulN (decodeF h (elem x.sty (v x.a L) e)) (decodeF h (elem x.sty (v x.b L) e))
      let sum (L : Nat) : Machine.Num × BitVec 6 := fusedSum (x.rnd = 2) [term L 0, term L 1] (readF f x.ftz (v x.c L).toNat)
      let res (L : Nat) : Nat × BitVec 6 := cvtFloat f cv (sum L).1
      Gives (.fdot2 x) s (lanesEnd x r.2 fun L => (BitVec.ofNat 32 (res L).1, (sum L).2 ||| (res L).2)))

/-- R271: what the function instructions give at zeros, infinities, negative arguments and NaNs. -/
def Sys2Proof.Claims.FunctionSpecialCases : Prop :=
  (∀ b, funcN 0x67 (.zero b) = (.inf b, fDZ) ∧ funcN 0x67 (.inf b) = (.zero b, 0))
  ∧ (∀ b, funcN 0x68 (.zero b) = (.inf b, fDZ)) ∧ funcN 0x68 (.inf false) = (.zero false, 0)
  ∧ (∀ b, funcN 0x69 (.zero b) = (.zero b, 0))
  ∧ (∀ op ∈ [0x68, 0x69, 0x6B], funcN op (.inf true) = (.nan, fNV)
      ∧ ∀ n e, 0 < n → funcN op (.dy true n e) = (.nan, fNV))
  ∧ funcN 0x6A (.inf true) = (.zero false, 0) ∧ funcN 0x6A (.inf false) = (.inf false, 0)
  ∧ (∀ b, funcN 0x6B (.zero b) = (.inf true, fDZ)) ∧ funcN 0x6B (.dy false 1 0) = (.zero false, 0)
  ∧ (∀ op ∈ [0x6C, 0x6D], ∀ b, funcN op (.inf b) = (.nan, fNV))
  ∧ (∀ b n, 0 < n → funcN 0x6C (.dy b n 0) = (.zero b, 0))
  ∧ (∀ b n, funcN 0x6D (.dy b (2 * n + 1) (-1)) = (.zero false, 0))
  ∧ (∀ b, funcN 0x6E (.inf b) = (.dy b 1 0, 0))
  ∧ (∀ op ∈ [0x67, 0x68, 0x69, 0x6A, 0x6B, 0x6C, 0x6D, 0x6E], funcN op .nan = (.nan, 0))

/-- R168, R174, R176: a value that a format holds is converted to its own code, in every directed mode, and raises no flag; an infinity keeps its
code in the formats of 16 bits and more. R177: in a format of 8 bits or fewer an infinity overflows, by default to the largest value of its sign. -/
def Sys2Proof.Claims.ExactValuesKeepTheirCode : Prop :=
  (∀ t ∈ [Ty.f32, .f16, .bf16, .e4m3, .e5m2, .e3m2, .e2m3, .e2m1], ∀ v rnd ovf : Nat,
    v < codes (fmtOfTy t) → rnd ≤ 3 → (decodeF (fmtOfTy t) v).isNan = false →
    ((decodeF (fmtOfTy t) v).isInf = false ∨ t ∈ [Ty.f32, .f16, .bf16]) →
      cvtFloat (fmtOfTy t) { rnd := rnd, ovf := ovf } (decodeF (fmtOfTy t) v) = (v, 0))
  ∧ ∀ t ∈ [Ty.e4m3, .e5m2, .e3m2, .e2m3, .e2m1], ∀ (b : Bool) (rnd : Nat),
      cvtFloat (fmtOfTy t) { rnd := rnd } (.inf b)
        = ((if b then 2 ^ ((fmtOfTy t).e + (fmtOfTy t).m) else 0) + (fmtOfTy t).maxc, fOF ||| fNX)

/-- R174, R176: rounding to nearest: no finite code of the format lies nearer to a value than the one it is converted to, when
that one is finite. The values are those whose bits reach no lower than 2^-400. -/
def Sys2Proof.Claims.NearestIsNearest : Prop :=
  ∀ t ∈ [Ty.f32, .f16, .bf16, .e4m3, .e5m2, .e3m2, .e2m3, .e2m1], ∀ (b : Bool) (n c : Nat) (e : Int), 0 < n → -400 ≤ e →
    let f := fmtOfTy t
    let y := decodeF f (cvtFloat f {} (.dy b n e)).1
    (cvtFloat f {} (.dy b n e)).2 &&& fOF = 0 → c < codes f → (decodeF f c).isNan = false → (decodeF f c).isInf = false →
      (scaled (.dy b n e) - scaled y).natAbs ≤ (scaled (.dy b n e) - scaled (decodeF f c)).natAbs

/-- R274 to R278: a conversion instruction converts the elements of each active lane, packs them, and raises their flags. -/
def Sys2Proof.Claims.ConversionResults : Prop :=
  ∀ (x : RI) (s : State),
    let r := s.walk [x.a, x.b, x.c]
    let m := r.2.act x.guard
    let cv (L k : Nat) : Cv := { rnd := x.rnd, ovf := x.ovf, ftz := x.ftz, sr := srBits r.2.crew.srseed L k }
    let fin (n : Nat) (f : Nat → Nat × BitVec 6) : State :=
      ((r.2.wrVn (vnum x.d) n m fun L => (f L).1).raise
        ((lanesOf (m &&& ~~~r.2.helpers)).foldl (fun a L => a ||| (f L).2) 0)).advance (RI.len x)
    let v (o : Opnd) (L : Nat) : Nat := (r.2.v32 r.1 x.lit o L).toNat
    Gives (.cvt x) s (fin x.ty.regs fun L =>
        convertAll x.ty x.sty (cv L) (r.2.v32 r.1 x.lit x.b L) (r.2.vnat r.1 x.lit x.sty.regs x.a L) (cvtCount x.ty x.sty))
    ∧ (∀ pos : BitVec 8, x.c = .num pos → Gives (.unpk x) s (fin 1 fun L =>
        convert x.ty x.sty (cv L pos.toNat) 0 (v x.a L / 2 ^ (x.sty.width * pos.toNat) % 2 ^ x.sty.width)))
    ∧ (∀ pos : BitVec 8, x.c = .num pos → Gives (.pack x) s (fin 1 fun L =>
        let a := convert x.ty x.sty (cv L pos.toNat) 0 (v x.a L % 2 ^ x.sty.width)
        let b := convert x.ty x.sty (cv L (pos.toNat + 1)) 0 (v x.b L % 2 ^ x.sty.width)
        let old := (r.2.rdV (vnum x.d) L).toNat
        let hole := (2 ^ (2 * x.ty.width) - 1) * 2 ^ (x.ty.width * pos.toNat)
        (old - (old &&& hole) + (a.1 + b.1 * 2 ^ x.ty.width) * 2 ^ (x.ty.width * pos.toNat), a.2 ||| b.2)))
    ∧ (∀ ctl : BitVec 8, x.c = .num ctl →
        let len := if ctl.getLsbD 0 then 32 else 16
        let n := x.ty.width * len / 32
        let out (el : Nat → Nat → Nat) : State := fin (n + 1) fun L =>
          let q := quantise x.ty (ctl.getLsbD 1) (cv L) ((List.range len).map fun j => readF (fmtOfTy x.sty) x.ftz (el L j))
          (q.1 + q.2.1 * 2 ^ (32 * n), q.2.2)
        (x.sty = .f32 → Gives (.cvtb x) s (out fun L j => (r.2.rdV (vnum x.a + j) L).toNat))
        ∧ (x.sty = .f16 ∨ x.sty = .bf16 → Gives (.cvtb x) s (out fun L j =>
            ((r.2.rdV (vnum x.a + j / 2) L).extractLsb' (16 * (j % 2)) 16).toNat)))

/-- R191, R281, R282, R284: the crew instructions on the active lanes of the fragment; helper lanes contribute to none. -/
def Sys2Proof.Claims.CrewResults : Prop :=
  ∀ (x : RI) (s : State), x.ty.regs = 1 →
    let r := s.walk [x.a, x.b, x.c]
    let m := r.2.act x.guard
    let con := m &&& ~~~r.2.helpers
    let a (L : Nat) : W32 := r.2.v32 r.1 x.lit x.a L
    let go (t : State) : State := t.advance (RI.len x)
    let put (f : Nat → W32) : State := go (r.2.wrV (vnum x.d) m f)
    let pred (f : Nat → Bool) : State := go (r.2.wrP x.d m f)
    (∀ from_ : Nat → Option Nat,
      (∀ L, from_ L = (shflSrc (x.subN % 4) (2 ^ (x.subN / 4 % 8)) L (r.2.v32 r.1 x.lit x.b L)).filter (m.getLsbD ·)) →
      Gives (.shfl x) s (go ((r.2.wrV (vnum x.d) m fun L => a ((from_ L).getD L)).wrP x.c m fun L => (from_ L).isSome)))
    ∧ Gives (.qswz x) s (put fun L =>
        let j := L - L % 4 + x.subN / 4 ^ (L % 4) % 4
        if m.getLsbD j then a j else a L)
    ∧ (∀ k, x.a = .p k →
        let yes (L : Nat) : Bool := r.2.rdP k.toNat L != x.sub.getLsbD 3
        let all : Bool := (lanesOf con).all yes
        let some_ : Bool := (lanesOf con).any yes
        (x.subN % 8 = 0 → Gives (.vote x) s (pred fun _ => all))
        ∧ (x.subN % 8 = 1 → Gives (.vote x) s (pred fun _ => some_))
        ∧ (x.subN % 8 = 2 → Gives (.vote x) s (pred fun _ => all || !some_))
        ∧ (x.subN % 8 = 3 → Gives (.vote x) s (put fun _ => maskOf ((lanesOf con).filter yes)))
        ∧ (x.subN % 8 = 4 → Gives (.vote x) s (put fun _ => BitVec.ofNat 32 ((lanesOf con).filter yes).length)))
    ∧ Gives (.matchEq x) s (put fun L => maskOf ((lanesOf con).filter fun j => a j = a L))
    ∧ (x.sub.getLsbD 0 = false → Gives (.elect x) s (pred fun L => (lanesOf con).head? = some L))
    ∧ (x.sub.getLsbD 0 = true → Gives (.elect x) s (pred fun L => (lanesOf con).getLast? = some L))
    ∧ Gives (.help x) s (pred fun L => r.2.helpers.getLsbD L)
    ∧ (x.subN % 4 = 0 → Gives (.mask x) s (put fun _ => m))
    ∧ (x.subN % 4 = 1 → Gives (.mask x) s (put fun _ => r.2.frag.mask))
    ∧ (x.subN % 4 = 2 → Gives (.mask x) s (put fun _ => r.2.crew.live))
    ∧ (x.subN % 4 = 3 → Gives (.mask x) s (put fun L => maskOf ((lanesOf m).filter (· < L))))

/-- R283: reductions and scans over the contributors in ascending order of lane: every active lane receives the combination of
all contributors (REDX), of those up to itself (SCANX) or of those below itself (`.excl`). -/
def Sys2Proof.Claims.ReductionResults : Prop :=
  ∀ (x : RI) (s : State), x.ty = .s32 ∨ x.ty = .n32 → x.subN % 8 = 0 →
    let r := s.walk [x.a, x.b, x.c]
    let m := r.2.act x.guard
    let con := lanesOf (m &&& ~~~r.2.helpers)
    let sum (ls : List Nat) : W32 := ls.foldl (fun t L => t + r.2.v32 r.1 x.lit x.a L) 0
    let put (f : Nat → W32) : State := (r.2.wrV (vnum x.d) m f).advance (RI.len x)
    Gives (.redx x) s (put fun _ => sum con)
    ∧ (x.sub.getLsbD 3 = false → Gives (.scanx x) s (put fun L => sum (con.filter (· ≤ L))))
    ∧ (x.sub.getLsbD 3 = true → Gives (.scanx x) s (put fun L => sum (con.filter (· < L))))

/-! Control transfers and walkers. -/

namespace Sys2Proof.Claims

open Sys2Proof Sys2Proof.Machine

/-- A target that R32 admits: in the virtual space, aligned, outside the null guard and outside every aperture. -/
def Target (s : State) (t : W64) : Prop :=
  t.toNat < 2 ^ 52 ∧ t.toNat % 8 = 0 ∧ 0x10000 ≤ t.toNat ∧ s.apHit s.me t.toNat [0, 1, 2, 3, 4, 5] = none

/-- A word offset from the clause header, as an address (R218). -/
def away (s : State) (ofs : Int) : W64 := BitVec.ofInt 64 (s.ctl.pc.toNat + 8 * ofs)

/-- The fragment has a lane to move, or the agent is a Pilot thread. -/
def Moves (s : State) : Prop := s.pilot = true ∨ s.branchLanes ≠ 0

/-- No join waits for the current fragment at an address. -/
def NoJoinAt (s : State) (pc : BitVec 52) : Prop :=
  (s.frag.token = 0 ∨ (s.joinAt s.core s.frag.token).jaddr ≠ some pc) ∧ State.newestSpill s.crew s.entry = none

end Sys2Proof.Claims

/-- R185, R211: a fragment that goes to a clause at which it has no join stands at its header, with its lanes and its token. -/
def Sys2Proof.Claims.ClauseEntryWithoutJoin : Prop :=
  ∀ (s : State) (pc : BitVec 52), s.pilot = false → NoJoinAt s pc →
    let t := s.goAt pc.toNat
    t.cur = s.cur ∧ t.frag.ctl.pc = pc ∧ t.frag.ctl.cpos = 0 ∧ t.frag.ctl.sup = s.frag.ctl.sup ∧ t.frag.mask = s.frag.mask
    ∧ t.frag.token = s.frag.token ∧ t.frag.state = s.frag.state ∧ t.frag.lastHold = s.ctl.hdr.hold ∧ t.frag.crew = s.frag.crew
    ∧ t.crew = State.dropRun s.crew s.frag.run ∧ t.crew.vregs = s.crew.vregs ∧ t.crew.uni = s.crew.uni ∧ t.crew.preds = s.crew.preds ∧ t.mem = s.mem

/-- R187, R190: a fragment that comes to its join address waits while other branches are out; the last one to come fuses them all
into the lowest entry, with the parent's token. -/
def Sys2Proof.Claims.JoinWaitsOrFuses : Prop :=
  ∀ (s : State) (pc : BitVec 52), s.pilot = false → State.newestSpill s.crew s.entry = none → s.frag.window = none →
    s.frag.token ≠ 0 → (s.joinAt s.core s.frag.token).jaddr = some pc →
    let j := s.joinAt s.core s.frag.token
    let t := s.goAt pc.toNat
    (1 < j.pend →
      t.frag.state = .waiting ∧ t.frag.wait = 1 ∧ t.frag.ctl.pc = pc ∧ t.frag.mask = s.frag.mask
      ∧ t.joinAt s.core s.frag.token = { j with pend := j.pend - 1 } ∧ t.mem = s.mem)
    ∧ (j.pend ≤ 1 → (∀ k, k ≠ s.fkey → (s.fragAt k).token = s.frag.token → (s.fragAt k).waitFor ≠ .join) → j.ptoken = 0 →
        Tbl.wf s.exe.frags = true → s.frag.mask ≠ 0 → s.entry < 320 →
      t.frag.token = 0 ∧ t.frag.mask = s.frag.mask ∧ t.frag.ctl.pc = pc ∧ (t.joinAt s.core s.frag.token).used = false)

/-- R247, R249, R253, R254, R261: the branches of a whole fragment go to their target, or to the fall-through when the guard or
the walker's flag does not hold. -/
def Sys2Proof.Claims.UniformBranches : Prop :=
  ∀ (x : BI) (s : State),
    let t := away s x.tgt.toInt
    let flag : Bool := ((dims4 (s.walker (x.x.extractLsb' 0 3).toNat)).map (·.e)).getD (x.x.extractLsb' 3 2).toNat false
    (s.qguard x.guard = false → Gives (.bra x) s (s.goAt s.fallPc) ∧ Gives (.brw x) s (s.goAt s.fallPc)
        ∧ Gives (.call x) s (s.goAt s.fallPc))
    ∧ (flag = x.x.getLsbD 5 → Gives (.brw x) s (s.goAt s.fallPc))
    ∧ (s.qguard x.guard = true → Moves s → Target s t →
        Gives (.bra x) s (s.goAt t.toNat) ∧ (flag ≠ x.x.getLsbD 5 → Gives (.brw x) s (s.goAt t.toNat)))

/-- R253, R254: CALL leaves the address of the clause after its own in the pair it names and goes to its target; RET goes to
the address in its pair. -/
def Sys2Proof.Claims.CallAndReturn : Prop :=
  (∀ (x : BI) (s : State), s.qguard x.guard = true → Moves s → Target s (away s x.tgt.toInt) → s.fallPc < 2 ^ 52 →
    let back : W64 := BitVec.ofNat 64 s.fallPc
    (s.pilot = false → Gives (.call x) s ((s.wrV64 x.x.toNat s.branchLanes fun _ => back).goAt (away s x.tgt.toInt).toNat))
    ∧ (s.pilot = true → Gives (.call x) s ((s.wrS64 (.s (x.x.extractLsb' 0 7)) back).goAt (away s x.tgt.toInt).toNat)))
  ∧ ∀ (x : RI) (s0 : State) (t : W64),
      let r := s0.walk [x.a]
      let s := r.2
      (s.qguard x.guard = false → Gives (.ret x) s0 (s.goAt s.fallPc))
      ∧ (s.qguard x.guard = true → Target s t →
        (s.pilot = false → s.branchLanes ≠ 0 → (∀ L ∈ lanesOf s.branchLanes, s.v64 r.1 none x.a L = t) → Gives (.ret x) s0 (s.goAt t.toNat))
        ∧ (s.pilot = true → s.u64 r.1 none x.a = t → Gives (.ret x) s0 (s.goAt t.toNat)))
      
/-- R250, R248: BRX keeps a fragment whole when all its lanes go one way, and else splits it: the taken group first, the join
address for both. -/
def Sys2Proof.Claims.DivergentBranch : Prop :=
  ∀ (x : BI) (s : State) (j : BitVec 52), s.pilot = false → s.joinAddr x.join.toInt = .ok j → s.branchLanes ≠ 0 →
    let t := away s x.tgt.toInt
    let m := s.branchLanes &&& s.guardMask x.guard
    Target s t →
    (m = s.branchLanes → Gives (.brx x) s (s.goAt t.toNat))
    ∧ (m = 0 → Gives (.brx x) s (s.goAt s.fallPc))
    ∧ (m ≠ 0 → m ≠ s.branchLanes → t.toNat ≠ s.fallPc → s.frag.window = none →
        Gives (.brx x) s (s.split [] [(m, t.toNat), (s.branchLanes &&& ~~~s.guardMask x.guard, s.fallPc)] (some j) false))

/-- R189, R248: a split into two with a fresh join token: each group has its own entry, both carry the token, whose entry holds the
join address, the parent's token and the two branches that are out. -/
def Sys2Proof.Claims.SplitIntoTwo : Prop :=
  ∀ (s : State) (g h : Mask × Nat) (j : BitVec 52) (e : Nat) (k : BitVec 12), s.pilot = false → s.sup = false →
    s.frag.state = .ready → (s.frag.token = 0 ∨ (s.joinAt s.core s.frag.token).jaddr ≠ some j) →
    s.freshToken s.core = some k → s.freeEntry s.core s.frag.crew = some e → e ≠ s.entry → e < 320 → s.entry < 320 →
    Tbl.wf s.exe.frags = true → s.crew.spills = [] → g.2 < 2 ^ 52 → h.2 < 2 ^ 52 → BitVec.ofNat 52 g.2 ≠ j → BitVec.ofNat 52 h.2 ≠ j →
    let t := s.split [] [g, h] (some j) false
    t.frag.mask = g.1 ∧ t.frag.token = k ∧ t.frag.ctl.pc = BitVec.ofNat 52 g.2 ∧ t.frag.ctl.cpos = 0
    ∧ (t.fragAt (s.core * 320 + e)).mask = h.1 ∧ (t.fragAt (s.core * 320 + e)).token = k
    ∧ (t.fragAt (s.core * 320 + e)).ctl.pc = BitVec.ofNat 52 h.2 ∧ (t.fragAt (s.core * 320 + e)).crew = s.frag.crew
    ∧ (t.joinAt s.core k).jaddr = some j ∧ (t.joinAt s.core k).ptoken = s.frag.token ∧ (t.joinAt s.core k).pend = 2

namespace Sys2Proof.Claims

open Sys2Proof Sys2Proof.Machine

/-- An address that an access of the current agent reaches through an entry of its TLB (R66): on the virtual space and beyond the null guard, in
no aperture, of a live context, on a page of its precinct's that is not held and has the permission asked for. `l` is the location. -/
def Mapped (s : State) (va : Nat) (k : AKind) (l : Nat) : Prop :=
  let w := s.me
  0x10000 ≤ va ∧ va < 2 ^ 52 ∧ s.apHit w va [0, 1, 2, 3, 4, 5] = none ∧ (s.ctx w.isl w.spn).live = true
  ∧ (s.ctx w.isl w.spn).older = []
  ∧ ∃ e, s.cached w va = some e ∧ fld e.pte 1 1 = 0 ∧ fld e.pte 12 4 = (s.precinct (s.ctx w.isl w.spn).precinct).tag
      ∧ (fld e.pte 5 1 = 0 ∨ w.sup = true) ∧ (State.needsRead k = true → fld e.pte 2 1 = 1)
      ∧ (State.needsWrite k = true → fld e.pte 3 1 = 1 ∧ fld e.pte 9 1 = 1) ∧ (k = .fetch → fld e.pte 4 1 = 1)
      ∧ fld e.pte 6 2 ≤ 1 ∧ l = locPA w.isl (fld e.pte 16 32 * 65536 + va % e.size)

/-- The four bytes of a jump table's entry at an address can be fetched, and are those of `e` (R32, R48, R251): no line of the instruction cache
holds them, and the line in memory is whole and readable at its home. -/
def EntryAt (s : State) (a : W64) (e : W32) : Prop :=
  ∃ l l8, a.toNat % 4 = 0 ∧ Mapped s a.toNat .fetch l ∧ Mapped s (a.toNat / 8 * 8) .fetch l8 ∧ l8 % 128 = a.toNat / 8 * 8 % 128
    ∧ s.coh.icache.find (State.codeKey s.me (a.toNat / 8 * 8)) = none ∧ s.badLine l8 = false ∧ isGlobal l8 = true ∧ isHost l8 = false
    ∧ isHost (lineLoc (lineKey s.me.isl l8)) = false ∧ State.homeReadable (s.line (lineKey s.me.isl l8)) = true
    ∧ e.toNat = Memory.readN s.mem (l8 + a.toNat % 8) 4 ∧ s.parkedHere = none ∧ s.softIn (l8 / 128 * 128) 128 = 0

end Sys2Proof.Claims

/-- R251: BRI sends each active lane to the clause that its entry of the table names, a lane beyond the table's end to a fault with cause 0x05
(a helper lane to the fall-through), and every other lane to the fall-through; the groups divide as at BRX. -/
def Sys2Proof.Claims.TableBranch : Prop :=
  ∀ (x : RI) (s0 : State) (j : BitVec 52) (e : Nat → W32),
    let r := s0.walk [x.b]
    let s := r.2
    s.pilot = false → s.joinAddr ((x.lit.getD 0).extractLsb' 8 20).toInt = .ok j →
    let m := s.branchLanes &&& s.guardMask x.guard
    let n := (s.u32 r.1 x.lit x.b).toNat
    let table := s.relTarget ((x.lit.getD 0).extractLsb' 28 24).toInt
    let at_ (L : Nat) : W64 := table + BitVec.ofNat 64 (4 * (s.rdV (vnum x.a) L).toNat)
    let to_ (L : Nat) : W64 := table + (e L).signExtend 64 * 8
    (∀ L ∈ lanesOf m, (s.rdV (vnum x.a) L).toNat < n → EntryAt s (at_ L) (e L) ∧ Target s (to_ L)) →
    let dest (L : Nat) : Dest :=
      if m.getLsbD L = false then .to s.fallPc
      else if n ≤ (s.rdV (vnum x.a) L).toNat then s.badDest L 5 (at_ L) 0 else .to (to_ L).toNat
    let ds := (lanesOf s.branchLanes).map fun L => (L, dest L)
    ∃ s1 : State, s1 = { s with coh.icache := s1.coh.icache, choices := s1.choices }
      ∧ Gives (.bri x) s0 (s1.divide ds (State.laneOrder ds) (some j) false)
      ∧ ∀ t : W64, m = s.branchLanes → m ≠ 0 → (∀ L ∈ lanesOf m, (s.rdV (vnum x.a) L).toNat < n ∧ to_ L = t) →
          Gives (.bri x) s0 (s1.goAt t.toNat)

/-- R252: JOIN keeps the join entry that its fragment has for the address, else takes a fresh one with the parent's token behind it, else counts
that none was free; then every lane goes to its target. -/
def Sys2Proof.Claims.JoinEntry : Prop :=
  ∀ (x : BI) (s : State) (j : BitVec 52), s.pilot = false → s.joinAddr x.join.toInt = .ok j → s.branchLanes ≠ 0 →
    Target s (away s x.tgt.toInt) →
    let to_ := (away s x.tgt.toInt).toNat
    (s.frag.token ≠ 0 → (s.joinAt s.core s.frag.token).jaddr = some j → Gives (.join x) s (s.goAt to_))
    ∧ ((s.frag.token = 0 ∨ (s.joinAt s.core s.frag.token).jaddr ≠ some j) →
        (∀ k, s.freshToken s.core = some k →
          Gives (.join x) s (((s.takeJoin s.core k (some j) s.frag.token 1 s.frag.crew).setFrag { s.frag with token := k }).goAt to_))
        ∧ (s.freshToken s.core = none →
          Gives (.join x) s (((s.bumpCounter s.core 5).postMine 8 0 s.frag.ctl.pc.toNat 0).goAt to_)))

/-- R206, R255: EXIT takes the active lanes out of the fragment and out of the crew's live lanes, and enters their statuses in
the gang's record; lanes that are left go on at the next clause. A pending error of an add-on-store is taken first (R323); what may count as an arrival
at a barrier waits until what the lanes have done is performed (R125, R205; the model's reading, log 135). -/
def Sys2Proof.Claims.ExitLeavesLanes : Prop :=
  ∀ (x : RI) (s0 : State),
    let r := s0.walk [x.a]
    let s := r.2
    s.pilot = false →
    let m := s.act x.guard
    let ord := lanesOf (m &&& ~~~s.helpers)
    let st (L : Nat) : Nat := (s.v32 r.1 x.lit x.a L).toNat % 65536
    let g0 := ord.foldl (fun g L => State.noteExit g (s.crew.idx * 32 + L) (st L)) s.gang
    let g : Gang := { g0 with leftAt := s.clock, leftIds := s.exe.ids }
    let s1 : State := { s.setCrew { s.crew with live := s.crew.live &&& ~~~m } with exe.gangs := s.exe.gangs.put s.gangKey g }
    let s2 := s1.exitBarriers s.ckey m
    g.left = s.gang.left + ord.length
    ∧ g.nz = s.gang.nz + (ord.filter fun L => st L ≠ 0).length
    ∧ (m = 0 → Gives (.exit x) s0 (s.goAt s.fallPc))
    ∧ (m ≠ 0 → s.frag.errs = [] → s.released (s.exitScope m) = false → Gives (.exit x) s0 (s.stall 5 (.fence (s.exitScope m))))
    ∧ (m ≠ 0 → s.frag.errs = [] → s.released (s.exitScope m) = true → g.left ≠ g.lanes → s.frag.mask &&& ~~~m ≠ 0 →
        Gives (.exit x) s0 ((s2.setFrag { s.frag with mask := s.frag.mask &&& ~~~m }).goAt s.fallPc))
    ∧ (m ≠ 0 → s.frag.errs = [] → s.released (s.exitScope m) = true → g.left ≠ g.lanes → s.frag.mask &&& ~~~m = 0 → Gives (.exit x) s0 s2.emptied)
    ∧ (m ≠ 0 → s.frag.errs = [] → s.released (s.exitScope m) = true → g.left = g.lanes → Gives (.exit x) s0 (s2.gangLeaves s.gangKey))
    ∧ (∀ q qs, m ≠ 0 → s.frag.errs = q :: qs →
        Gives (.exit x) s0 ((s.setFrag { s.frag with errs := qs }).moorAll 4 (some q.2)))

/-- R256: NOP does nothing, and YIELD makes the fragment count as made ready now. -/
def Sys2Proof.Claims.YieldAndNop : Prop :=
  ∀ (x : RI) (s : State),
    Gives (.nop x) s (s.advance 1)
    ∧ (s.qguard x.guard = true → s.pilot = false → Gives (.yield x) s ((s.setFrag { s.frag with age := s.clock }).advance 1))
    ∧ (s.qguard x.guard = true → s.pilot = true → Gives (.yield x) s (s.advance 1))

/-- R208, R258 to R260: binding, setting and reading a walker. -/
def Sys2Proof.Claims.WalkerInstructions : Prop :=
  ∀ (x : RI) (s : State), s.qguard x.guard = true →
    let w := s.walker (RI.wn x)
    let d := RI.wdim x
    let dim := (dims4 w).getD d w.d3
    let go (t : State) : State := t.advance (RI.len x)
    let put (w' : Walker) : State := go (s.setWalker (RI.wn x) w')
    let a := s.u32 0 x.lit x.a
    (∀ (s1 s2 : State) (l : List (Nat × Nat)) (ca : Nat) (ps : List (Nat × Nat × Nat)) (bs : List Byte),
        s.partLocs s.me s.firstLane (s.u64 0 x.lit x.a) 8 4 = (s1, .ok l ca, ps) → s1.crew.ops = [] → s1.coh.wbuf = [] → s2.coh.wbuf = [] → s2.coh.wow = [] →
        s1.readAll s.me 0 ca ps = (s2, some bs) → bs.length = 32 →
        let half (i : Nat) : BitVec 16 := bs.getD (i + 1) 0 ++ bs.getD i 0
        let word (i : Nat) : W32 := half (i + 2) ++ half i
        let row (k : Nat) : WDim := { count := half (8 + 6 * k), stride := word (10 + 6 * k) }
        Gives (.wbind x) s (go ((s2.setWalker (RI.wn x)
          { base := word 4 ++ word 0, d0 := row 0, d1 := row 1, d2 := row 2, d3 := row 3 }).dropReplays (RI.wn x))))
    ∧ (RI.wfield x = 0 → Gives (.wset x) s (put { w with base := s.u64 0 x.lit x.a })
        ∧ Gives (.wget x) s (go (s.wrS64 x.d w.base)))
    ∧ (RI.wfield x = 1 → Gives (.wset x) s (put (w.setDim d { dim with idx := a.extractLsb' 0 16 }))
        ∧ Gives (.wget x) s (go (s.wrS x.d (dim.idx.setWidth 32))))
    ∧ (RI.wfield x = 2 → Gives (.wset x) s (put (w.setDim d { dim with count := a.extractLsb' 0 16 }))
        ∧ Gives (.wget x) s (go (s.wrS x.d (dim.count.setWidth 32))))
    ∧ (RI.wfield x = 3 → Gives (.wset x) s (put (w.setDim d { dim with stride := a }))
        ∧ Gives (.wget x) s (go (s.wrS x.d dim.stride)))
    ∧ (RI.wfield x = 4 → Gives (.wget x) s (go (s.wrS64 x.d w.value)))
    ∧ (RI.wfield x = 5 → Gives (.wget x) s (go (s.wrS x.d
        (BitVec.ofNat 32 (16 * w.dims.length) ||| maskOf ((List.range 4).filter fun k => ((dims4 w).map (·.e)).getD k false)))))

/-! Barriers. -/

namespace Sys2Proof.Claims

open Sys2Proof Sys2Proof.Machine

/-- A barrier after `n` more arrivals that change its delta by `d` (R204): it counts them, or with the last one expected goes to its
next phase, which its `w` registered waiters have yet to observe. -/
def Counted (b B : Barrier) (n : Nat) (d : Int) (w : Nat) : Prop :=
  (b.arr + n < b.exp → B.ph = b.ph ∧ B.arr = b.arr + n ∧ B.exp = b.exp ∧ B.delta = b.delta + d ∧ B.obs = b.obs)
  ∧ (b.exp ≤ b.arr + n → B.ph = b.ph + 1 ∧ B.arr = 0 ∧ B.exp = ((b.exp : Int) + b.delta + d).toNat ∧ B.delta = 0 ∧ B.obs = w)

/-- The barrier that a barrier instruction names, and the lanes it counts (R203, R239). -/
def barOf (x : RI) (s : State) : Nat := s.barKey s.ckey (RI.barLvl x) (RI.barIdx x)
def arrivers (x : RI) (s : State) : Mask := s.act x.guard &&& ~~~s.helpers

end Sys2Proof.Claims

/-- R204, R333, R334: at crew level every lane is a unit. Arrivals of members that have not arrived in the phase are counted
while no waiter of the last phase is missing; BARS also registers the fragment and waits, BARD drops the unit, BARJ adds one. -/
def Sys2Proof.Claims.LaneArrivals : Prop :=
  ∀ (x : RI) (s : State),
    let k := barOf x s
    let b := s.barAt k
    let ls := arrivers x s
    let n := (lanesOf ls).length
    let w := b.waiters.length
    RI.barLvl x = 0 → ls ≠ 0 → s.released (RI.barLvl x) = true →
    (b.obs = 0 → (∀ L ∈ lanesOf ls, (b.units.get {} L).ph ≠ some b.ph ∧ (b.units.get {} L).member = true) →
      (∃ B, Gives (.bara x) s ((s.setBar k B).advance 1) ∧ Counted b B n 0 w ∧ B.waiters = b.waiters)
      ∧ (∃ B, Gives (.bars x) s ((s.setBar k B).stall 2 (.barrier k b.ph)) ∧ Counted b B n 0 (w + 1)
          ∧ B.waiters = b.waiters ++ [s.fkey])
      ∧ (∃ B, Gives (.bard x) s ((s.setBar k B).advance 1) ∧ Counted b B n (-n) w ∧ B.waiters = b.waiters)
      ∧ (∃ B, Gives (.bart x) s (((s.setBar k B).wrP x.d (s.act x.guard) fun _ => true).advance 1) ∧ Counted b B n 0 w))
    ∧ (b.obs = 0 → (∀ L ∈ lanesOf ls, (b.units.get {} L).ph ≠ some b.ph) →
        ∃ B, Gives (.barj x) s ((s.setBar k B).advance 1) ∧ Counted b B n n w ∧ B.waiters = b.waiters)

/-- R334: an arrival is refused while a waiter has yet to observe the last phase; the instruction waits, and BART says no. -/
def Sys2Proof.Claims.ArrivalRefused : Prop :=
  ∀ (x : RI) (s : State),
    let k := barOf x s
    arrivers x s ≠ 0 → (s.barAt k).obs ≠ 0 → s.released (RI.barLvl x) = true →
    Gives (.bara x) s (s.stall 2 (.arrival k)) ∧ Gives (.bars x) s (s.stall 2 (.arrival k))
    ∧ Gives (.bard x) s (s.stall 2 (.arrival k)) ∧ Gives (.barj x) s (s.stall 2 (.arrival k))
    ∧ Gives (.bart x) s ((s.wrP x.d (s.act x.guard) fun _ => false).advance 1)

/-- R204, R334: at a wider level a crew arrives with the last of its live lanes; till then its lanes are only noted. -/
def Sys2Proof.Claims.CrewArrivals : Prop :=
  ∀ (x : RI) (s : State),
    let k := barOf x s
    let b := s.barAt k
    let ls := arrivers x s
    let u := b.units.get {} s.ckey
    let all : Bool := State.barLanes s.crew &&& ~~~(u.lanes ||| ls) = 0
    RI.barLvl x ≠ 0 → ls ≠ 0 → s.released (RI.barLvl x) = true → b.obs = 0 → ls &&& u.lanes = 0 → u.member = true →
    (all = false → ∃ B, Gives (.bara x) s (((s.setBar k B).twinRelease s.ckey (RI.barLvl x)).advance 1)
        ∧ B = { b with units := b.units.put s.ckey { u with lanes := u.lanes ||| ls } })
    ∧ (all = true → u.bard = false → u.joined = false →
        ∃ B, Gives (.bara x) s (((s.setBar k B).twinRelease s.ckey (RI.barLvl x)).advance 1) ∧ Counted b B 1 0 b.waiters.length)

/-- R335, R336: BARW is an acquire: it waits till its earlier reads are complete, then for the phase in which its lanes have arrived, and
else goes on. -/
def Sys2Proof.Claims.BarrierWait : Prop :=
  ∀ (x : RI) (s : State),
    let k := barOf x s
    let b := s.barAt k
    (s.acquired (RI.barLvl x) = false → Gives (.barw x) s (s.stall 5 .retry))
    ∧ (∀ L ∈ lanesOf (arrivers x s), RI.barLvl x = 0 → (b.units.get {} L).ph = some b.ph → (b.units.get {} L).member = true →
      s.acquired (RI.barLvl x) = true →
      Gives (.barw x) s ((s.setBar k { b with waiters := b.waiters ++ [s.fkey] }).stall 2 (.barrier k b.ph)))
    ∧ ((∀ L ∈ lanesOf (arrivers x s), (b.units.get {} L).ph ≠ some b.ph) → (b.units.get {} s.ckey).lanes &&& arrivers x s = 0 →
        s.acquired (RI.barLvl x) = true → Gives (.barw x) s ((s.twinAcquire s.ckey (RI.barLvl x)).advance 1))

/-- R205: a lane that exits leaves its crew's barrier: at once without an arrival in this phase, which is owed as a BARD, and at the
flip when it has arrived. -/
def Sys2Proof.Claims.ExitLeavesBarrier : Prop :=
  ∀ (b : Barrier) (u : Nat),
    let x := b.units.get {} u
    let b' := b.unitLeaves u
    (x.member = false → x.joined = false → b' = b)
    ∧ (x.member = true → x.ph = some b.ph → x.bard = false → b'.delta = b.delta - 1 ∧ b'.arr = b.arr ∧ b'.ph = b.ph)
    ∧ (x.member = true → x.ph = some b.ph → x.bard = true → b'.delta = b.delta ∧ b'.arr = b.arr ∧ b'.ph = b.ph)
    ∧ (x.member = true → x.ph ≠ some b.ph → b.obs = 0 → b.owed = 0 → Counted b b' 1 (-1) b.waiters.length)
    ∧ (x.member = true → x.ph ≠ some b.ph → b.obs ≠ 0 → b'.owed = b.owed + 1 ∧ b'.arr = b.arr ∧ b'.ph = b.ph)

/-! Memory, tiles' windows, landing counters. -/

namespace Sys2Proof.Claims

open Sys2Proof Sys2Proof.Machine

/-- What the accesses of a format M instruction resolve to, lane by lane, as the instruction resolves them (R24, R285). -/
def laneAddrs (x : MI) (s : State) (w : W64) (ls : List Nat) : List (Nat × W64) := ls.map fun L => (L, s.ea x false w L)

/-- The lines that a store writes wholly (R59), and the resolution of its lanes. -/
def storeLanes (x : MI) (s : State) (w : W64) (k : AKind) (red : Bool) : State × Option (List LaneR) :=
  let ls := (s.mlanes x.guard).filter s.ordinary
  let whole : List Nat := if red then [] else
    wholeLines (ls.flatMap fun L => match (s.laneAccess s.me L (s.ea x false w L) (MI.bytes x) k x.skw).2 with | .ok l _ => l | _ => [])
  State.resolveLanes s.me k (MI.bytes x) x.skw whole (laneAddrs x s w ls) s

/-- The pieces of storage that the bytes of a store or RED go to. -/
def storePieces (x : MI) (s : State) (rs : List LaneR) : List Piece :=
  (State.accsOf rs).flatMap fun a => State.piecesOf a.ca a.locs (storeBytes x s a.lane)

/-- Every lane reaches storage now: no fault, no parked access. -/
def Reached (rs : List LaneR) : Prop := ∀ r ∈ rs, ∃ a, r = .acc a ∧ a.parked = false

end Sys2Proof.Claims

/-- R285: a lane's address is the sum, modulo 2^64, of its base, the sign-extended offset, and, under `.os`, the sign-extended scalar
or walker X. -/
def Sys2Proof.Claims.EffectiveAddress : Prop :=
  ∀ (x : MI) (s : State) (w : W64) (L : Nat),
    let o : W64 := BitVec.ofInt 64 x.ofs.toInt
    (∀ n, x.a = .v n → x.os = false → s.ea x false w L = (s.rdV (n.toNat + 1) L ++ s.rdV n.toNat L) + o)
    ∧ (∀ n, x.a = .s n → x.os = false → s.ea x false w L = (s.rdS (n.toNat + 1) ++ s.rdS n.toNat) + o)
    ∧ (∀ n, x.a = .w n → x.os = false → s.ea x false w L = w + o)
    ∧ (∀ n m, x.a = .v n → x.x = .s m → x.os = true →
        s.ea x false w L = (s.rdV (n.toNat + 1) L ++ s.rdV n.toNat L) + o + BitVec.ofInt 64 (s.rdS m.toNat).toInt)
    ∧ s.ea x true w L = s.ea { x with os := false } false w L

/-- R24, R21: an address is tested in the order range, alignment, null guard, apertures, translation. -/
def Sys2Proof.Claims.AddressTests : Prop :=
  ∀ (s : State) (w : Who) (a : W64) (width : Nat) (k : AKind), 0 < width →
    (2 ^ 52 ≤ a.toNat → s.resolve w a width k = (s, .fault 2 0))
    ∧ (a.toNat < 2 ^ 52 → a.toNat % width ≠ 0 → s.resolve w a width k = (s, .fault 3 0))
    ∧ (a.toNat % width = 0 → a.toNat < 0x10000 → s.resolve w a width k = (s, .fault 1 0))
    ∧ (a.toNat < 2 ^ 52 → a.toNat % width = 0 → 0x10000 ≤ a.toNat → s.apHit w a.toNat [0, 1, 2, 3, 4, 5] = none →
        s.resolve w a width k = s.translate w a.toNat k)
    ∧ (∀ p base, a.toNat < 2 ^ 52 → a.toNat % width = 0 → 0x10000 ≤ a.toNat →
        s.apHit w a.toNat [0, 1, 2, 3, 4, 5] = some (p, base) → (w.sup = true ∨ (s.apReg w p).getLsbD 1 = true) → State.apAdmits w p k = true →
        s.resolve w a width k = if a.toNat - base + width ≤ s.apLimit w p then (s, .space p (a.toNat - base) (s.apLimit w p))
                                else (s, .fault 7 0))

/-- R288, R213: a crew's load whose lanes resolve goes into flight and the fragment goes on; its guard true nowhere, it is over. -/
def Sys2Proof.Claims.LoadIssues : Prop :=
  ∀ (x : MI) (s0 : State),
    let r := s0.walk [x.a, x.x]
    let s := r.2
    (s.mlanes x.guard = [] → Gives (.ld x) s0 ((s.opSkipped false).advance 1))
    ∧ ∀ (s1 : State) (rs : List LaneR), s.pilot = false → s.mlanes x.guard ≠ [] → s1.frag.window = none →
        State.resolveLanes s.me .load (MI.bytes x) x.skw [] (laneAddrs x s r.1 (s.mlanes x.guard)) s = (s1, some rs) →
        (∀ q ∈ rs, ∃ a, q = .acc a) → rs ≠ [] →
        ∃ o : LOp, Gives (.ld x) s0 ((s1.launchOp o (x.sem = 1)).advance 1)
          ∧ o.kind = .ld x ∧ o.accs = State.accsOf rs ∧ o.values = []
          ∧ o.dests = (if vnum x.d = 255 then [] else (List.range (MI.nregs x)).map fun i => RegId.v (vix s1.sup (vnum x.d + i)))

/-- R289: what a load of each width writes: zero-extended or sign-extended below 32 bits, else whole registers, lowest first. -/
def Sys2Proof.Claims.LoadedValues : Prop :=
  ∀ (x : MI) (b0 b1 b2 b3 : Byte) (l : List Byte), l.length = 4 → 
    let v0 : W32 := b3 ++ b2 ++ b1 ++ b0
    (x.wid = 0 → x.sub = 0 → loadWords x [b0] = [b0.setWidth 32]) ∧ (x.wid = 0 → x.sub = 1 → loadWords x [b0] = [b0.signExtend 32])
    ∧ (x.wid = 1 → x.sub = 0 → loadWords x [b0, b1] = [(b1 ++ b0).setWidth 32])
    ∧ (x.wid = 1 → x.sub = 1 → loadWords x [b0, b1] = [(b1 ++ b0).signExtend 32])
    ∧ (x.wid = 2 → loadWords x [b0, b1, b2, b3] = [v0])
    ∧ (x.wid = 3 → loadWords x ([b0, b1, b2, b3] ++ l) = [v0, BitVec.ofNat 32 (natOf l)])

/-- R290, R293: stores and REDs whose lanes reach storage, with nothing before them to wait for, send their bytes and go on. -/
def Sys2Proof.Claims.StoresAndReds : Prop :=
  ∀ (x : MI) (s0 : State),
    let r := s0.walk [x.a, x.x]
    let s := r.2
    let ls := (s.mlanes x.guard).filter s.ordinary
    (ls = [] → Gives (.st x) s0 (s.advance 1) ∧ Gives (.redArith x) s0 (s.advance 1) ∧ Gives (.redBitwise x) s0 (s.advance 1))
    ∧ ∀ (s1 : State) (rs : List LaneR), ls ≠ [] → x.sem ≠ 2 → Reached rs →
        (∀ a ∈ State.accsOf rs, s1.holdBack (MI.bytes x) s1.relsLeft (State.accsOf rs) a = false) →
        s1.bufferFull s.me (storePieces x s rs) = false → storePieces x s rs ≠ [] →
        let go (red : Option (UKey × Bool)) : State :=
          (s1.push s.me (storePieces x s rs) x.hint.toNat red (s1.exe.ids + 1) [s1.entry]).advance 1
        (storeLanes x s r.1 .store false = (s1, some rs) → Gives (.st x) s0 (go none))
        ∧ (storeLanes x s r.1 .atomic true = (s1, some rs) →
            Gives (.redBitwise x) s0 (go (some (⟨8 + x.sub.setWidth 4, 2 ^ x.wid.toNat⟩, false)))
            ∧ (x.sub ≠ 6 → Gives (.redArith x) s0 (go (some (⟨x.sub.setWidth 4, 2 ^ x.wid.toNat⟩, x.sub = 1))))
            ∧ (x.sub = 6 → Gives (.redArith x) s0 (go (some (⟨0, 2 ^ x.wid.toNat⟩, false)))))

/-- R41, R114: bytes stored to on-chip storage are there at once, in the order of the pieces; every byte outside them is unchanged,
and so are all other registers and tables. -/
def Sys2Proof.Claims.OnChipStoreFrame : Prop :=
  ∀ (s : State) (w : Who) (ps : List Piece) (hint po : Nat) (owners : List Nat), (∀ p ∈ ps, isGlobal p.loc = false) → s.coh.wbuf = [] →
    let t := s.push w ps hint none po owners
    (∀ a, (∀ p ∈ ps, a < p.loc ∨ p.loc + p.bytes.length ≤ a) → Memory.read t.mem a = Memory.read s.mem a)
    ∧ (∀ p, ps = [p] → Memory.wf s.mem = true → ∀ i, i < p.bytes.length → Memory.read t.mem (p.loc + i) = p.bytes.getD i 0)
    ∧ t.exe.crews = s.exe.crews ∧ t.exe.frags = s.exe.frags ∧ t.coh.l1 = s.coh.l1 ∧ t.coh.lines = s.coh.lines
    ∧ t.trn = s.trn ∧ t.eng = s.eng ∧ t.mgt = s.mgt

/-- R113, R114: a store to global memory waits in its core's write buffer, where the core's own reads find it; memory is not
changed till the line is owned. -/
def Sys2Proof.Claims.BufferedStore : Prop :=
  ∀ (s : State) (ak loc i : Nat) (e : WEnt), s.coh.wbuf = [e] → e.core = ak → e.red = none → e.bytes.find? (·.1 = loc) = none →
    i < e.bytes.length → (e.bytes.map (·.1)).Nodup →
    s.peek ak loc = Memory.read s.mem loc ∧ s.peek ak (e.bytes.getD i (0, 0)).1 = (e.bytes.getD i (0, 0)).2
    ∧ s.peek (ak + 1) (e.bytes.getD i (0, 0)).1 = Memory.read s.mem (e.bytes.getD i (0, 0)).1

/-- R291, R213: an atomic whose lanes resolve goes into flight with its operands; a Pilot thread's is performed before the thread
goes on and gives the old value. -/
def Sys2Proof.Claims.AtomicIssues : Prop :=
  ∀ (x : MI) (s0 : State),
    let r := s0.walk [x.a]
    let s := r.2
    let ls := (s.mlanes x.guard).filter s.ordinary
    (s.mlanes x.guard = [] → Gives (.atomArith x) s0 ((s.opSkipped false).advance 1)
        ∧ Gives (.atomBitwise x) s0 ((s.opSkipped false).advance 1))
    ∧ (∀ (s1 : State) (rs : List LaneR) (bw : Bool), s.pilot = false → s.mlanes x.guard ≠ [] → x.sem = 0 →
        State.resolveLanes s.me .atomic (MI.bytes x) false [] (ls.map fun L => (L, s.ea x true r.1 L)) s = (s1, some rs) →
        (∀ q ∈ rs, ∃ a, q = .acc a) → rs ≠ [] →
        ∃ o : LOp, Gives (if bw then .atomBitwise x else .atomArith x) s0 ((s1.launchOp o false).advance 1)
          ∧ o.kind = .atom bw x ∧ o.accs = State.accsOf rs
          ∧ o.operands = (State.accsOf rs).map fun a => (a.lane, atomOperands bw x s1 a.lane))
    ∧ (∀ (s1 s2 : State) (c : Acc) (l n va : Nat) (bw : Bool), s.pilot = true → s.mlanes x.guard ≠ [] → x.sem = 0 → x.wid = 2 → s.relsLeft = [] →
        s.resolveLane s.me .atomic 4 false [] 0 (s.ea x true r.1 0) = (s1, some (.acc c)) → c.locs = [(l, n, va)] →
        atomReady s1 s1.me x.hint.toNat c.ca l n va = (s2, true) →
        ∃ t : State, Gives (if bw then .atomBitwise x else .atomArith x) s0 ((t.wrS x.d (BitVec.ofNat 32 (Memory.readN s2.mem l 4))).advance 1)
          ∧ t.mem = Memory.writeN s2.mem l (atomOp bw x (Memory.readN s2.mem l 4) (atomOperands bw x s2 0).1 (atomOperands bw x s2 0).2) 4)

/-- R124, R292: lanes of one atomic on one location act one after another in ascending lane order, each meeting what the lane before
it left. -/
def Sys2Proof.Claims.AtomicLaneOrder : Prop :=
  ∀ (f : Nat → Nat → Nat → Nat) (m : Nat) (ops : List (Nat × Nat × Nat)) (i : Nat), i < ops.length →
    let r := applyLanes f m ops
    let met (k : Nat) : Nat := (ops.take k).foldl (fun v o => f v o.2.1 o.2.2) m
    r.1.getD i (0, 0) = ((ops.getD i (0, 0, 0)).1, met i) ∧ r.2 = met ops.length

/-- R292, R124: what an atomic leaves in a 4-byte location. -/
def Sys2Proof.Claims.AtomicResults : Prop :=
  ∀ (x : MI) (a b c : W32), x.wid = 2 →
    let op (bw : Bool) : Nat := atomOp bw x a.toNat b.toNat c.toNat
    (x.sub = 0 → op false = (a + b).toNat) ∧ (x.sub = 2 → op false = (if b.slt a then b else a).toNat)
    ∧ (x.sub = 3 → op false = (if a.slt b then b else a).toNat) ∧ (x.sub = 4 → op false = (if b.ult a then b else a).toNat)
    ∧ (x.sub = 5 → op false = (if a.ult b then b else a).toNat) ∧ (x.sub = 6 → op false = b.toNat)
    ∧ (x.sub = 7 → op false = (if a = b then c else a).toNat)
    ∧ (x.sub = 0 → op true = (a &&& b).toNat) ∧ (x.sub = 1 → op true = (a ||| b).toNat) ∧ (x.sub = 2 → op true = (a ^^^ b).toNat)

/-- R294, R295: a prefetch of an aperture does nothing; CCTL of a lane's line gives the copy up under `.wbi`; CCTL.ICI empties the
agent's instruction cache and no other. -/
def Sys2Proof.Claims.CacheControl : Prop :=
  ∀ (x : MI) (s0 : State),
    let r := s0.walk [x.a, x.x]
    let s := r.2
    (s.parkedHere = none → (∀ L ∈ s.mlanes x.guard, ∃ q, s.apHit { s.me with acc := L } (s.ea x false r.1 L).toNat [0, 1, 2, 3, 4, 5] = some q) →
        Gives (.pref x) s0 (s.advance 1))
    ∧ (∀ (L : Nat) (s1 : State) (l n ca : Nat), s.parkedHere = none → s.mlanes x.guard = [L] →
        s.apHit { s.me with acc := L } (s.ea x false r.1 L).toNat [0, 1, 2, 3, 4, 5] = none →
        s.laneAccess s.me L (s.ea x false r.1 L) 1 .prefetch false = (s1, .ok [(l, n)] ca) → ca ≤ 2 → isGlobal l = true → x.sub = 0 →
        Gives (.pref x) s0 ((s1.needRead (s1.askFor s.me (lineKey s.isl l) (s.ea x false r.1 L).toNat
          (if ca = 1 then 1 else 0))).1.unpark.advance 1))
    ∧ (s.mlanes x.guard = [] → Gives (.cctl x) s0 (s.advance 1))
    ∧ (s.mlanes x.guard ≠ [] → x.sub = 2 → ∃ t : State, Gives (.cctl x) s0 (t.advance 1)
        ∧ t = { s with coh.icache := t.coh.icache }
        ∧ ∀ e, e ∈ t.coh.icache ↔ e ∈ s.coh.icache ∧ e.1 / 2 ^ 45 / 4096 ≠ s.myAgentKey)
    ∧ (∀ (s1 : State) (L : Nat) (a : Acc) (l n va : Nat), s.mlanes x.guard = [L] → x.sub = 1 →
        State.resolveLanes s.me .cctl 1 false [] [(L, s.ea x false r.1 L)] s = (s1, some [.acc a]) → a.locs = [(l, n, va)] →
        isGlobal l = true → a.parked = false → s1.coh.wbuf = [] → earlierWrite s1 [(l, n, va)] = none →
        Gives (.cctl x) s0 ((cleanLineOf true s1 (lineKey s1.isl l)).advance 1))

/-- R75, R118 to R123, R126: a release fence goes on, its later writes waiting for it; an acquire fence goes on at once when all it waits for
is done, else a crew's goes on in a speculative window; FENCE.T waits for the translation completion points of the agent's writes, after which
the old values of address registers that it replaced are gone. A pending error of an add-on-store is taken first (R323). -/
def Sys2Proof.Claims.Fences : Prop :=
  ∀ (x : MI) (s : State),
    let scope := x.scope.toNat
    let sc := decide (x.sub = 1)
    let s1 := if x.sem.getLsbD 1 then (if sc then s else s.addRel scope).twinRelease s.me.id scope else s
    (s.acts x.guard = false → Gives (.fence x) s (s.advance 1))
    ∧ (∀ e l, s.acts x.guard = true → s.pilot = false → s.frag.errs = e :: l →
        Gives (.fence x) s ((s.setFrag { s.frag with errs := l }).moorAll 4 (some e.2)))
    ∧ (s.acts x.guard = true → (s.pilot = false → s.frag.errs = []) →
        (x.sub = 2 → s.transDone = true → Gives (.fence x) s (s.settleOlder.advance 1))
        ∧ (x.sub = 2 → s.transDone = false → Gives (.fence x) s (s.stall 5 (.fence 6)))
        ∧ (x.sub ≠ 2 → x.sem = 2 → Gives (.fence x) s (s1.advance 1))
        ∧ (x.sub ≠ 2 → x.sem ≠ 2 → s.fenceDone sc scope (s.exe.ids + 1) = true →
            Gives (.fence x) s ((s1.twinAcquire s.me.id scope).advance 1))
        ∧ (x.sub ≠ 2 → x.sem ≠ 2 → s.fenceDone sc scope (s.exe.ids + 1) = false → (s.pilot = true ∨ s.mayGo s.myPrecinct true = false) →
            Gives (.fence x) s (s.stall 5 .retry))
        ∧ (x.sub ≠ 2 → x.sem ≠ 2 → s.fenceDone sc scope (s.exe.ids + 1) = false → s.pilot = false → s.mayGo s.myPrecinct true = true →
            Gives (.fence x) s (s1.openWindow sc x.scope)))

/-- R42, R45, R297: TWIN gives a window of the gang its base and rows, and the old ones stay usable by the gang's other crews till they are ordered after it; one that reaches beyond the gang's scratchpad faults. -/
def Sys2Proof.Claims.TileWindow : Prop :=
  ∀ (x : RI) (s0 : State),
    let r := s0.walk [x.a, x.b]
    let s := r.2
    let base := (s.u32 r.1 x.lit x.a).toNat
    let rows := (s.u32 r.1 x.lit x.b).toNat
    (s.acts x.guard = false → Gives (.twin x) s0 (s.advance (RI.len x)))
    ∧ (s.acts x.guard = true → base < 2048 → rows ≤ 2048 → (rows = 0 ∨ (base + rows) * 128 ≤ s.gang.spSize * 2048) →
        let n := x.subN % 4
        let old : List TwinOld := if s.gang.crews.length ≤ 1 then [] else [{ n := n, writer := s.ckey, old := s.gang.twin.get 0 n }]
        let g := { s.gang with twin := s.gang.twin.put n (BitVec.ofNat 64 (base + rows * 2 ^ 16)), twinOld := s.gang.twinOld ++ old }
        Gives (.twin x) s0 ({ s with exe.gangs := s.exe.gangs.put s.gangKey g }.advance (RI.len x)))
    ∧ (s.acts x.guard = true → 0 < rows → s.gang.spSize * 2048 < (base + rows) * 128 → ∃ a, Gives (.twin x) s0 (s.moorAll 7 a))

/-- R298 to R301: SETC arms the counters of its lanes: EXPECTED as the register of the highest lane on it says, LANDED and ERRORS cleared, PHASE one
more; WAITC goes on when EXPECTED of every lane's counter is 0 and gives each lane ERRORS and PHASE, and waits while one is not; TESTC says of each
lane's whether it is 0. None of them runs while an operation from before, to a common byte, is in flight. -/
def Sys2Proof.Claims.LandingCounters : Prop :=
  ∀ (x : MI) (s0 : State) (cs : List (Nat × Nat)),
    let r := s0.walk [x.a, x.x]
    let s := r.2
    let m := maskOf (cs.map (·.1)) ||| (s.act x.guard &&& s.helpers)
    let clear (l : Nat) : Prop := ∀ d ∈ cs, d.2 = l ∨ d.2 + 16 ≤ l ∨ l + 16 ≤ d.2
    s.counterBusy cs = none →
    (s.counters x r.1 [8] = (cs, []) → s.relsLeft = [] → ∃ t : State, Gives (.setc x) s0 (t.advance 1)
        ∧ t = { s with mem := t.mem, mgt := { s.mgt with counters := t.mgt.counters },
                       coh := { s.coh with bad := t.coh.bad, badWords := t.coh.badWords, soft := t.coh.soft } }
        ∧ (∀ L l, Memory.wf s.mem = true → (L, l) ∈ cs → clear l → (∀ d ∈ cs, d.2 = l → d.1 ≤ L) → cs.count (L, l) = 1 →
            Memory.readN t.mem l 4 = (s.rdV (vnum x.d) L).toNat ∧ Memory.readN t.mem (l + 4) 6 = 0
            ∧ Memory.readN t.mem (l + 10) 2 = (Memory.readN s.mem (l + 10) 2 + 1) % 65536 ∧ Memory.readN t.mem (l + 12) 4 = 0)
        ∧ ∀ a, (∀ c ∈ cs, a < c.2 ∨ c.2 + 16 ≤ a) → Memory.read t.mem a = Memory.read s.mem a)
    ∧ (s.counters x r.1 [0, 8] = (cs, []) → (∀ c ∈ cs, Memory.readN s.mem c.2 4 = 0) → Gives (.waitc x) s0
        ((((s.softCounters cs [0, 8]).wrV (vnum x.d) m fun L => match cs.find? fun c => c.1 = L with
            | some c => BitVec.ofNat 32 (Memory.readN s.mem (c.2 + 8) 4) | none => 0).twinAcquire s.me.id 3).advance 1))
    ∧ (∀ c, s.counters x r.1 [0, 8] = (cs, []) → (cs.find? fun c => decide (Memory.readN s.mem c.2 4 ≠ 0)) = some c →
        Gives (.waitc x) s0 (s.stall 4 (.counter c.2)))
    ∧ (s.counters x r.1 [0] = (cs, []) →
        let yes (L : Nat) : Bool := cs.any fun c => c.1 = L && Memory.readN s.mem c.2 4 = 0
        let u := (s.softCounters cs [0]).wrP x.d m yes
        Gives (.testc x) s0 ((if cs.any (fun c => yes c.1) then u.twinAcquire s.me.id 3 else u).advance 1))

/-- R299: a count of landed bytes lowers EXPECTED and raises LANDED, and an error is counted up to 65535. -/
def Sys2Proof.Claims.CounterCounts : Prop :=
  ∀ (s : State) (l n e : Nat), n < 2 ^ 32 → Memory.wf s.mem = true →
    let t := countOn s l n e
    t = { s with mem := t.mem }
    ∧ Memory.readN t.mem l 4 = (Memory.readN s.mem l 4 + (2 ^ 32 - n)) % 2 ^ 32
    ∧ Memory.readN t.mem (l + 4) 4 = (Memory.readN s.mem (l + 4) 4 + n) % 2 ^ 32
    ∧ Memory.readN t.mem (l + 8) 2 = min (Memory.readN s.mem (l + 8) 2 + e) 65535
    ∧ Memory.readN t.mem (l + 10) 6 = Memory.readN s.mem (l + 10) 6
    ∧ ∀ a, (a < l ∨ l + 10 ≤ a) → Memory.read t.mem a = Memory.read s.mem a

/-! Matrices. -/

namespace Sys2Proof.Claims

open Sys2Proof Sys2Proof.Machine

/-- The tile of a format E instruction. -/
def tileOf (x : EI) : Nat := match x.d with | .tile t => t.toNat | _ => 0

/-- The number of a format block and of the first scalar register of a SETFB. -/
def fbNum (x : RI) : Nat := match x.d with | .num k => k.toNat | _ => 0
def fbReg (x : RI) : Nat := match x.a with | .s k => k.toNat | _ => 0

/-- Byte `k` of line `i` of an operand in 16 registers, lane by lane (R310): zero where the lane is not active (R316). -/
def byteOf (s : State) (base : Nat) (m : Mask) (i k : Nat) : Int :=
  if m.getLsbD (k / 4) then ((s.rdV (base + i) (k / 4)).extractLsb' (8 * (k % 4)) 8).toInt else 0

/-- The rows of an ALD read, in order: row and bytes as a number; none where one is parked or has to wait. -/
def readRows (s1 : State) (rs : List (Nat × RowR)) : State × Option (List (Nat × Nat)) :=
  rs.foldl (fun (q : State × Option (List (Nat × Nat))) r =>
    match q, r.2 with
    | (s, some l), .acc a =>
      if a.parked then (s, none)
      else (match s.readAll s.me 0 a.ca a.locs with
            | (s2, some bs) => (s2, some (l ++ [(r.1, natOf bs)]))
            | (s2, none) => (s2, none))
    | (s, some l), _ => (s, some (l ++ [(r.1, 0)]))
    | q, _ => q) (s1, some [])

/-- R314, R318: SETFB writes four scalar registers into a format block; ACLR clears a run of tiles and no other. -/
def SetfbAndAclr : Prop :=
  (∀ (x : RI) (s : State),
    (s.acts x.guard = false → Gives (.setfb x) s (s.advance 1))
    ∧ (s.acts x.guard = true → ∃ t : State, Gives (.setfb x) s (t.advance 1)
        ∧ t = s.setCrew { s.crew with fbs := t.crew.fbs }
        ∧ t.fblock (fbNum x) = [s.rdS (fbReg x), s.rdS (fbReg x + 1), s.rdS (fbReg x + 2), s.rdS (fbReg x + 3)]
        ∧ ∀ n, n ≠ fbNum x → t.fblock n = s.fblock n))
  ∧ ∀ (x : EI) (s : State),
    (s.acts x.guard = false → Gives (.aclr x) s (s.advance 1))
    ∧ (s.acts x.guard = true → ∃ t : State, Gives (.aclr x) s (t.advance 1) ∧ t = { s with exe.tiles := t.exe.tiles }
        ∧ ∀ n e, e < 256 → t.tileElem n e =
            if tileOf x ≤ n ∧ n ≤ tileOf x + x.sub.toNat % 64 then 0 else s.tileElem n e)

/-- R319: an ALD from registers gives element e the value of register e / 32 in lane e % 32, where that lane is active. -/
def AldFromRegisters : Prop :=
  ∀ (x : EI) (s0 : State),
    let s := (s0.walk [x.a, x.b]).2
    let m := s.act x.guard
    (m = 0 → Gives (.ald x) s0 ((s.opSkipped true).advance 1))
    ∧ (m ≠ 0 → x.sub.extractLsb' 0 2 = 0 → ∃ t : State,
        Gives (.ald x) s0 ((t.launchOp { kind := .ald, lanes := m } false).advance 1) ∧ t = { s with exe.tiles := t.exe.tiles }
        ∧ ∀ e, e < 256 → t.tileElem (tileOf x) e =
            if m.getLsbD (e % 32) then s.rdV (vnum x.a + e / 32) (e % 32) else s.tileElem (tileOf x) e)

/-- R319: an ALD from memory reads its rows in order, row i at base + i x pitch, and widens each element; the fault of the lowest
row is the fragment's. -/
def AldFromMemory : Prop :=
  ∀ (x : EI) (s0 s1 : State) (rs : List (Nat × RowR)),
    let r := s0.walk [x.a, x.b]
    let s := r.2
    let st := x.sub.toNat / 4 % 16
    let width := if st = 0 then 32 else if st = 3 then 8 else 16
    let m := s.act x.guard
    let rows := (List.range 16).map fun i => (i, s.u64 r.1 none x.a + BitVec.ofNat 64 (i * (s.u32 r.1 none x.b).toNat))
    m ≠ 0 → x.sub.extractLsb' 0 2 ≠ 0 → x.sub.getLsbD 12 = false → s.released 3 = true → s.parkWait = false →
    State.rowsGo s.me .load (x.sub.getLsbD 14) (2 * width) (fun _ => false) rows s = (s1, some rs) →
    (∀ c a p, State.rowFault rs = some (c, a, p) → Gives (.ald x) s0 (s1.moorAll c (some a) (some p)))
    ∧ (∀ (s2 : State) (l : List (Nat × Nat)), State.rowFault rs = none → (∀ a ∈ State.rowAccs rs, a.parked = false) →
        readRows s1.unpark rs = (s2, some l) → ∃ t : State,
        Gives (.ald x) s0 ((t.launchOp { kind := .ald, lanes := m } false).advance 1)
        ∧ t = { s2.softRows (State.rowAccs rs) with exe.tiles := t.exe.tiles }
        ∧ ∀ e q, e < 256 → l.find? (fun r => r.1 = e / 16) = some q →
            t.tileElem (tileOf x) e = widen st (q.2 / 2 ^ (width * (e % 16)) % 2 ^ width))

/-- R181, R183, R315: an MMA of signed bytes adds to element (i, j) of the tile the sum over k of the products of byte k of line i of
A and byte k of line j of B, modulo 2^32; under `.z` the tile counts as zero. -/
def MmaOfBytes : Prop :=
  ∀ (x : EI) (s0 : State) (da db : OpDesc),
    let s := (s0.walk [x.c]).2
    let m := s.act x.guard
    (m = 0 → Gives (.mma x) s0 ((s.opSkipped true).advance 1))
    ∧ (m ≠ 0 → mmaDescs (s.fblock x.fb.toNat) = none → Gives (.mma x) s0 (s.moorAll 0x10 none))
    ∧ (m ≠ 0 → mmaDescs (s.fblock x.fb.toNat) = some (da, db) → da.ty = .s8 → db.ty = .s8 → da.sc = false → db.sc = false →
        ∃ (t : State) (o : LOp), Gives (.mma x) s0 ((t.launchOp o false).advance 1) ∧ o.kind = .mma ∧ o.lanes = m ∧ o.stat = 0
          ∧ t = { s with exe.tiles := t.exe.tiles, exe.latches := t.exe.latches }
          ∧ ∀ e, e < 256 → t.tileElem (tileOf x) e =
              (if x.sub.getLsbD 3 then 0 else s.tileElem (tileOf x) e)
              + BitVec.ofInt 32 ((List.range 128).map fun k => byteOf s (vnum x.a) m (e / 16) k * byteOf s (vnum x.b) m (e % 16) k).sum)

/-- R320, R321: an ADRN drains converted elements, into registers or into rows of memory, and under `.clr` clears what it drained. -/
def DrainOfTile : Prop :=
  ∀ (x : EI) (s0 : State),
    let r := s0.walk [x.a, x.b]
    let s := r.2
    let m := s.act x.guard
    let n := tileOf x
    (m = 0 → Gives (.adrn x) s0 ((s.opSkipped true).advance 1))
    ∧ (m ≠ 0 → x.sub.extractLsb' 0 2 = 0 → EI.dt x = 0 →
        ∃ o : LOp, Gives (.adrn x) s0 (((drainTile x s n fun e => m.getLsbD (e % 32)).launchOp o false).advance 1)
          ∧ o.kind = .adrn x ∧ o.lanes = m ∧ o.accs = []
          ∧ o.dests = (List.range 8).map (fun i => RegId.v (vix s.sup (vnum x.a + i)))
          ∧ ∀ i L, i < 8 → L ∈ lanesOf m →
              (vix s.sup (vnum x.a + i), L, BitVec.ofNat 32 (drainElem x s.crew.srseed 0 (32 * i + L) (s.tileElem n (32 * i + L))).1) ∈ o.values)
    ∧ (∀ (s1 : State) (rs : List (Nat × RowR)), m ≠ 0 → x.sub.extractLsb' 0 2 ≠ 0 → x.sub.getLsbD 12 = false → s.parkWait = false →
        let b := s.u32 r.1 none x.b
        let rows := (List.range 16).map fun i => (i, s.u64 r.1 none x.a + BitVec.ofNat 64 (i * (b.toNat % 2 ^ 24)))
        State.rowsGo s.me (adrnKind x) (x.sub.getLsbD 14) (adrnRow x) (fun _ => false) rows s = (s1, some rs) →
        (∀ c a p, State.rowFault rs = some (c, a, p) → Gives (.adrn x) s0 (s1.moorAll c (some a) (some p)))
        ∧ (State.rowFault rs = none → (∀ a ∈ State.rowAccs rs, a.parked = false) →
            ∃ o : LOp, Gives (.adrn x) s0 (((drainTile x (s1.unpark.softRows (State.rowAccs rs)) n fun e => rows.any fun q => q.1 = e / 16).launchOp o false).advance 1)
              ∧ o.kind = .adrn x ∧ o.accs = State.rowAccs rs ∧ o.values = [] ∧ o.operands.map (·.1) = List.range 16))

/-- R302: an LDF with a valid descriptor goes into flight with its rows; without one it is an illegal instruction. -/
def FragmentLoad : Prop :=
  ∀ (x : EI) (s0 : State),
    let r := s0.walk [x.b, x.c]
    let s := r.2
    let m := s.act x.guard
    let fb := s.fblock x.fb.toNat
    let rows := s.rowAddrs (s.u64 r.1 none x.b) (s.u32 r.1 none x.c).toNat (some (vnum x.a, m))
    (m = 0 → Gives (.ldf x) s0 ((s.opSkipped false).advance 1))
    ∧ (m ≠ 0 → opDesc (fb.getD 0 0) 0 = none → Gives (.ldf x) s0 (s.moorAll 0x10 none))
    ∧ (m ≠ 0 → opDesc (fb.getD 0 0) 0 ≠ none →
        (∀ q ∈ rows, ∃ a, ldfRow s { s.me with acc := q.1 } (x.sub.getLsbD 0) q.1 q.2 = .acc a) →
        ∃ o : LOp, Gives (.ldf x) s0 (((s.softRows o.accs).launchOp o (x.sub.getLsbD 1)).advance 1) ∧ o.kind = .ldf ∧ o.lanes = m
          ∧ o.dests = (List.range 16).map (fun j => RegId.v (vix s.sup (vnum x.d + j)))
          ∧ o.accs = rows.filterMap fun q => match ldfRow s { s.me with acc := q.1 } (x.sub.getLsbD 0) q.1 q.2 with | .acc a => some a | _ => none)

/-- R212, R213: an operation with nothing left to perform completes: its values are written in its lanes, its flags of `sys.astat`
raised, and it is in flight no more. -/
def OperationCompletes : Prop :=
  (∀ (s : State) (ck id : Nat) (o : LOp), (s.precinct (s.precinctOfCore (ck / 64))).state = .running →
      (s.crewAt ck).ops.find id = some o → o.accs = [] → (o.kind = .mma ∨ o.kind = .ald) →
      Gives (.longLatencyComplete ck id) s (s.completeOp ck id o))
  ∧ ∀ (s : State) (ck id : Nat) (o : LOp) (n L : Nat) (v : W32), o.values = [(n, L, v)] → o.lanes.getLsbD L = true → L < 32 →
      Tbl.wf s.exe.crews = true → Tbl.wf (s.crewAt ck).ops = true →
      let t := s.completeOp ck id o
      (((t.crewAt ck).vregs.get [] n).getD L 0) = v
      ∧ (∀ n' L', L' < 32 → (n' ≠ n ∨ L' ≠ L) →
          ((t.crewAt ck).vregs.get [] n').getD L' 0 = ((s.crewAt ck).vregs.get [] n').getD L' 0)
      ∧ (t.crewAt ck).astat = (s.crewAt ck).astat ||| o.stat ∧ (t.crewAt ck).ops.find id = none
      ∧ (∀ j, j ≠ id → (t.crewAt ck).ops.find j = (s.crewAt ck).ops.find j)
      ∧ (t.crewAt ck).uni = (s.crewAt ck).uni ∧ t.mem = s.mem

end Sys2Proof.Claims

/-! Exceptions, the return from one, system registers, the frame pool. -/

namespace Sys2Proof.Claims

open Sys2Proof Sys2Proof.Machine

/-- The cause of a TRAP (R337). -/
def trapCause (x : II) : Byte := 0x40 + (x.imm.extractLsb' 0 6).setWidth 8

/-- R192, R337: a TRAP of a user fragment moors it whole with cause 0x40 + n, to go on at the next clause, its lanes' `sys.faddr`
holding the address of its clause header. -/
def TrapMoors : Prop :=
  ∀ (x : II) (s : State),
    (s.qguard x.guard = false → Gives (.trap x) s (s.goAt s.fallPc))
    ∧ (s.qguard x.guard = true → s.pilot = false → s.sup = false →
        ∃ t : State, Gives (.trap x) s t ∧ t.cur = s.cur ∧ t.frag.state = .moored ∧ t.frag.cause = trapCause x ∧ t.frag.whole = true
          ∧ t.frag.mask = s.frag.mask ∧ t.frag.token = s.frag.token ∧ t.frag.ctl.pc = BitVec.ofNat 52 s.fallPc ∧ t.frag.ctl.cpos = 0
          ∧ (∀ L ∈ lanesOf s.frag.mask, t.crew.faddr.get 0 L = s.ctl.pc.setWidth 64)
          ∧ t.crew.vregs = s.crew.vregs ∧ t.crew.uni = s.crew.uni ∧ t.mem = s.mem)
    ∧ (s.qguard x.guard = true → s.pilot = true →
        Gives (.trap x) s (s.pilotFault (trapCause x) (some (s.ctl.pc.setWidth 64)) none true (BitVec.ofNat 52 s.fallPc) 0 (decide (2 ^ 52 ≤ s.fallPc))))

/-- R338: an unarmed breakpoint is passed; an armed one stops the agent and posts event 12. -/
def Breakpoint : Prop :=
  ∀ (x : II) (s : State),
    ((s.qguard x.guard = false ∨ (s.precinct s.myPrecinct).armbp = false) → Gives (.bkpt x) s (s.advance 1))
    ∧ (s.qguard x.guard = true → (s.precinct s.myPrecinct).armbp = true →
        Gives (.bkpt x) s ((s.stall 7 .breakpoint).postMine 12 0 s.ctl.pc.toNat ((x.imm.extractLsb' 0 16).setWidth 64)))

/-- R368, R192: a fault of the whole fragment in user mode moors it at the instruction, with its cause and its address; nothing that
the instruction would have done has happened. -/
def FragmentFault : Prop :=
  ∀ (s : State) (c : Byte) (a p : Option W64), s.pilot = false → s.sup = false →
    let t := s.moorAll c a p
    t.cur = s.cur ∧ t.frag.state = .moored ∧ t.frag.cause = c ∧ t.frag.whole = true ∧ t.frag.mask = s.frag.mask
    ∧ t.frag.ctl = s.frag.ctl ∧ t.frag.token = s.frag.token ∧ t.frag.crew = s.frag.crew
    ∧ t.crew.vregs = s.crew.vregs ∧ t.crew.preds = s.crew.preds ∧ t.crew.uni = s.crew.uni ∧ t.crew.astat = s.crew.astat
    ∧ (∀ v, a = some v → ∀ L ∈ lanesOf s.frag.mask, t.crew.faddr.get 0 L = v)
    ∧ (∀ L, L ∉ lanesOf s.frag.mask → t.crew.faddr.get 0 L = s.crew.faddr.get 0 L)
    ∧ t.mem = s.mem ∧ t.trn = s.trn ∧ t.coh = s.coh ∧ t.eng = s.eng ∧ (c ≠ 4 → t.mgt = s.mgt)

/-- R196, R373: a fault in a handler freezes the crew's supervisor fragments with cause 0x13 and raises DF of the precinct. -/
def DoubleFault : Prop :=
  ∀ (s : State) (c : Byte) (a : Option W64), s.pilot = false → s.sup = true → s.frag.mask ≠ 0 → s.frag.crew < 64 → s.entry < 320 →
    Tbl.wf s.exe.frags = true → (s.fkey, s.frag) ∈ s.exe.frags →
    let t := s.moorAll c a none
    t.frag.state = .moored ∧ t.frag.cause = 0x13 ∧ (t.precinct s.myPrecinct).df = true
    ∧ (∀ f ∈ s.exe.frags, f.1 / 320 = s.core → f.2.crew = s.frag.crew → f.2.mask ≠ 0 → f.2.ctl.sup = true →
        (t.fragAt f.1).state = .moored ∧ (t.fragAt f.1).cause = 0x13)
    ∧ (∀ f ∈ s.exe.frags, f.2.ctl.sup = false → t.fragAt f.1 = f.2)

/-- R193, R370, R371: the moored fragment that takes the handling slot goes to the address of its cause's vector in supervisor mode;
`sys.fpc`, `sys.fcause` and `sys.fmask` hold its place, its cause and its lanes, and its join token is saved in a new one. -/
def HandlerEntry : Prop :=
  ∀ (s s1 : State) (core entry : Nat) (k : BitVec 12) (a : W64),
    let key := core * 320 + entry
    let f := s.fragAt key
    let s0 := { s with cur := .frag core entry }
    let p := s.precinctOfCore core
    f.mask ≠ 0 → f.state = .moored → (s.crewAt (core * 64 + f.crew)).handling = none → s.nextMoored core f.crew = some key →
    (s.precinct p).state = .running → s.mayGo p true = true → (s.gangOfFrag key f).aborted = false →
    s.freshToken core = some k → s0.readVector s0.me f.cause = (s1, some (some a)) → s1.cur = .frag core entry → s1.fragAt key = f →
    ∃ t : State, Gives (.handlerEntry core entry) s { t with cur := s.cur } ∧ t.cur = .frag core entry
      ∧ t.frag.state = .handling ∧ t.frag.token = k ∧ t.frag.mask = f.mask ∧ t.frag.cause = f.cause
      ∧ t.frag.ctl.pc = a.setWidth 52 ∧ t.frag.ctl.cpos = 0 ∧ t.frag.ctl.sup = true
      ∧ t.crew.handling = some k ∧ t.crew.saved = f.ctl
      ∧ t.crew.uni.fpc = BitVec.ofNat 64 (f.ctl.pc.toNat + f.ctl.cpos * 2 ^ 52)
      ∧ t.crew.uni.fcause = BitVec.ofNat 64 (f.cause.toNat + (if f.spec then 256 else 0) + (if f.whole then 512 else 0))
      ∧ t.crew.uni.fmask = f.xmask ++ (f.mask &&& ~~~f.xmask)
      ∧ t.crew.uni.sregs = s1.crew.uni.sregs ∧ t.crew.vregs = s1.crew.vregs
      ∧ (t.joinAt core k).jaddr = none ∧ (t.joinAt core k).ptoken = f.token ∧ t.mem = s1.mem

/-- R377: a Pilot thread that faults in user mode goes to its handler at once. -/
def PilotEntersHandler : Prop :=
  ∀ (s s2 : State) (c : Byte) (addr fpte : Option W64) (whole : Bool) (pc : BitVec 52) (cpos : Nat) (v : W64),
    let t1 := { s.thread with faddr := addr.getD s.thread.faddr, fpte := fpte.getD s.thread.fpte }
    s.thread.ctl.sup = false → (s.setThread t1).readVector (s.setThread t1).me c = (s2, some (some v)) →
    let t := s.pilotFault c addr fpte whole pc cpos
    t.thread.ctl.pc = v.setWidth 52 ∧ t.thread.ctl.cpos = 0 ∧ t.thread.ctl.sup = true
    ∧ t.thread.saved.pc = pc ∧ t.thread.saved.cpos = cpos ∧ t.thread.saved.sup = false
    ∧ t.thread.uni.fpc = BitVec.ofNat 64 (pc.toNat + cpos * 2 ^ 52)
    ∧ t.thread.uni.fcause = BitVec.ofNat 64 (c.toNat + if whole then 512 else 0)
    ∧ t.thread.faddr = addr.getD s.thread.faddr ∧ t.thread.fpte = fpte.getD s.thread.fpte ∧ t.mem = s2.mem

/-- R195, R339: RETT in user mode is a privilege fault; in a handler it frees the handling slot and goes back to the saved place, or
to the target that it names, with the token that the handler's entry saved. -/
def ReturnFromHandler : Prop :=
  (∀ (x : RI) (s0 : State),
    let r := s0.walk [x.a]
    let s := r.2
    let t := s.u64 r.1 none x.a
    (s.sup = false → Gives (.rett x) s0 (s.moorAll 0x11 none))
    ∧ (s.sup = true → s.qguard x.guard = false → Gives (.rett x) s0 (s.goAt s.fallPc))
    ∧ (s.sup = true → s.qguard x.guard = true → s.pilot = false → s.crew.handling ≠ some s.frag.token → Gives (.rett x) s0 (s.freeze 0x10 0))
    ∧ (s.sup = true → s.qguard x.guard = true → s.pilot = false → s.crew.handling = some s.frag.token →
        (x.sub.getLsbD 0 = false → Gives (.rett x) s0 (s.leaveHandler none).arriveHere)
        ∧ (x.sub.getLsbD 0 = true → Target s t → s.frag.xmask = 0 → Gives (.rett x) s0 (s.leaveHandler (some (t.setWidth 52))).arriveHere)
        ∧ (x.sub.getLsbD 0 = true → Target s t → s.frag.xmask ≠ 0 → Gives (.rett x) s0 (s.rettSplit (t.setWidth 52))))
    ∧ (s.sup = true → s.qguard x.guard = true → s.pilot = true →
        (x.sub.getLsbD 0 = false → Gives (.rett x) s0 (s.setThread { s.thread with ctl := { s.thread.saved with sup := false }, lastHold := false }))
        ∧ (x.sub.getLsbD 0 = true → Target s t → ∃ u : State, Gives (.rett x) s0 u ∧ u.thread.ctl.pc = t.setWidth 52
            ∧ u.thread.ctl.cpos = 0 ∧ u.thread.ctl.sup = false)))
  ∧ ∀ (s : State) (newpc : Option (BitVec 52)), s.pilot = false →
    let t := s.leaveHandler newpc
    t.frag.state = .ready ∧ t.frag.token = (s.joinAt s.core s.frag.token).ptoken ∧ t.frag.cause = 0 ∧ t.frag.mask = s.frag.mask
    ∧ t.crew.handling = none ∧ (t.joinAt s.core s.frag.token).used = false
    ∧ (newpc = none → t.frag.ctl = { s.crew.saved with sup := false })
    ∧ (∀ pc, newpc = some pc → t.frag.ctl.pc = pc ∧ t.frag.ctl.cpos = 0 ∧ t.frag.ctl.sup = false)
    ∧ t.crew.vregs = s.crew.vregs ∧ t.crew.uni = s.crew.uni ∧ t.mem = s.mem

/-- R34, R340, R372: SYSRD and SYSWR: in user mode a supervisor register is a privilege fault; else SYSRD writes the register, as one
value or lane by lane, and SYSWR writes it. -/
def SystemRegisters : Prop :=
  (∀ (x : II) (s : State),
    let i := (x.imm.extractLsb' 0 10).toNat
    let go (t : State) : State := { t with choices := t.choices + 32 }.advance 1
    (s.qguard x.guard = false → Gives (.sysrd x) s (s.advance 1))
    ∧ (s.qguard x.guard = true → State.supOnly i = true → s.sup = false → (s.pilot = false → s.frag.window = none) →
        Gives (.sysrd x) s (s.moorAll 0x11 none))
    ∧ (s.qguard x.guard = true → State.supOnly i = true → s.sup = false → s.pilot = false → s.frag.window ≠ none →
        Gives (.sysrd x) s (s.stall 5 .window))
    ∧ (s.qguard x.guard = true → (State.supOnly i = false ∨ s.sup = true) →
        (∀ n, x.d = .s n → x.sub.getLsbD 1 = true → Gives (.sysrd x) s (go (s.wrS64 x.d (s.sysRead i 0))))
        ∧ (∀ n, x.d = .s n → x.sub.getLsbD 1 = false → Gives (.sysrd x) s (go (s.wrS x.d ((s.sysRead i 0).extractLsb' 0 32))))
        ∧ (∀ n, x.d = .v n → x.sub.getLsbD 1 = true → Gives (.sysrd x) s (go (s.wrV64 n.toNat s.lanes fun L => s.sysRead i L)))
        ∧ (∀ n, x.d = .v n → x.sub.getLsbD 1 = false →
            Gives (.sysrd x) s (go (s.wrV n.toNat s.lanes fun L => (s.sysRead i L).extractLsb' 0 32)))))
  ∧ ∀ (x : II) (s0 : State),
    let r := s0.walk [x.a]
    let s := r.2
    let i := (x.imm.extractLsb' 0 10).toNat
    (s.qguard x.guard = false → Gives (.syswr x) s0 (s.advance 1))
    ∧ (s.qguard x.guard = true → State.supOnly i = true → s.sup = false → Gives (.syswr x) s0 (s.moorAll 0x11 none))
    ∧ (s.qguard x.guard = true → (State.supOnly i = false ∨ s.sup = true) →
        (x.sub.getLsbD 1 = true → Gives (.syswr x) s0 ((s.sysWrite i (s.u64 r.1 none x.a)).advance 1))
        ∧ (x.sub.getLsbD 1 = false → Gives (.syswr x) s0 ((s.sysWrite i ((s.u32 r.1 none x.a).setWidth 64)).advance 1)))

/-- R34, R173, R223, R340: what some system registers hold, and that what is written to one reads back through its defined bits. -/
def SystemRegisterValues : Prop :=
  ∀ (s : State) (L : Nat) (v : W64), s.pilot = false → s.frag.crew < 64 →
    s.sysRead 0x000 L = BitVec.ofNat 64 L ∧ s.sysRead 0x001 L = BitVec.ofNat 64 s.crew.idx ∧ s.sysRead 0x002 L = BitVec.ofNat 64 s.gang.id
    ∧ s.sysRead 0x003 L = BitVec.ofNat 64 s.clock ∧ s.sysRead 0x010 L = BitVec.ofNat 64 s.spn ∧ s.sysRead 0x011 L = BitVec.ofNat 64 s.isl
    ∧ s.sysRead 0x091 L = s.crew.uni.fpc ∧ s.sysRead 0x092 L = s.crew.uni.fcause ∧ s.sysRead 0x094 L = s.crew.uni.fmask
    ∧ s.sysRead 0x093 L = s.crew.faddr.get 0 L
    ∧ (s.sysWrite 0x080 v).sysRead 0x080 L = (v.extractLsb' 0 6).setWidth 64
    ∧ (s.sysWrite 0x081 v).sysRead 0x081 L = (v.extractLsb' 0 32).setWidth 64
    ∧ (s.sysWrite 0x090 v).sysRead 0x090 L = v &&& 0xFFFFFFFFFF801
    ∧ (v.getLsbD 63 = true → (s.sysWrite 0x071 v).sysRead 0x071 L = 0 ∧ (s.sysWrite 0x071 v).sysRead 0x072 L = 0)
    ∧ (v.getLsbD 63 = false → s.sysWrite 0x071 v = s)
    ∧ (∀ i, i ∈ [0x000, 0x001, 0x002, 0x003, 0x004, 0x010, 0x011, 0x012, 0x013, 0x060, 0x061, 0x062, 0x063, 0x068, 0x070, 0x072, 0x091, 0x092,
        0x093, 0x094, 0x0C0, 0x0C1, 0x0C2, 0x0C3] → s.sysWrite i v = s)

/-- R82, R83, R342: POOLPOP takes the frame at HEAD and moves HEAD on, an acquire at island scope; POOLPUSH puts one back before it, a release; an
empty pool stops the agent, or under `.try` says no, and a full one takes none; both are privileged and need a pool. The header, and the entry that is
used, stand in island memory and at their home, whole. -/
def PoolInstructions : Prop :=
  (∀ (x : RI) (s : State),
    let h := s.poolLoc
    let g := s.gatherPieces s.isl 0 true [(h, 128)]
    let s1 := g.1.countSoft s.me [(h, 128)]
    let head := Memory.readN s1.mem (h + 16) 4
    let e := s1.poolSlot h head
    let g2 := s1.gatherPieces s1.isl 0 true [(s1.poolLoc, 128), (s1.poolSlot s1.poolLoc head, 4)]
    let s2 := g2.1.countSoft s1.me [(s1.poolSlot s1.poolLoc head, 4)]
    (s.sup = false → Gives (.poolpop x) s (s.moorAll 0x11 none))
    ∧ (s.sup = true → s.qguard x.guard = false → Gives (.poolpop x) s (s.advance (RI.len x)))
    ∧ (s.sup = true → s.qguard x.guard = true → fld (s.precinct s.myPrecinct).fpool 0 1 = 0 → Gives (.poolpop x) s (s.moorAll 2 none))
    ∧ (s.sup = true → s.qguard x.guard = true → fld (s.precinct s.myPrecinct).fpool 0 1 = 1 → State.unbacked s.poolPA = false → s.relsLeft = [] →
        g.2 = true → g.1.badRead h 128 = false → s1.poolLoc = h →
        ((s1.poolBad h = true ∨ s1.poolCount h = 0) → x.sub.getLsbD 0 = true →
          Gives (.poolpop x) s ((((s1.poolEmpty h).wrQ x.c false).twinAcquire s1.me.id 3).advance (RI.len x)))
        ∧ ((s1.poolBad h = true ∨ s1.poolCount h = 0) → x.sub.getLsbD 0 = false →
          let u := s1.poolEmpty h
          Gives (.poolpop x) s (if u.pilot then u.setThread { u.thread with state := .wait, waitFor := .doorbell }
            else u.setFrag { u.frag with state := .moored, wait := 0, waitFor := .doorbell, order := u.exe.orders + 1 }))
        ∧ (s1.poolBad h = false → s1.poolCount h ≠ 0 → State.unbacked (s1.slotPA h head) = false → g2.2 = true → g2.1.badRead e 4 = false →
          let u := (s2.poolTake h).1.wrS x.d (s2.poolTake h).2
          Gives (.poolpop x) s (((if x.sub.getLsbD 0 then u.wrQ x.c true else u).twinAcquire s1.me.id 3).advance (RI.len x)))))
  ∧ ∀ (x : RI) (s0 : State),
    let r := s0.walk [x.a]
    let s := r.2
    let f := s.u32 r.1 x.lit x.a
    let h := s.poolLoc
    let g := s.gatherPieces s.isl 0 true [(h, 128)]
    let s1 := g.1.countSoft s.me [(h, 128)]
    let k := s1.slotBefore h
    let e := s1.poolSlot h k
    let g2 := s1.gatherPieces s1.isl 0 true [(s1.poolLoc, 128), (s1.poolSlot s1.poolLoc k, 4)]
    let s2 := g2.1.countSoft s1.me [(s1.poolSlot s1.poolLoc k, 4)]
    (s.sup = false → Gives (.poolpush x) s0 (s.moorAll 0x11 none))
    ∧ (s.sup = true → s.qguard x.guard = false → Gives (.poolpush x) s0 (s.advance (RI.len x)))
    ∧ (s.sup = true → s.qguard x.guard = true → fld (s.precinct s.myPrecinct).fpool 0 1 = 0 → Gives (.poolpush x) s0 (s.moorAll 2 none))
    ∧ (s.sup = true → s.qguard x.guard = true → fld (s.precinct s.myPrecinct).fpool 0 1 = 1 → 0x800000 ≤ f.toNat →
        Gives (.poolpush x) s0 (s.moorAll 2 none))
    ∧ (s.sup = true → s.qguard x.guard = true → fld (s.precinct s.myPrecinct).fpool 0 1 = 1 → f.toNat < 0x800000 → s.relsLeft = [] →
        s.released 3 = true → State.unbacked s.poolPA = false → g.2 = true → g.1.badRead h 128 = false → s1.poolLoc = h →
        (s1.poolFull h = true → Gives (.poolpush x) s0 ((s1.wrQ x.d false).advance (RI.len x)))
        ∧ (s1.poolFull h = false → State.unbacked (s1.slotPA h k) = false → g2.2 = true → g2.1.badRead e 4 = false →
          Gives (.poolpush x) s0 ((((s2.poolPut h f).wrQ x.d true).twinRelease s1.me.id 3).advance (RI.len x))))

/-- R83: a frame put back stands at the new HEAD, one before the old; a frame taken is the one at HEAD, which moves on by one; EMPTYEV is cleared, and
LOWEV set, with event 3 the first time, when fewer than LOW are left. -/
def PoolRing : Prop :=
  (∀ (s : State) (h : Nat) (f : W32), Memory.wf s.mem = true →
    let head := Memory.readN s.mem (h + 16) 4
    let new := (head + 2 ^ 32 - 1) % 2 ^ 32
    let at_ := s.poolSlot h new
    let u := s.poolPut h f
    u = { s with mem := u.mem } ∧ Memory.readN u.mem at_ 4 = f.toNat
      ∧ ((at_ + 4 ≤ h + 16 ∨ h + 20 ≤ at_) → Memory.readN u.mem (h + 16) 4 = new)
      ∧ ∀ a, (a < h + 16 ∨ h + 20 ≤ a) → (a < at_ ∨ at_ + 4 ≤ a) → Memory.read u.mem a = Memory.read s.mem a)
  ∧ ∀ (s : State) (h : Nat), Memory.wf s.mem = true →
    let head := Memory.readN s.mem (h + 16) 4
    let low : Bool := s.poolCount h - 1 < Memory.readN s.mem (h + 12) 4
    let first : Bool := Memory.readN s.mem (h + 24) 4 / 2 % 2 = 0
    let r := s.poolTake h
    r.2 = BitVec.ofNat 32 (Memory.readN s.mem (s.poolSlot h head) 4)
      ∧ ∃ u : State, u = { s with mem := u.mem } ∧ Memory.readN u.mem (h + 16) 4 = (head + 1) % 2 ^ 32
        ∧ Memory.readN u.mem (h + 24) 4 = (if low then 2 else 0)
        ∧ (∀ a, (a < h + 16 ∨ (h + 20 ≤ a ∧ a < h + 24) ∨ h + 28 ≤ a) → Memory.read u.mem a = Memory.read s.mem a)
        ∧ r.1 = (if low && first then u.poolEvent 3 else u)

end Sys2Proof.Claims

/-! Clauses, waking, the Pilot, the Tender, tasks and gangs. -/

namespace Sys2Proof.Claims

open Sys2Proof Sys2Proof.Machine

/-- R211, R212: a header's clause begins when no flag of its WAIT mask counts, which is tested once, and the increments of its operations fit; else
it waits; a Pilot has no flags. -/
def ClauseBegins : Prop :=
  ∀ (h : Header) (s : State),
    let s1 := s.setCtl { s.ctl with hdr := h }
    let n := s1.classes 1
    let late : Prop := ∃ k, k < 12 ∧ h.wait.getLsbD k = true ∧ State.flag s.crew k ≠ 0
    (s.pilot = true → Gives (.clauseHeader h) s (s.setCtl { s.ctl with hdr := h, cpos := 1, wrv := none }))
    ∧ (s.pilot = false → s.frag.errs = [] → s.frag.tested = false → late → Gives (.clauseHeader h) s (s.stall 3 (.flags h.wait)))
    ∧ (s.pilot = false → s.frag.errs = [] → (¬ late ∨ s.frag.tested = true) → State.runFits s.crew (State.runFlags h n) = false →
        Gives (.clauseHeader h) s ((s.setFrag { s.frag with tested := true }).stall 3 (.fits (State.runFlags h n))))
    ∧ (s.pilot = false → s.frag.errs = [] → (¬ late ∨ s.frag.tested = true) → State.runFits s.crew (State.runFlags h n) = true →
        ∃ t : State, Gives (.clauseHeader h) s t.noteIssue ∧ t.frag.ctl.pc = s.frag.ctl.pc ∧ t.frag.ctl.cpos = 1 ∧ t.frag.ctl.hdr = h
          ∧ t.frag.mask = s.frag.mask ∧ t.frag.state = s.frag.state ∧ t.crew.vregs = s.crew.vregs ∧ t.crew.uni = s.crew.uni ∧ t.mem = s.mem
          ∧ ∀ k, k < 12 → State.flag t.crew k = State.flag s.crew k + (if h.seta.toNat = k ∧ n.1 ≠ 0 then 1 else 0)
              + (if h.setb.toNat = k ∧ n.2 ≠ 0 then 1 else 0))

/-- R188: a waiting fragment or thread goes on when what it waits for has come about, and not before. -/
def Waking : Prop :=
  (∀ (s : State) (c e : Nat),
    let s1 := { s with cur := Agent.frag c e }
    let f := s.fragAt (c * 320 + e)
    f.mask ≠ 0 → f.state = .waiting → f.window = none → s1.mayGo s1.myPrecinct true = true → (s1.gangOfFrag s1.fkey f).aborted = false →
    (∀ k ph, f.waitFor ≠ .barrier k ph) → f.waitFor ≠ .window →
    (s1.waitOver f.waitFor = false → Gives (.fragmentWake (.frag c e)) s s)
    ∧ (s1.waitOver f.waitFor = true → ∃ t : State, Gives (.fragmentWake (.frag c e)) s t ∧ t = { s with exe.frags := t.exe.frags }
        ∧ (t.fragAt (c * 320 + e)).state = (if f.ctl.sup then .handling else .ready) ∧ (t.fragAt (c * 320 + e)).ctl = f.ctl
        ∧ (t.fragAt (c * 320 + e)).mask = f.mask ∧ (t.fragAt (c * 320 + e)).age = s.clock
        ∧ ∀ k, k ≠ c * 320 + e → t.fragAt k = s.fragAt k))
  ∧ ∀ (s : State) (k i : Nat),
    let s1 := { s with cur := Agent.pilot k i }
    let th := s1.thread
    s1.mayGo (s1.precinctOf k) true = true → (s1.precinct (s1.precinctOf k)).aborts = [] → th.state = .wait →
    (s1.waitOver th.waitFor = true →
      Gives (.fragmentWake (.pilot k i)) s { s1.setThread { th with state := .running, waitFor := .none } with cur := s.cur })
    ∧ (s1.waitOver th.waitFor = false → Gives (.fragmentWake (.pilot k i)) s s)

/-- R343, R344: EVPOP and EVWAIT take the oldest record that no waiting EVWAIT is to take into eight registers; with none, EVPOP says so and EVWAIT
waits in its turn. -/
def EventQueue : Prop :=
  (∀ (x : RI) (s : State),
    (s.qguard x.guard = false → Gives (.evpop x) s (s.advance (RI.len x)) ∧ Gives (.evwait x) s (s.advance (RI.len x)))
    ∧ (s.qguard x.guard = true → s.recordFree = true →
        Gives (.evpop x) s (((s.popInto (s.evWaiters s.cluster).length x.d).wrQ x.c true).advance (RI.len x))
          ∧ Gives (.evwait x) s ((s.popInto (s.evWaiters s.cluster).length x.d).advance (RI.len x)))
    ∧ (s.qguard x.guard = true → s.recordFree = false → Gives (.evpop x) s ((s.wrQ x.c false).advance (RI.len x)))
    ∧ (∀ n, s.qguard x.guard = true → s.recordFree = false → x.d = .s n → ∃ t : State, Gives (.evwait x) s t
        ∧ t.thread.state = .evwait (s.exe.orders + 1) n.toNat (RI.len x) ∧ t.thread.ctl = s.thread.ctl ∧ t.exe.orders = s.exe.orders + 1))
  ∧ ∀ (s : State) (i : Nat) (n : BitVec 7) (r : List Byte), (s.pilotQ s.cluster).peq[i]? = some r →
      (((s.popInto i (.s n)).pilotQ s.cluster).peq = (s.pilotQ s.cluster).peq.eraseIdx i)
      ∧ ∀ k, k < 8 → (s.popInto i (.s n)).rdS (n.toNat + k) = BitVec.ofNat 32 (natOf ((r.drop (4 * k)).take 4))

/-- R346: HALT stops the thread after the instruction, with event 11; IDLE waits while no record stands in the queue. -/
def HaltAndIdle : Prop :=
  ∀ (x : RI) (s : State),
    (s.qguard x.guard = false → Gives (.halt x) s (s.advance 1) ∧ Gives (.idle x) s (s.advance 1))
    ∧ (s.qguard x.guard = true → ∃ t : State, Gives (.halt x) s t ∧ t.thread.state = .halted)
    ∧ (s.qguard x.guard = true → s.thread.idleDone = false → (s.pilotQ s.cluster).peq = [] →
        Gives (.idle x) s (s.setThread { s.thread with state := .idle }))
    ∧ (s.qguard x.guard = true → (s.thread.idleDone = true ∨ (s.pilotQ s.cluster).peq ≠ []) →
        Gives (.idle x) s ((s.setThread { s.thread with idleDone := false }).advance 1))

/-- R345, R357: a TLAUNCH of a grid with no dependency block and no circuits, when the window has room, puts a task with a fresh id
into the window and gives the id; with a full window it waits, or under `.try` says no. -/
def TaskLaunch : Prop :=
  (∀ (x : RI) (s0 s1 s2 s3 : State) (q : Res) (rec kb : List Byte),
    let r := s0.walk [x.a]
    let s := r.2
    let a := s.u64 r.1 x.lit x.a
    (s.qguard x.guard = false → Gives (.tlaunch x) s0 (s.advance (RI.len x)))
    ∧ (∀ c p, s.qguard x.guard = true → s.resolve s.me a 128 .load = (s1, .fault c p) → Gives (.tlaunch x) s0 (s1.moorAll c (some a) (some p)))
    ∧ (s.qguard x.guard = true → s.resolve s.me a 128 .load = (s1, q) → (∀ c p, q ≠ .fault c p) → s1.released 3 = true →
        s1.threadRead a 128 = (s2, .ok rec) → 256 ≤ (s2.windowOf s2.isl).length →
        (x.sub.getLsbD 0 = true → Gives (.tlaunch x) s0 ((s2.wrQ x.c false).advance (RI.len x)))
        ∧ (x.sub.getLsbD 0 = false → Gives (.tlaunch x) s0 (s2.stall 7 .room)))
    ∧ (s.qguard x.guard = true → s.resolve s.me a 128 .load = (s1, q) → (∀ c p, q ≠ .fault c p) → s1.released 3 = true →
        s1.threadRead a 128 = (s2, .ok rec) → (s2.windowOf s2.isl).length < 256 → recFlag rec 6 = false →
        s2.threadRead (BitVec.ofNat 64 (recF rec 0 8 % 2 ^ 52)) 64 = (s3, .ok kb) → recF rec 88 8 % 2 ^ 52 = 0 → recF rec 96 8 % 2 ^ 52 = 0 →
        let t : Task := { isl := s3.isl, id := 0, tag := 0, spn := s3.spn, precinct := s3.myPrecinct, sup := s3.sup, prio := recF rec 80 1 % 4,
                          origin := none, pilot := some s3.cluster, record := rec, kdesc := kb, deps := [], circ := [], order := 0 }
        let l := s3.launchTask t false
        let u := (l.1.setThread { l.1.thread with ptask := l.2 }).wrS x.d l.2
        (x.sub.getLsbD 0 = false → Gives (.tlaunch x) s0 (u.advance (RI.len x)))
        ∧ (x.sub.getLsbD 0 = true → Gives (.tlaunch x) s0 ((u.wrQ x.c true).advance (RI.len x)))))
  ∧ ∀ (s : State) (t : Task),
      let id := s.mgt.nextTask.get 0 t.isl + 1
      let l := s.launchTask t false
      let u : Task := { t with id := id, tag := s.mgt.nextTag, state := .held, order := s.exe.orders + 1 }
      id ≠ 0 → s.mgt.nextTag + 1 ≠ 0 →
      l.2 = id
      ∧ ∃ v : State, (v.taskBad s.taskKey u = none → l.1 = v) ∧ v.task s.taskKey = some u
          ∧ v.mgt.nextTag = s.mgt.nextTag + 1 ∧ v.mgt.nextTask.get 0 t.isl = id ∧ v.exe.frags = s.exe.frags ∧ v.mem = s.mem

/-- R324: KICK puts its records, 64 bytes apart, at the end of the Tender's queue; one that fails a check is a fragment-wide fault. -/
def TenderKick : Prop :=
  ∀ (x : RI) (s0 : State),
    let r := s0.walk [x.a, x.b]
    let s := r.2.sweepReqs r.2.core
    let a := s.u64 r.1 x.lit x.a
    let n := (s.u32 r.1 x.lit x.b).toNat
    let loc := s.spLoc s.me (a.toNat - fld (s.apReg s.me 1) 23 29 * 2 ^ 23)
    (s.acts x.guard = false → Gives (.kick x) s0 (s.advance (RI.len x)))
    ∧ (∀ c, s.acts x.guard = true → s.kickFault a n = some c → Gives (.kick x) s0 (s.moorAll c (some a)))
    ∧ (s.acts x.guard = true → s.kickFault a n = none → ((s.tender s.core).filter (!·.started)).length + n ≤ 1024 →
        ∃ t : State, Gives (.kick x) s0 (t.advance (RI.len x)) ∧ (t.tender s.core).take (s.tender s.core).length = s.tender s.core
          ∧ (t.tender s.core).length = (s.tender s.core).length + n ∧ t.mem = s.mem ∧ t.exe.crews = s.exe.crews
          ∧ ∀ i, i < n → ∃ q, (t.tender s.core)[(s.tender s.core).length + i]? = some q ∧ q.loc = loc + 64 * i ∧ q.started = false
              ∧ q.crew = s.ckey ∧ q.sup = s.sup)

/-- R59, R325 to R328: the Tender starts its next request: one whose record is uncorrectable ends with cause 0x04, a malformed one with
STATUS 0x20, one that fails another check with that check's cause, and else its granules begin. -/
def TenderStarts : Prop :=
  ∀ (s0 : State) (core : Nat) (r0 : TReq),
    let s := s0.sweepReqs core
    let r := { r0 with started := true, words := Memory.readBytes s.mem r0.loc 64 }
    let t := tenderRec r.words
    s.nextReq core = some r0 →
    (s.badRead r0.loc 64 = true → Gives (.tenderRequestStart core) s0 (s.finishReq core { r with words := [] } 4 0))
    ∧ (s.badRead r0.loc 64 = false →
        (t.malformed ((s.gangAt r.gang).spSize * 2048) = true →
            Gives (.tenderRequestStart core) s0 (s.finishReq core r 0x20 (t.total % 2 ^ 32)))
        ∧ (t.malformed ((s.gangAt r.gang).spSize * 2048) = false → (t.sphys || t.dphys) = true → r.sup = false →
            Gives (.tenderRequestStart core) s0 (s.finishReq core { r with fault := some 0x11 } 0x11 t.total))
        ∧ (t.malformed ((s.gangAt r.gang).spSize * 2048) = false → ((t.sphys || t.dphys) = false ∨ r.sup = true) → t.remote = true →
            s.usable (core / 128) t.island = false →
            Gives (.tenderRequestStart core) s0 (s.finishReq core { r with fault := some 6 } 6 t.total))
        ∧ (t.malformed ((s.gangAt r.gang).spSize * 2048) = false → ((t.sphys || t.dphys) = false ∨ r.sup = true) →
            (t.remote = false ∨ s.usable (core / 128) t.island = true) →
            Gives (.tenderRequestStart core) s0 (State.startGranules 8 (s.setReq core r) core r.id)))

/-- R326, R327: a granule whose stretches can all be moved is moved and counted; a stretch between two places of on-chip storage puts its
source's bytes, or the repeated pattern of a fill, at its destination, and changes no other byte. -/
def TenderGranule : Prop :=
  (∀ (s s1 s2 : State) (core id k : Nat) (r r1 : TReq) (g : GRes),
    let t := tenderRec r.words
    (s.precinct (s.precinctOfCore core)).state = .running → (s.tender core).find? (·.id = id) = some r → k ∈ r.flight →
    s.resolveGranule core r t k = (s1, g) → (g.todo.any State.rowHost = false ∨ s1.reqForked r 5 = true) →
    State.moveRows r t k g.todo.length g.todo s1 = (s2, [], []) → g.out = [] →
    (s2.tender core).find? (·.id = id) = some r1 → s2.hostOwes (State.ownGran id k) = false →
    Gives (.tenderGranuleDone core id k) s (s2.endGranule core r1 t k g.fault))
  ∧ (∀ (s : State) (core k : Nat) (r : TReq) (t : TRec), r.fault = none → t.counts? = false →
      let r2 := { r with flight := r.flight.erase k, granules := r.granules.filter (·.k ≠ k) }
      (r2.flight ≠ [] → s.endGranule core r t k none = s.setReq core r2)
      ∧ (r2.flight = [] → r.next < t.granules → s.endGranule core r t k none = s.setReq core r2)
      ∧ (r2.flight = [] → t.granules ≤ r.next → s.endGranule core r t k none = s.finishReq core r2 0 0)
      ∧ (∀ c, r2.flight ≠ [] → s.endGranule core r t k (some c) =
          s.setReq core { r2 with fault := some c, failedBytes := r.failedBytes + t.granuleBytes k }))
  ∧ ∀ (s : State) (r : TReq) (t : TRec) (k : Nat) (q : Row) (a l : Nat), Memory.wf s.mem = true → t.remote = false → q.dst = [(l, q.n)] → isGlobal l = false → isGlobal a = false →
      (t.op = 3 → q.src = []) → (t.op ≠ 3 → q.src = [(a, q.n)]) →
      ∃ u : State, s.moveGroup r t k [q] = (u, some [])
        ∧ (t.op ≠ 3 → Memory.readBytes u.mem l q.n = Memory.readBytes s.mem a q.n)
        ∧ (t.op = 3 → ∀ i, i < q.n → Memory.read u.mem (l + i) = t.src.extractLsb' (8 * ((q.t + i) % 8)) 8)
        ∧ (∀ b, (b < l ∨ l + q.n ≤ b) → Memory.read u.mem b = Memory.read s.mem b)
        ∧ u.exe = s.exe ∧ u.eng = s.eng

/-- R328, R330, R343: STATUS is written where the record says and kept as the request's result, and the one record that waits for a Pilot is
posted when there is room. -/
def TenderReports : Prop :=
  (∀ (s : State) (core : Nat) (r : TReq) (st : Byte) (n : Nat), Memory.wf s.mem = true → (tenderRec r.words).counts? = false →
    let t := s.finishReq core r st n
    Memory.readN t.mem (r.loc + 62) 2 = st.toNat
    ∧ ∀ a, (a < r.loc + 62 ∨ r.loc + 64 ≤ a) → Memory.read t.mem a = Memory.read s.mem a)
  ∧ (∀ (s : State) (cl : Nat) (d : List Byte), (s.pilotQ cl).peq.length < 256 → (s.precinct (s.precinctOf cl)).state = .running →
      s.eng.peqDue = [(cl, d)] → s.reqsDue cl = [] →
      ∃ t : State, Gives (.peqPost cl) s t ∧ t.eng.peqDue = [] ∧ t.mem = s.mem
        ∧ (t.pilotQ cl).peq = (s.pilotQ cl).peq ++ [d.take 16 ++ byteList 8 s.clock ++ d.drop 24]
        ∧ ∀ th ∈ s.exe.threads, th.1 / 4 = cl → th.2.state = .idle → (th.1, { th.2 with state := .running, idleDone := true, stop := !s.mayGo (s.precinctOf cl) true }) ∈ t.exe.threads)
  ∧ ∀ (s : State) (cl core : Nat) (r : TReq), (s.pilotQ cl).peq.length < 256 → (s.precinct (s.precinctOf cl)).state = .running →
      s.eng.peqDue = [] → s.reqsDue cl = [(core, r)] →
      let x := tenderRec r.words
      ∃ t : State, Gives (.peqPost cl) s t ∧ t.mem = s.mem ∧ t.tender core = (s.tender core).filter (·.id ≠ r.id)
        ∧ (t.pilotQ cl).peq = (s.pilotQ cl).peq ++
            [State.peqRecord 1 r.status.toNat (core % 128) x.evt (x.total % 2 ^ 32) 0 s.clock 0]

/-- R358, R360: a task of a LAUNCH enters a window that has room, with a fresh id; a task without dependencies is ready. -/
def TaskWindow : Prop :=
  (∀ (s : State) (isl k : Nat) (t : Task), (s.windowOf isl).length < 256 →
      s.mgt.tasks.filter (fun u => u.2.isl = isl && u.2.state = .entering) = [(k, t)] → s.mgt.nextTask.get 0 isl + 1 ≠ 0 →
      ∃ u : State, Gives (.taskEnterWindow isl) s u ∧ u.mem = s.mem
        ∧ u.task k = some { t with id := s.mgt.nextTask.get 0 isl + 1, state := .held, order := s.exe.orders + 1 })
  ∧ (∀ (s : State) (isl : Nat), 256 ≤ (s.windowOf isl).length → Gives (.taskEnterWindow isl) s s)
  ∧ ∀ (s : State) (isl k : Nat) (t : Task), s.task k = some t → t.isl = isl → t.state = .held → t.deps = [] →
      Gives (.taskReady isl k) s (s.putTask k { t with state := .ready })

/-- R361, R362: the head task of a precinct that runs has its next gang placed where there is room. -/
def GangPlacement : Prop :=
  ∀ (s s1 : State) (isl k : Nat) (t : Task), s.task k = some t → t.isl = isl → s.placing t.precinct = true →
    (∃ h, s.headTask t.precinct = some (k, h)) → (needOf t.record t.kdesc).pilot = false → (needOf t.record t.kdesc).cor = false →
    (s.placeNext k = some s1 → Gives (.gangPlace isl k) s ((s1.askOnPlace k t).placedAll k).noteRooms)
    ∧ (s.placeNext k = none → Gives (.gangPlace isl k) s (s.putTask k { t with searched := true, rooms := if t.searched then t.rooms else [] }).noteRooms)

/-- R37, R42, R184, R186: a gang of one crew, placed: its crew's lanes are live, its fragment stands at the kernel's entry in the
crew's base entry with no join, its registers are zero, and its scratchpad reads as zero. -/
def PlacedGang : Prop :=
  ∀ (s : State) (tk gid core slot base : Nat) (t : Task) (n : Need) (f : State.Fit), f.crews = [(slot, base)] → slot < 64 → f.slot < 16 →
    let u := (s.allocGang tk t n gid core f).1
    let c := u.crewAt (core * 64 + slot)
    let g := u.gangAt (core * 16 + f.slot)
    (∀ L, L < 32 → c.live.getLsbD L = decide (L < (n.lanes + 3) / 4 * 4)) ∧ (∀ L, L < 32 → c.helpers.getLsbD L = decide (n.lanes ≤ L ∧ L < (n.lanes + 3) / 4 * 4))
    ∧ c.idx = 0 ∧ c.gang = f.slot ∧ c.vregs = [] ∧ c.uni = {} ∧ c.preds = [] ∧ c.flags = [] ∧ c.handling = none
    ∧ (u.fragAt (core * 320 + slot)).mask = c.live ∧ (u.fragAt (core * 320 + slot)).token = 0 ∧ (u.fragAt (core * 320 + slot)).state = .ready
    ∧ (u.fragAt (core * 320 + slot)).ctl.pc = BitVec.ofNat 52 n.entry ∧ (u.fragAt (core * 320 + slot)).ctl.cpos = 0
    ∧ (u.fragAt (core * 320 + slot)).ctl.sup = false
    ∧ g.id = gid ∧ g.lanes = n.lanes ∧ g.spSize = spOf n ∧ g.spBase = f.sp ∧ g.left = 0 ∧ g.task = tk
    ∧ (∀ o, o < spOf n * 2048 → Memory.read u.mem (locScratch core (f.sp * 2048) + o) = 0)

/-- R133, R207: a gang whose lanes have left, whose record is written and whose operations have joined is freed: its slot, its crews
and its room. -/
def GangFreed : Prop :=
  (∀ (s : State) (gk : Nat),
    let s1 := s.sweepReqs (gk / 16)
    (s.gangAt gk).used = true → (s.gangAt gk).left = (s.gangAt gk).lanes → (s.gangAt gk).written = true → s1.gangJoined gk = true →
    Gives (.gangFree gk) s
      (State.placeWaiting (s1.precinctOfCore (gk / 16)) 64 ((s1.releaseGang gk).countFreed (s.gangAt gk).task).noteRooms))
  ∧ (∀ (s : State) (gk : Nat), (s.gangAt gk).used = false ∨ (s.gangAt gk).left ≠ (s.gangAt gk).lanes → Gives (.gangFree gk) s s)
  ∧ ∀ (s : State) (gk : Nat), Tbl.wf s.exe.gangs = true →
      let u := s.releaseGang gk
      u.exe.gangs.find gk = none ∧ (∀ j, j ≠ gk → u.gangAt j = s.gangAt j)
      ∧ (∀ slot ∈ (s.gangAt gk).crews, u.exe.crews.find (gk / 16 * 64 + slot) = none) ∧ u.mem = s.mem ∧ u.exe.frags = s.exe.frags

end Sys2Proof.Claims

/-! Island operations and the panel fabric. -/

namespace Sys2Proof.Claims

open Sys2Proof Sys2Proof.Machine

/-- The island-operation instructions. -/
def islandOps : List ((EI → Instr) × OpKind) :=
  [(.put, .put), (.puts, .puts), (.get, .get), (.radd, .radd), (.notify, .notify)]

/-- The first register of the operands' block (R304). -/
def blockOf (x : EI) : Nat := match x.b with | .s k => k.toNat | _ => 0

/-- R141, R303 to R305: an island-operation instruction with no lane is over at once; a failing check faults each lane that takes part;
else the lane's operation enters the source's table with the addresses and values the instruction names, and the agent goes on. -/
def OperationsIssue : Prop :=
  ∀ p ∈ islandOps, ∀ (x : EI) (s0 s1 : State) (L : Nat),
    let r := s0.walk [x.d, x.a]
    let s := r.2
    let b := blockOf x
    let parts := (s.mlanes x.guard).filter s.ordinary
    let id := (s.rdS b).toNat
    let lc := s.rdS64 (b + 2)
    let moves : Bool := p.2 = .put ∨ p.2 = .puts ∨ p.2 = .get
    let len := if moves then (s.rdS (b + 1)).toNat else 0
    let ta : W64 := if p.2 = .notify then 0 else if p.2 = .get then s.v64 r.1 none x.a L else s.v64 r.1 none x.d L
    let la : W64 := if p.2 = .get then s.v64 r.1 none x.d L else if moves then s.v64 r.1 none x.a L else 0
    let f := s.issueFault (s.rdS b) lc len (x.sub.toNat / 16 % 4) (s.rdS (b + 4))
    (parts = [] → Gives (p.1 x) s0 (s.advance 1))
    ∧ (parts = [L] → (∀ c, f = some (c, 0) → Gives (p.1 x) s0 (s.settle [{ lane := L, cause := c, addr := some ta }] 1))
        ∧ (∀ c, f = some (c, 1) → Gives (p.1 x) s0 (s.settle [{ lane := L, cause := c, addr := some lc }] 1))
        ∧ (∀ c, f = some (c, 2) → Gives (p.1 x) s0 (s.settle [{ lane := L, cause := c, addr := some la }] 1)))
    ∧ (parts = [L] → f = none → s.parkWait = false → (p.2 = .radd → ta.toNat % raddSize (x.sub.toNat / 4 % 4) = 0) →
        State.localRanges s.me (if p.2 = .get then .store else .load) len (if moves then [(L, la)] else []) s = (s1, some []) →
        s1.opsOf s1.pilot (if s1.pilot then s1.cluster else s1.core) + 1 ≤ (if s1.pilot then 64 else 256) →
        ∃ (t : State) (k : Nat) (o : IslOp), Gives (p.1 x) s0 (t.advance 1) ∧ t.eng.ops = s1.eng.ops.put k o ∧ t.mem = s1.mem
          ∧ t.exe.crews = s1.exe.crews ∧ o.kind = p.2 ∧ o.dest = id ∧ o.ta = ta ∧ o.la = la ∧ o.lane = L ∧ o.len = len ∧ o.sup = s1.sup ∧ o.spn = s1.spn
          ∧ o.n = s1.rdS (b + 5) ∧ o.inc = s1.rdS (b + 6) ∧ o.entry = (if s1.pilot then s1.chart s1.isl id else s1.entryFor s1.isl s1.gangKey id) ∧ o.sent = 0 ∧ o.localDone = false)

/-- R144, R145, R154, R306, R307: WAITN and TESTN compare a counter of the precinct with a threshold as a signed difference; RFENCE
goes on when no operation issued before it is left. -/
def NotifyWaits : Prop :=
  (∀ (x : RI) (s0 : State),
    let r := s0.walk [x.a, x.b]
    let s := r.2
    let n := (s.u32 r.1 x.lit x.a).toNat
    let t := s.u32 r.1 x.lit x.b
    let k := s.counterKey s.myPrecinct n
    let yes : Bool := 0 ≤ (s.counter k - t).toInt
    let acq (u : State) : State := if yes then u.twinAcquire u.me.id (x.subN % 8) else u
    (s.acts x.guard = false → Gives (.waitn x) s0 (s.advance (RI.len x)) ∧ Gives (.testn x) s0 (s.advance (RI.len x)))
    ∧ (s.acts x.guard = true → (s.precinct s.myPrecinct).ncount ≤ n → Gives (.waitn x) s0 (s.moorAll 2 none) ∧ Gives (.testn x) s0 (s.moorAll 2 none))
    ∧ (s.acts x.guard = true → n < (s.precinct s.myPrecinct).ncount →
        (yes = true → Gives (.waitn x) s0 ((acq s).advance (RI.len x)))
        ∧ (yes = false → Gives (.waitn x) s0 (s.stall 4 (.notify k t)))
        ∧ (s.pilot = true → Gives (.testn x) s0 ((acq (s.wrQ x.d yes)).advance (RI.len x)))
        ∧ (s.pilot = false → Gives (.testn x) s0 ((acq (s.wrP x.d (s.act x.guard) fun _ => yes)).advance (RI.len x)))))
  ∧ ∀ (x : RI) (s : State), s.acts x.guard = true → (s.pilot = false → s.frag.errs = []) →
    ((∀ o ∈ s.eng.ops, s.mine o.2 = false) → Gives (.rfence x) s ((s.twinAcquire s.me.id 4).advance 1))
    ∧ ((∃ o ∈ s.eng.ops, s.mine o.2 = true) → Gives (.rfence x) s (s.stall 5 .rfence))

/-- R131, R147: at its source an operation reads and sends a piece when what comes before it is performed; with the last piece of
anything but a GET its bytes are counted. -/
def SourceSends : Prop :=
  ∀ (s s1 : State) (k n : Nat) (o : IslOp) (bs : List Byte) (last : Bool), s.eng.ops.find k = some o →
    State.nextPiece o = (n, last) →
    ((State.unsent o = false ∨ s.forked o = false ∨ s.creditReady o = false) → Gives (.islandOpLocalComplete k) s s)
    ∧ (State.unsent o = true → s.forked o = true → s.creditReady o = true →
        (∀ c, s.readSource k o n = .fault s1 c → Gives (.islandOpLocalComplete k) s (((s1.countLocal k 1).failRemote o c o.la).endOp k))
        ∧ (∀ p, s.readSource k o n = .ok s1 bs → (s1.emit k o last bs).eng.ops.find k = some p →
            let s2 := s1.emit k o last bs
            let q := { p with begun := true, sent := o.sent + n, lastSeen := s.clock, parked := none }
            (last = true → o.kind ≠ .get → Gives (.islandOpLocalComplete k) s ({ s2 with eng.ops := s2.eng.ops.put k q }.countLocal k 0))
            ∧ ((last = false ∨ o.kind = .get) → Gives (.islandOpLocalComplete k) s { s2 with eng.ops := s2.eng.ops.put k q })))

/-- R28, R143, R152, R153, R158: at its target a PUT's bytes are written where its address resolves, or it fails with the cause of its fault;
a NOTIFY raises its counter by its increment and is acknowledged; an arrival for a precinct that is swapped out is held while there is room, and
placed when it is not. -/
def TargetPerforms : Prop :=
  (∀ (s : State) (isl n : Nat) (a : Arr), s.eng.arrivals.find n = some a → a.isl = isl →
    (a.held = false → a.done = false → s.arrHeld a = true → s.arrFull isl = false →
      Gives (.islandOpArrival isl n) s { s with eng.arrivals := s.eng.arrivals.put n { a with held := true } })
    ∧ (a.held = false → a.done = false → s.arrHeld a = true → a.parked = none → s.arrFull isl = true → Gives (.islandOpArrival isl n) s s)
    ∧ (a.held = false → a.done = false → s.arrHeld a = false → Gives (.islandOpArrival isl n) s (s.performArr n a))
    ∧ (a.held = false → a.done = true → Gives (.islandOpArrival isl n) s (s.doneArr n a))
    ∧ (a.held = true → s.arrHeld a = true → Gives (.heldArrivalPlace isl n) s s)
    ∧ (a.held = true → s.arrHeld a = false → ∃ t : State, t = { s with eng.arrivals := s.eng.arrivals.put n { a with held := false } }
        ∧ Gives (.heldArrivalPlace isl n) s (t.performArr n { a with held := false })))
  ∧ (∀ (s s1 : State) (n : Nat) (a : Arr), (s.ctx a.isl a.desc.spn.toNat).live = true → (a.desc.kind = .put ∨ a.desc.kind = .puts) →
      a.parked = none → s.arrFull a.isl = false → a.res = none →
      (∀ ls ca s2, s.resolveRange (State.arrWho a) .remoteWrite 0 (a.desc.ta + BitVec.ofNat 64 a.ofs) a.len = (s1, .ok ls ca) →
        let b := { a with res := some (ls, ca), parked := none }
        { s1 with eng.arrivals := s1.eng.arrivals.put n b }.readyToWrite a.isl ca (effHint ca 0) 0xFFFF ls = (s2, true) →
        s.performArr n a = (s2.writeAt (State.arrWho a) ca (State.ownArr a.isl a.op) ls a.data).doneArr n b)
      ∧ (∀ c f p, s.resolveRange (State.arrWho a) .remoteWrite 0 (a.desc.ta + BitVec.ofNat 64 a.ofs) a.len = (s1, .fault c f p) →
          s.performArr n a = s1.failArr n a c))
  ∧ (∀ (s : State) (n : Nat) (a : Arr), (s.ctx a.isl a.desc.spn.toNat).live = false → s.performArr n a = s.failArr n a 2)
  ∧ ∀ (s : State) (n : Nat) (a : Arr) (p : Prog),
      let c := s.ctx a.isl a.desc.spn.toNat
      let key := s.counterKey c.precinct a.desc.n.toNat
      c.live = true → a.desc.kind = .notify → a.res = none → a.parked = none → a.credit = none → a.cons = [] →
      a.far = false → a.op / 65536 = a.isl → s.eng.arrivals = [(n, a)] → s.eng.progs.find (a.isl * 2 ^ 40 + a.op) = some p → p.desc = a.desc → p.lastRx = true →
      let t := s.performArr n a
      t.counter key = s.counter key + a.desc.inc ∧ (∀ j, j ≠ key → t.counter j = s.counter j)
      ∧ t.eng.acks = s.eng.acks ++ [{ op := a.op, cause := none }] ∧ t.eng.arrivals = [] ∧ t.mem = s.mem ∧ t.exe = s.exe

/-- R144, R147 to R150, R164: an acknowledgement ends its operation; a negative one records the first failure in `sys.rerr` and
`sys.rerra` and counts later ones; the last bytes of a GET's replies end it. -/
def Acknowledgements : Prop :=
  (∀ (s : State) (op : Nat) (a : Ack) (o : IslOp), s.eng.ops.find op = some o → a.op = op → a.reply = none → s.opSaved op = false →
      let s1 := { s with eng.acks := [] }
      s.eng.acks = [a] →
      (a.cause = none → Gives (.positiveAcknowledgement op) s ((s1.countLocal op 0).endOp op))
      ∧ (∀ c, a.cause = some c → Gives (.negativeAcknowledgement op c) s (((s1.countLocal op (State.lateErr o)).failRemote o c o.ta).endOp op)))
  ∧ (∀ (s s2 : State) (op ofs : Nat) (o : IslOp) (data : List Byte) (last : Bool),
      let a : Ack := { op := op, cause := none, reply := some (ofs, data, last) }
      let s3 := { s2 with eng.acks := s2.eng.acks.erase a }
      a ∈ s.eng.acks → s.eng.ops.find op = some o → o.lost = false → s.opSaved op = false → o.got < o.len →
      (s.landReply op o ofs data = (s2, none) → Gives (.getReply op ofs data last) s s2)
      ∧ (s.landReply op o ofs data = (s2, some (.ok ())) → o.got + data.length < o.len → Gives (.getReply op ofs data last) s s3)
      ∧ (s.landReply op o ofs data = (s2, some (.ok ())) → o.len ≤ o.got + data.length → (o.dest < 32 ∨ s2.hostOwes (State.ownLand op) = false) →
          Gives (.getReply op ofs data last) s ((s3.countLocal op 0).endOp op))
      ∧ (∀ c, s.landReply op o ofs data = (s2, some (.error c)) →
          Gives (.getReply op ofs data last) s (((s3.countLocal op 1).failRemote o c o.la).endOp op)))
  ∧ (∀ (s s1 s3 : State) (op ca : Nat) (o : IslOp) (data : List Byte) (ls : List (Nat × Nat)), o.edges = [] → o.res = none → o.parked = none →
      data.length = o.len → 0 < o.len → s.resolveRange (s.opWho o) .store o.lane o.la o.len = (s1, .ok ls ca) →
      { s1 with eng.ops := s1.eng.ops.put op { o with res := some (0, ls, ca) } }.readyToWrite o.isl ca (effHint ca 0) 0xFFFF ls = (s3, true) →
      let w := s3.writeAt (s.opWho o) ca (State.ownLand op) ls data
      ∃ t : State, s.landReply op o 0 data = (t, some (.ok ())) ∧ t = { w with eng.ops := t.eng.ops })
  ∧ ∀ (u : Uni) (o : IslOp) (c : Byte) (a : W64), o.dest < 2 ^ 12 →
      let v := State.noteRemote u o c a
      (u.rerr.getLsbD 63 = false →
        v.rerr.getLsbD 63 = true ∧ fld v.rerr 0 12 = o.dest ∧ fld v.rerr 12 4 = kindCode o.kind ∧ fld v.rerr 16 8 = c.toNat
        ∧ fld v.rerr 32 16 = 1 ∧ v.rerra = a &&& 0xFFFFFFFFFFFFF)
      ∧ (u.rerr.getLsbD 63 = true →
        v.rerr.getLsbD 63 = true ∧ fld v.rerr 0 32 = fld u.rerr 0 32 ∧ fld v.rerr 32 16 = min (fld u.rerr 32 16 + 1) 65535 ∧ v.rerra = u.rerra)

/-- R162, R163, R400, R410, R411: a target forgets an operation of which nothing has come for 1 ms; a packet of another mode is counted and
dropped, each packet of the supported mode becomes an arrival once, and the first fails at once where R30 or R148 refuses it; an operation with a packet
whose budget is spent fails with cause 0x06. -/
def FarAndTimeouts : Prop :=
  (∀ (s : State) (isl n : Nat) (p : Prog), s.eng.progs.find (isl * 2 ^ 40 + n) = some p →
      ((p.lastRx = true ∨ p.mid ≠ none ∨ s.clock < p.lastSeen + 2000000) → Gives (.operationTimeout isl n) s s)
      ∧ (p.lastRx = false → p.mid = none → p.lastSeen + 2000000 ≤ s.clock → s.eng.arrivals = [] →
          Gives (.operationTimeout isl n) s { s with eng.progs := s.eng.progs.del (isl * 2 ^ 40 + n) }))
  ∧ (∀ (s : State) (isl ep : Nat) (x : UePacket),
      let op := x.src * 65536 + x.op % 65536
      let key := isl * 2 ^ 40 + op
      let moves : Bool := x.desc.kind = .put || x.desc.kind = .puts
      ((x.rud = false ∨ 4096 < x.payload.length) → ∃ t : State, Gives (.uePacketReceive isl ep x) s t ∧ t = { s with eng.fab.uedrop := t.eng.fab.uedrop }
          ∧ t.eng.fab.uedrop.get 0 (isl * 2 + ep) = s.eng.fab.uedrop.get 0 (isl * 2 + ep) + 1)
      ∧ (x.rud = true → x.payload.length ≤ 4096 → x.trim = false → s.populated isl = true → 32 ≤ x.src → x.src < 4096 →
          (∀ p, s.eng.progs.find key = some p → p.mid = some x.op → (x.k ∈ p.ks ∨ p.ended = true) → Gives (.uePacketReceive isl ep x) s s)
          ∧ (s.eng.progs.find key = none → s.refusedAtOnce isl x.desc = true → ∃ t : State,
              Gives (.uePacketReceive isl ep x) s (t.sendAck isl op (some 2)) ∧ t = { s with eng.progs := t.eng.progs })
          ∧ (s.eng.progs.find key = none → s.refusedAtOnce isl x.desc = false →
              ∃ (t : State) (a : Arr), Gives (.uePacketReceive isl ep x) s t ∧ t.eng.arrivals = s.eng.arrivals.put (s.exe.ids + 1) a
                ∧ a.isl = isl ∧ a.op = op ∧ a.desc = x.desc ∧ a.far = true ∧ a.ent = x.ent ∧ t.mem = s.mem
                ∧ (moves = false → a.data = x.payload ∧ a.ofs = 4096 * x.k)
                ∧ (moves = true → (a.ofs, a.data) = ((cutLines x.desc.ta.toNat x.desc.len.toNat [] (4096 * x.k) x.payload).1,
                    (cutLines x.desc.ta.toNat x.desc.len.toNat [] (4096 * x.k) x.payload).2.1)))))
  ∧ ∀ (s : State) (op : Nat) (o : IslOp), s.eng.ops.find op = some o →
      let spent : Prop := ∃ p ∈ o.packets, 8 ≤ p.resends ∨ p.first + 8000000 ≤ s.clock
      (32 ≤ o.dest → spent → Gives (.uePacketAbandon op) s (((s.countLocal op (State.lateErr o)).failRemote o 6 o.ta).endOp op))
      ∧ ((o.dest < 32 ∨ ¬ spent) → Gives (.uePacketAbandon op) s s)

/-- R400: a damaged flit is counted and asked for again; a whole one is acknowledged, and passed on when its number is the one
expected; a sender resends what it is asked for or what is overdue, and lets go what is acknowledged. -/
def LinkProtocol : Prop :=
  (∀ (s : State) (isl p j : Nat) (f : Flit), s.neighbour isl p = some j → s.linkUp isl p = true →
      let q := opposite p
      let s0 := s.pump j q
      let x := s0.port j q
      let w := x.wire.eraseP fun g => g.seq = f.seq
      let r : Port := { s0.port isl p with corr := min ((s0.port isl p).corr + Config.freeChoice s.choices % 18) (2 ^ 32 - 1) }
      let s1 : State := { s0.setPort isl p r with choices := s.choices + 1 }
      (flitCrc f ≠ f.crc → Gives (.flitReceive isl p f) s
        ((s1.setPort j q { x with wire := w, repeats := x.repeats ++ [f.seq.toNat] }).setPort isl p { r with crcf := min (r.crcf + 1) 65535 }))
      ∧ (flitCrc f = f.crc → 1024 ≤ (f.seq - r.expect).toNat →
          Gives (.flitReceive isl p f) s (s1.setPort j q { x with wire := w, acks := x.acks ++ [f.seq.toNat] }))
      ∧ (flitCrc f = f.crc → r.expect = f.seq → r.reorder = [] →
          let s2 := (s1.setPort j q { x with wire := w, acks := x.acks ++ [f.seq.toNat] }).setPort isl p { r with reorder := [f] }
          (j * 4 + q ≠ isl * 4 + p) →
          Gives (.flitReceive isl p f) s ((s2.setPort isl p { r with expect := r.expect + 1 }).passOn isl f)))
  ∧ (∀ (s : State) (isl p : Nat) (f : Flit), (s.neighbour isl p = none ∨ s.linkUp isl p = false) → Gives (.flitReceive isl p f) s s)
  ∧ ∀ (s : State) (isl p seq : Nat),
      let x := s.port isl p
      (seq ∉ x.repeats → Gives (.repeatRequest isl p seq) s s)
      ∧ (∀ u, seq ∈ x.repeats → x.unacked = [u] → u.flit.seq.toNat = seq →
          ∃ t : State, Gives (.repeatRequest isl p seq) s t ∧ (t.port isl p).wire = x.wire ++ [u.flit]
            ∧ (t.port isl p).unacked = [{ u with resends := u.resends + 1, at_ := s.clock }] ∧ (t.port isl p).repeats = x.repeats.erase seq)
      ∧ (∀ u, x.unacked = [u] → u.flit.seq.toNat = seq → u.at_ + 4000 ≤ s.clock →
          ∃ t : State, Gives (.resendTimeout isl p seq) s t ∧ (t.port isl p).wire = x.wire ++ [u.flit]
            ∧ (t.port isl p).unacked = [{ u with resends := u.resends + 1, at_ := s.clock }])
      ∧ ((∀ u ∈ x.unacked, u.flit.seq.toNat = seq → s.clock < u.at_ + 4000) → Gives (.resendTimeout isl p seq) s s)
      ∧ (seq ∈ x.acks → ∃ t : State, Gives (.linkAcknowledgement isl p seq) s t ∧ (t.port isl p).acks = x.acks.erase seq
          ∧ (t.port isl p).progress = s.clock ∧ ∀ u, u ∈ (t.port isl p).unacked ↔ u ∈ x.unacked ∧ u.flit.seq.toNat ≠ seq)
      ∧ (seq ∉ x.acks → Gives (.linkAcknowledgement isl p seq) s s)

/-- R396, R400, R402, R403, R406: a link that fails goes down and one that has trained comes up with fresh numbers; a credit owed
comes back; a circuit that was not granted is asked for again. -/
def LinksAndCredits : Prop :=
  (∀ (s : State) (isl p : Nat), (s.linkUp isl p = false → Gives (.linkDown isl p) s s)
    ∧ (s.linkUp isl p = true → Gives (.linkDown isl p) s (s.takeDown isl p)))
  ∧ (∀ (s : State) (isl p j : Nat), s.neighbour isl p = some j → ((s.port isl p).link = 1 ∨ (s.port isl p).link = 3) →
      isl ∉ s.mgt.stoppedIsl → j ∉ s.mgt.stoppedIsl → isl * 4 + p ≠ j * 4 + opposite p →
      ∃ t : State, Gives (.linkUp isl p) s (((t.divideColours isl).divideColours j).writeRoutes false)
        ∧ t.port isl p = { s.port isl p with link := 2, seq := 0, expect := 0, progress := s.clock }
        ∧ t.port j (opposite p) = { s.port j (opposite p) with link := 2, seq := 0, expect := 0, progress := s.clock }
        ∧ t = { s with eng.fab.ports := t.eng.fab.ports })
  ∧ (∀ (s : State) (isl dst cls : Nat),
      let k := State.creditKey isl dst cls
      (s.eng.fab.returns.get 0 k = 0 → Gives (.creditReturn isl dst cls) s s)
      ∧ (s.eng.fab.returns.get 0 k ≠ 0 → ∃ t : State, Gives (.creditReturn isl dst cls) s t
          ∧ t.eng.fab.returns.get 0 k = s.eng.fab.returns.get 0 k - 1 ∧ t.eng.fab.credits.get 0 k = s.eng.fab.credits.get 0 k - 1
          ∧ ∀ j, j ≠ k → t.eng.fab.credits.get 0 j = s.eng.fab.credits.get 0 j))
  ∧ ∀ (s : State) (isl k : Nat) (t : Task), s.task k = some t → t.isl = isl →
      ((s.precinct t.precinct).state = .running → Gives (.circuitRetry isl k) s (s.askCircuits k false))
      ∧ ((s.precinct t.precinct).state ≠ .running → Gives (.circuitRetry isl k) s s)

/-- R404, R405, R408: at the end of a window demand is taken and begins anew; a colour at whose modulator an alarm comes is faulty and
leaves its port; cleared and held for 1 ms it may be used again; the far side agrees a proposed move. -/
def Steering : Prop :=
  (∀ (s : State) (isl : Nat), (s.clock < s.eng.fab.windows.get 0 isl + 20000 → Gives (.steerWindow isl) s s)
    ∧ (s.eng.fab.windows.get 0 isl + 20000 ≤ s.clock → ∃ t : State, Gives (.steerWindow isl) s (t.startMove isl)
        ∧ t.eng.fab.windows.get 0 isl = s.clock
        ∧ ∀ p, p < 4 → t.port isl p = { s.port isl p with demLast := BitVec.ofNat 32 (s.port isl p).dem, dem := 0, tgt := (t.port isl p).tgt }
          ∧ (t.port isl p).tgt.isSome = s.linkUp isl p ∧ ∀ n, (t.port isl p).tgt = some n → n ≤ 160))
  ∧ (∀ (s : State) (isl c : Nat) (ph : BitVec 8), isl < 20 → c < 256 →
      ∃ t : State, Gives (.quadratureAlarm isl c ph) s (t.postModule isl 0 c (s.colour isl c).port)
        ∧ t = s.setColour isl c { s.colour isl c with phase := ph, alarm := true, fault := true, cleared := none, port := 7 })
  ∧ (∀ (s : State) (isl c t : Nat), (s.colour isl c).cleared = some t →
      (t + 2000000 ≤ s.clock → Gives (.colourRecover isl c) s (s.setColour isl c { s.colour isl c with cleared := none, alarm := false }))
      ∧ (s.clock < t + 2000000 → Gives (.colourRecover isl c) s s))
  ∧ ∀ (s : State) (isl p j c a b : Nat), s.neighbour isl p = some j → .propose c a b ∈ (s.port j (opposite p)).steer →
      isl * 4 + p ≠ j * 4 + opposite p →
      let y := s.port j (opposite p)
      let s1 := s.setPort j (opposite p) { y with steer := y.steer.erase (.propose c a b) }
      Gives (.steeringMessage isl p (.propose c a b)) s
        (s1.setPort isl p { s.port isl p with steer := (s.port isl p).steer ++ [.agree c a b] })

end Sys2Proof.Claims

/-! Command queues, precincts, halts, exchanges and aborts. -/

namespace Sys2Proof.Claims

open Sys2Proof Sys2Proof.Machine

/-- The next command of a queue has been read, may start, can act, and it is its queue's turn. -/
def Turn (s s1 : State) (q : Nat) (c : List Byte) : Prop :=
  s.queueLive q = true ∧ s.nextCommand q = (s1, .ok c) ∧ s.mayStart q c = true ∧ s.actable q c = true ∧ s.nextQueue (q / 64) = some q

/-- A command has begun: HEAD has passed it, and what follows it that has started before. -/
def Passed (s t : State) (q : Nat) (d : List Cmd) : Prop :=
  let x := s.queue q
  t.queue q = State.passAhead x.ahead.length { x with head := x.head + 1, started := x.started ++ d }
  ∧ ∀ j, j ≠ q → t.queue j = s.queue j

/-- R349 to R353: a command at the head of its queue, at its turn, begins: LAUNCH of one island makes one task under a fresh tag, WAIT
and COPY are kept as started, NOTIFY increments its counter at once, MARK stores its value and sends its interrupt. -/
def CommandsBegin : Prop :=
  ∀ (s s1 : State) (q : Nat) (c : List Byte), Turn s s1 q c →
    (∀ (isl : Nat) (s2 : State) (k : Task), recF c 0 1 = 1 → s1.launchBad c = none → State.launchIslands c = [isl] → s1.taskOn q c isl = (s2, .ok k) →
      ∃ t : State, Gives (.launch q) s t
        ∧ Passed s2 t q [{ idx := (s1.queue q).head, op := 1, body := c, tag := s2.mgt.nextTag, tasks := [s2.mgt.taskKeys + 1] }]
        ∧ t.mgt.tasks = s2.mgt.tasks.put (s2.mgt.taskKeys + 1) { k with tag := s2.mgt.nextTag } ∧ t.mem = s2.mem ∧ t.exe = s2.exe)
    ∧ (recF c 0 1 = 2 → s.startedOf q 2 (fun d => s.waitDone q d.body) = none → s1.waitBad q c = none →
        ∃ t : State, Gives (.wait q) s t ∧ Passed s1 t q [{ idx := (s1.queue q).head, op := 2, body := c }] ∧ t.mem = s1.mem ∧ t.exe = s1.exe)
    ∧ (recF c 0 1 = 3 → s1.notifyBad q c = none →
        let k := s1.counterOf (recF c 8 4) (s1.queue q).spn (recF c 12 4)
        ∃ t : State, Gives (.notifyCommand q) s t ∧ Passed s1 t q [] ∧ t.counter k = s1.counter k + BitVec.ofNat 32 (recF c 16 4)
          ∧ (∀ j, j ≠ k → t.counter j = s1.counter j) ∧ t.mem = s1.mem ∧ t.exe = s1.exe)
    ∧ (∀ (s2 : State) (ls : List (Nat × Nat)) (ca : Nat), recF c 0 1 = 4 → (s.queue q).started.filter (·.op = 4) = [] → s1.copyBad q c = none →
        s1.copyRanges q c = (s2, .ok ls ca) →
        ∃ t : State, Gives (.copy q) s t ∧ Passed s2 t q [{ idx := (s1.queue q).head, op := 4, body := c }] ∧ t.mem = s2.mem ∧ t.exe = s2.exe)
    ∧ ∀ (s2 : State), recF c 0 1 = 5 → State.markBad c = none → s.startedOf q 5 (fun d => !s.hostOwes (State.ownCmd q d.idx)) = none →
        s1.agentWrite (s1.queue q).home (s1.queue q).spn (State.ownCmd q (s1.queue q).head) (recF c 8 8) ((c.drop 16).take 8) = (s2, some none) →
        s2.hostOwes (State.ownCmd q (s1.queue q).head) = false →
        ∃ t : State, Gives (.mark q) s t ∧ Passed s2 t q [] ∧ t.mem = s2.mem ∧ t.exe = s2.exe
          ∧ t.mgt.mod.irqs = s2.mgt.mod.irqs ++ (if recF c 24 2 / 2 ^ 15 = 1 then [BitVec.ofNat 11 (recF c 24 2)] else [])

/-- R350, R352: a malformed command, or one with a reserved opcode, stops its queue with ERR and event 10; a WAIT blocks what follows
it, and a WAIT whose counters have reached their thresholds is over; a queue that is not served starts nothing. -/
def CommandsStop : Prop :=
  (∀ (s s1 : State) (q : Nat) (c : List Byte), Turn s s1 q c →
    (recF c 0 1 = 0 ∨ 5 < recF c 0 1 → Gives (.launch q) s (s1.queueError q 2))
    ∧ (∀ e, recF c 0 1 = 1 → s1.launchBad c = some e → Gives (.launch q) s (s1.queueError q e))
    ∧ (∀ e, recF c 0 1 = 3 → s1.notifyBad q c = some e → Gives (.notifyCommand q) s (s1.queueError q e))
    ∧ (∀ e, recF c 0 1 = 5 → State.markBad c = some e → s.startedOf q 5 (fun d => !s.hostOwes (State.ownCmd q d.idx)) = none → Gives (.mark q) s (s1.queueError q e)))
  ∧ (∀ (s : State) (q : Nat) (e : Byte), let t := s.queueError q e
      (t.queue q).err = true ∧ (t.queue q).cause = e ∧ (t.queue q).head = (s.queue q).head ∧ t.exe = s.exe)
  ∧ (∀ (s : State) (q : Nat) (d : Cmd), s.startedOf q 2 (fun d => s.waitDone q d.body) = some d →
      Gives (.wait q) s (s.setQueue q { s.queue q with started := (s.queue q).started.erase d }))
  ∧ (∀ (x : Queue) (d : Cmd) (c : List Byte), d ∈ x.started → d.op = 2 → State.inOrder x c = false)
  ∧ (∀ (s : State) (q : Nat) (c : List Byte), State.inOrder (s.queue q) c = false → s.mayStart q c = false)
  ∧ ∀ (s : State) (q : Nat),
      (s.queue q).en = false ∨ (s.queue q).err = true ∨ (s.queue q).head = (s.queue q).tail ∨ (s.precinct (q / 64)).state ≠ .running →
      Gives (.launch q) s s ∧ Gives (.notifyCommand q) s s
      ∧ (s.startedOf q 5 (fun d => !s.hostOwes (State.ownCmd q d.idx)) = none → Gives (.mark q) s s)

/-- R351: a started COPY reads its next bytes, up to a line of its destination, and stores them there; the last of them end it. -/
def CopyAdvances : Prop :=
  ∀ (s s1 s2 : State) (q : Nat) (d : Cmd) (bs : List Byte),
    let spn := (s.queue q).spn
    let len := recF d.body 24 8
    let dst := recF d.body 16 8 + d.copied
    let n := min (128 - dst % 128) (len - d.copied)
    (s.queue q).started.filter (·.op = 4) = [d] → s.copyNext q = false → d.copied < len →
    s.agentRead (recF d.body 32 1) spn (recF d.body 8 8 + d.copied) n = (s1, .ok bs) →
    s1.agentWrite (recF d.body 33 1) spn (State.ownCmd q d.idx) dst bs = (s2, some none) → s2.hostOwes (State.ownCmd q d.idx) = false →
    (s2.queue q).started = [d] →
    ∃ t : State, Gives (.copy q) s t ∧ t.mem = s2.mem ∧ t.exe = s2.exe
      ∧ (t.queue q).started = if len ≤ d.copied + n then [] else [{ d with copied := d.copied + n }]

/-- R348, R349: writes of QTAIL, QCTL and QBASE. A tail further than the ring is long stops the queue with cause 2; fields but EN and ERR
are written while EN is 0 only; a write of QBASE clears HEAD and TAIL. -/
def QueueRegisters : Prop :=
  ∀ (s : State) (q : Nat) (v : W64), s.booted = true →
    let x := s.queue q
    (2 ^ x.log < (v.setWidth 32 - x.head).toNat → Gives (.queueDoorbell q v) s (s.setQueue q { x with err := true, cause := 2 }))
    ∧ ((v.setWidth 32 - x.head).toNat ≤ 2 ^ x.log → Gives (.queueDoorbell q v) s (s.setQueue q { x with tail := v.setWidth 32 }))
    ∧ (x.en = true → ∃ t : State, Gives (.queueControlWrite q v) s t ∧ (t.queue q).en = v.getLsbD 24
        ∧ (t.queue q).err = (!v.getLsbD 25 && x.err) ∧ (t.queue q).log = x.log ∧ (t.queue q).prio = x.prio ∧ (t.queue q).home = x.home
        ∧ (t.queue q).spn = x.spn ∧ t = s.setQueue q (t.queue q))
    ∧ (x.en = false → ∃ t : State, Gives (.queueControlWrite q v) s t ∧ (t.queue q).en = v.getLsbD 24
        ∧ (t.queue q).err = (!v.getLsbD 25 && x.err) ∧ (t.queue q).log = max 4 (min 16 (fld v 0 5)) ∧ (t.queue q).prio = fld v 5 2
        ∧ (t.queue q).home = fld v 7 5 ∧ (t.queue q).spn = fld v 12 12 ∧ (t.queue q).base = x.base ∧ t = s.setQueue q (t.queue q))
    ∧ (x.en = true → Gives (.queueBaseWrite q v) s s)
    ∧ (x.en = false → Gives (.queueBaseWrite q v) s (s.setQueue q { x with base := v.setWidth 52 &&& 0xFFFFFFFFFFFC0, head := 0, tail := 0, ahead := [] }))

/-- R391, R417: before MODE is 1 or 2 writes of the Harbourmaster's registers do nothing. -/
def BeforeBoot : Prop :=
  ∀ (s : State) (p a b : Nat) (v : W64) (tag : W32) (i : BitVec 4) (spn : BitVec 12), s.booted = false →
    ∀ x ∈ [Instr.precinctHalt p, .resume p, .exchange p, .abort p tag, .release p a b, .wake p a i, .armbpClear p, .debugHalt p, .debugHaltClear p,
           .poolDoorbell p, .pfpoolWrite p v, .precinctCreate p v, .precinctFree p, .contextCreate p, .contextUpdate p, .contextDestroy p spn,
           .queueDoorbell p v, .queueControlWrite p v, .queueBaseWrite p v, .counterClear a b], Gives x s s

/-- R379 to R381, R391: HALT takes a running precinct to halting and discards its windows; it is halted when all its agents have
stopped, and event 13 follows; a HALT of a precinct that does not run is refused; under a debug halt it waits. -/
def HaltOfPrecinct : Prop :=
  ∀ (s : State) (p : Nat), s.booted = true →
    let x := s.precinct p
    (x.valid = true → x.state = .running → s.debugging p = false →
      ∃ t : State, Gives (.precinctHalt p) s t ∧ t = (s.setPrecinct p { x with state := .halting }).discardWindows (fun k => s.holdsCore p (k / 320)))
    ∧ (x.valid = true → x.state = .running → s.debugging p = false → (∀ f ∈ s.exe.frags, f.2.window = none) →
        Gives (.precinctHalt p) s (s.setPrecinct p { x with state := .halting }))
    ∧ ((x.valid = false ∨ (x.state ≠ .running ∧ s.debugging p = false)) → Gives (.precinctHalt p) s (s.setPrecinct p { x with err := true }))
    ∧ (x.valid = true → s.debugging p = true → Gives (.precinctHalt p) s { s with inbox := s.inbox ++ [.precinctHalt p] })
    ∧ (x.valid = true → x.state = .halting → s.haltDone p = true →
        Gives (.haltComplete p) s (((s.rest p).setPrecinct p { x with state := .halted }).postEvent p 13 0 0x7F 0 0 0))
    ∧ ((x.state ≠ .halting ∨ s.haltDone p = false) → Gives (.haltComplete p) s s)

/-- R129, R379: a window is discarded: its fragment is again at the fence, with its program counter as it was there, and has stopped. -/
def WindowDiscarded : Prop :=
  ∀ (s : State) (k : Nat) (w : Window), (s.fragAt k).window = some w →
    let t := s.discardWindow k
    (t.fragAt k).ctl = w.fence ∧ (t.fragAt k).window = none ∧ (t.fragAt k).stop = true ∧ (t.fragAt k).mask = (s.fragAt k).mask
    ∧ (t.fragAt k).age = (s.fragAt k).age ∧ (t.fragAt k).state = if w.fence.sup then .handling else .ready

/-- R387, R388, R391: RESUME of a halted precinct with nothing to replay sets it running; of any other it is refused. -/
def ResumePrecinct : Prop :=
  ∀ (s : State) (p : Nat), s.booted = true →
    let x := s.precinct p
    (x.valid = true → x.state = .halted → x.door = false → (∀ c ∈ s.coresOf p, s.tender c = []) →
        s.eng.replays = [] → (∀ t ∈ s.mgt.tasks, t.2.precinct ≠ p) →
      ∃ t : State, Gives (.resume p) s t ∧ t.precinct p = { x with state := .running } ∧ (∀ j, j ≠ p → t.precinct j = s.precinct j)
        ∧ t.mem = s.mem ∧ t.exe.crews = s.exe.crews
        ∧ ∀ k th, (k, th) ∈ s.exe.threads → (k, th) ∈ t.exe.threads ∨ (th.stop = true ∧ (k, { th with stop := false }) ∈ t.exe.threads))
    ∧ ((x.valid = false ∨ x.state ≠ .halted) → Gives (.resume p) s (s.setPrecinct p { x with err := true }))

/-- R383 to R386, R391: EXCHANGE of a halted precinct with no image in its way begins to take it out; when that is over it is swapped
and its state is its image, nothing of it is left on its clusters and event 14 follows; of a running precinct it is refused. -/
def ExchangePrecinct : Prop :=
  ∀ (s : State) (p : Nat), s.booted = true →
    let x := s.precinct p
    (x.valid = true → x.state = .halted → s.debugging p = false → s.inTheWay [p] = [] →
      Gives (.exchange p) s (s.setPrecinct p { x with state := .exchanging }))
    ∧ (x.valid = true → x.state = .running → s.debugging p = false → Gives (.exchange p) s (s.setPrecinct p { x with err := true }))
    ∧ (x.valid = true → x.state = .exchanging → x.image = 0 → s.buffered? p = false → s.others p = [] →
        Gives (.exchangeComplete p) s ((s.goOut p).postEvent p 14 0 0x7F 0 0 0)
        ∧ ((s.goOut p).precinct p).state = .swapped ∧ ((s.goOut p).precinct p).image = 1
        ∧ ∀ c ∈ (s.goOut p).exe.crews, (s.flushClusters p).holdsCluster p (c.1 / 64 / 8) = false)
    ∧ (x.valid = true → x.state = .exchanging → x.image ≠ 0 → s.others p = [] → s.imageBad p = false →
        Gives (.exchangeComplete p) s ((s.comeIn p).postEvent p 14 0 0x7F 0 0 0)
        ∧ ((s.comeIn p).precinct p).state = .halted ∧ ((s.comeIn p).precinct p).image = 0)
    ∧ (x.state ≠ .exchanging → Gives (.exchangeComplete p) s s)

/-- R376, R391: ABORT of a tag of which the precinct has no gang and no task is remembered; with no thread of the tag left either, it
is over and event 17 carries the tag; an ABORT of a precinct that is swapped is refused. -/
def AbortOfTag : Prop :=
  ∀ (s : State) (p : Nat) (tag : W32), s.booted = true →
    let x := s.precinct p
    (x.valid = true → s.debugging p = false → x.state = .running ∨ x.state = .halted → Gives (.abort p tag) s (s.beginAbort p tag))
    ∧ (x.valid = true → s.debugging p = false → x.state = .swapped → Gives (.abort p tag) s (s.setPrecinct p { x with err := true }))
    ∧ (x.valid = true → x.state = .halting → Gives (.abort p tag) s { s with inbox := s.inbox ++ [.abort p tag] })
    ∧ (x.valid = true → tag ∈ x.aborts → s.debugging p = false → x.state = .running ∨ x.state = .halted → s.exe.gangs = [] → s.exe.threads = [] → s.mgt.tasks = [] →
        Gives (.abortComplete p tag) s
          ((s.setPrecinct p { x with aborts := x.aborts.filter (· ≠ tag) }).postEvent p 17 0 0x7F 0 0 (tag.setWidth 64)))
    ∧ (tag ∉ x.aborts → Gives (.abortComplete p tag) s s)

/-- R346, R389 to R391: RELEASE and WAKE act on a running precinct; ARMBP clear, the debug halt and its end, the pool doorbell and
PFPOOL have the effects of their registers. -/
def DebugAndWake : Prop :=
  ∀ (s : State) (p core slot cl : Nat) (i : BitVec 4) (v : W64), s.booted = true →
    let x := s.precinct p
    let mine := p / 16 * 128 + core
    (x.valid = true → x.state = .running → Gives (.release p core slot) s (s.releaseFrags fun k f => k / 320 = mine && s.holdsCore p mine && f.crew = slot))
    ∧ (x.valid = true → x.state = .halted → Gives (.release p core slot) s { s with inbox := s.inbox ++ [.release p core slot] })
    ∧ (x.valid = false → Gives (.release p core slot) s (s.setPrecinct p { x with err := true }))
    ∧ (x.valid = true → x.state = .running → s.holdsCluster p (p / 16 * 16 + cl) = true → ∃ t : State, Gives (.wake p cl i) s t
        ∧ t = { s with exe.threads := t.exe.threads }
        ∧ ∀ k th, (k, th) ∈ s.exe.threads → k / 4 = p / 16 * 16 + cl → i.getLsbD (k % 4) = true → th.state = .idle →
            (k, { th with state := .running, idleDone := true, stop := !s.mayGo p true }) ∈ t.exe.threads)
    ∧ (x.state ≠ .running → Gives (.wake p cl i) s (s.setPrecinct p { x with err := true }))
    ∧ (x.valid = false → Gives (.armbpClear p) s (s.setPrecinct p { x with armbp := false }))
    ∧ (x.valid = true → x.state ≠ .swapped → Gives (.armbpClear p) s
        (((s.setPrecinct p { x with armbp := false }).releaseFrags fun k _ => s.holdsCore p (k / 320)).releaseThreads p))
    ∧ (s.populated p = true → (∀ f ∈ s.exe.frags, f.2.window = none) → Gives (.debugHalt p) s { s with mgt.dhalt := s.mgt.dhalt.put p true })
    ∧ (s.mgt.dhalt.get false p = true → (∀ a ∈ s.eng.arrivals, a.2.held = false) →
        Gives (.debugHaltClear p) s ({ s with mgt.dhalt := s.mgt.dhalt.del p } : State).unstop)
    ∧ (x.valid = true → x.state = .running → ∃ t : State, Gives (.poolDoorbell p) s t ∧ t.precinct p = { x with door := false } ∧ t.mem = s.mem
        ∧ ∀ k th, (k, th) ∈ s.exe.threads → s.holdsCluster p (k / 4) = true → th.state = .wait → th.waitFor = .doorbell →
            (k, { th with state := .running, waitFor := .none, stop := !s.mayGo p true }) ∈ t.exe.threads)
    ∧ (x.valid = true → x.state ≠ .running → Gives (.poolDoorbell p) s (s.setPrecinct p { x with door := true }))
    ∧ Gives (.pfpoolWrite p v) s (s.setPrecinct p { x with fpool := v &&& 0xFFFFFFFFFF81 })

end Sys2Proof.Claims

/-! What the host does: precincts, contexts, registers, start-up, attestation, power. -/

namespace Sys2Proof.Claims

open Sys2Proof Sys2Proof.Machine

/-- R34, R38, R422: a precinct is created with its fields, its on-chip storage reading zero and its notify counters 0, all other memory as
it was, or refused with ERR; one that is halted and has no context is freed, one that runs is not. -/
def PrecinctLife : Prop :=
  ∀ (s : State) (p : Nat) (v : W64), s.booted = true → p < 320 →
    let x := s.precinct p
    (x.valid = false → v.getLsbD 63 = true → s.createBad p (State.withPdesc x v) = false →
      ∃ t : State, Gives (.precinctCreate p v) s t ∧ (t.precinct p).valid = true ∧ (t.precinct p).state = .running
        ∧ (t.precinct p).size = fld v 0 3 ∧ (t.precinct p).tag = fld v 4 4 ∧ (t.precinct p).nbase = fld v 8 14 ∧ (t.precinct p).ncount = fld v 22 15
        ∧ (∀ j, j ≠ p → t.precinct j = s.precinct j)
        ∧ (∀ a, State.onChip (t.holdsCluster p) a = true → Memory.read t.mem a = 0)
        ∧ (∀ a, State.onChip (t.holdsCluster p) a = false → Memory.read t.mem a = Memory.read s.mem a)
        ∧ ∀ n, n < fld v 22 15 → t.counter (p / 16 * 16384 + fld v 8 14 + n) = 0)
    ∧ (x.valid = false → v.getLsbD 63 = true → s.createBad p (State.withPdesc x v) = true →
        Gives (.precinctCreate p v) s (s.setPrecinct p { x with err := true }))
    ∧ (x.valid = true → Gives (.precinctCreate p v) s s)
    ∧ (x.valid = true → x.state = .halted → (∀ c ∈ s.trn.ctxs, c.2.live = true → c.2.precinct ≠ p) →
        ∃ t : State, Gives (.precinctFree p) s t ∧ (t.precinct p).valid = false ∧ (∀ j, j ≠ p → t.precinct j = s.precinct j)
          ∧ ∀ a, Memory.read t.mem a = if State.onChip (s.holdsCluster p) a then 0 else Memory.read s.mem a)
    ∧ (x.valid = true → x.state = .running → Gives (.precinctFree p) s (s.setPrecinct p { x with err := true }))
    ∧ (x.valid = false → Gives (.precinctFree p) s s)

/-- R423: a context command first sets BUSY; it then reads its descriptor at CTXADDR and creates, changes or removes the context, with
RESULT 0, or leaves everything as it was with the RESULT that says why. -/
def ContextLife : Prop :=
  (∀ (s : State) (p cmd spn : Nat) (i : Instr), s.booted = true →
      (i = .contextCreate p ∧ cmd = 1 ∧ spn = 0) ∨ (i = .contextUpdate p ∧ cmd = 2 ∧ spn = 0)
        ∨ (∃ n : BitVec 12, i = .contextDestroy p n ∧ cmd = 3 ∧ spn = n.toNat) →
      let x := s.precinct p
      (x.ctxbusy = false → Gives i s (s.setPrecinct p { x with ctxbusy := true, ctxcmd := cmd, ctxspn := spn }))
      ∧ (x.ctxbusy = true → x.ctxcmd ≠ cmd → Gives i s s))
  ∧ (∀ (s : State) (p : Nat), s.booted = true → (s.precinct p).ctxbusy = true →
      let x := s.precinct p
      let done_ (r : Byte) : Precinct := { x with ctxbusy := false, ctxresult := r }
      let isl := p / 16
      (∀ e, s.ctxDescr p = .error e →
        (x.ctxcmd = 1 → Gives (.contextCreate p) s (s.setPrecinct p (done_ e))) ∧ (x.ctxcmd = 2 → Gives (.contextUpdate p) s (s.setPrecinct p (done_ e))))
      ∧ (∀ d, s.ctxDescr p = .ok d →
        let spn := recF d 0 2
        let c := s.ctx isl spn
        let n := State.ctxOf p d
        (x.ctxcmd = 1 → x.valid = true → spn ≠ 0 → c.live = false →
          ∃ t : State, Gives (.contextCreate p) s t ∧ t.ctx isl spn = n ∧ t.precinct p = done_ 0 ∧ t.mem = s.mem
            ∧ ∀ j, j < 4096 → j ≠ spn → t.ctx isl j = s.ctx isl j)
        ∧ (x.ctxcmd = 1 → (x.valid = false ∨ spn = 0 ∨ c.live = true) → Gives (.contextCreate p) s (s.setPrecinct p (done_ 2)))
        ∧ (x.ctxcmd = 2 → x.valid = true → c.live = true → c.precinct = p → s.ctxActive isl spn = false →
          ∃ t : State, Gives (.contextUpdate p) s t ∧ t.precinct p = done_ 0
            ∧ t.ctx isl spn = { c with ptroot := n.ptroot, ptarena := n.ptarena, ptview := n.ptview, tvec := n.tvec, aps := n.aps, bsnwin := n.bsnwin })
        ∧ (x.ctxcmd = 2 → c.live = true → c.precinct = p → s.ctxActive isl spn = true → c.ptroot ≠ n.ptroot →
            Gives (.contextUpdate p) s (s.setPrecinct p (done_ 2))))
      ∧ ∀ n : BitVec 12, x.ctxcmd = 3 →
        let c := s.ctx isl x.ctxspn
        ((c.live = false ∨ c.precinct ≠ p) → Gives (.contextDestroy p n) s (s.setPrecinct p (done_ 2)))
        ∧ (c.live = true → c.precinct = p → x.state ≠ .failed → s.ctxIdle isl x.ctxspn = true → s.coh.l1 = [] → s.coh.partials = [] →
            ∃ t : State, Gives (.contextDestroy p n) s t ∧ t.precinct p = done_ 0 ∧ t.mem = s.mem
              ∧ t.trn.ctxs = s.trn.ctxs.del (isl * 4096 + x.ctxspn) ∧ ∀ e ∈ t.trn.tlb, ¬(e.isl = isl ∧ e.spn = x.ctxspn)))
  ∧ ∀ (s : State) (p : Nat),
      ((s.precinct p).ctxaddr.toNat % 128 ≠ 0 → s.ctxDescr p = .error 3)
      ∧ ((s.precinct p).ctxaddr.toNat % 128 = 0 → 2 ^ 47 ≤ (s.precinct p).ctxaddr.toNat → s.ctxDescr p = .error 4)

/-- R415, R421, R424: HPOREQ sets BUSY and is then carried out; PWRCAP keeps a value from 2000 to 30100; a counter is cleared. -/
def ModuleRegisters : Prop :=
  ∀ (s : State) (v : W64) (core k : Nat),
    let m := s.mgt.mod
    (m.mode ≠ 3 → m.hpoBusy = false → Gives (.hostPageOwnerChange v) s
        { s with mgt.mod := { m with hpoPage := fld v 0 31, hpoIsl := fld v 32 5, hpoBusy := true } })
    ∧ (m.mode ≠ 3 → m.hpoBusy = true → s.coh.hostOwner.get 0 m.hpoPage = 0 → m.hpoIsl < 20 →
        ∃ t : State, Gives (.hostPageOwnerChange v) s t ∧ t.mgt.mod.hpoBusy = false ∧ t.coh.hostOwner.get 0 m.hpoPage = m.hpoIsl + 1
          ∧ (∀ j, j ≠ m.hpoPage → t.coh.hostOwner.get 0 j = s.coh.hostOwner.get 0 j) ∧ t.mem = s.mem)
    ∧ (m.mode ≠ 3 → ∃ t : State, Gives (.pwrcapWrite v) s t ∧ t = { s with mgt.mod.pwrcap := t.mgt.mod.pwrcap } ∧ 2000 ≤ t.mgt.mod.pwrcap
        ∧ t.mgt.mod.pwrcap ≤ 30100 ∧ (2000 ≤ fld v 0 16 → fld v 0 16 ≤ 30100 → t.mgt.mod.pwrcap = fld v 0 16))
    ∧ (m.mode = 3 → Gives (.hostPageOwnerChange v) s s ∧ Gives (.pwrcapWrite v) s s)
    ∧ (s.booted = true → k < 6 → Tbl.wf s.mgt.counters = true → ∃ t : State, Gives (.counterClear core k) s t
        ∧ t = { s with mgt.counters := t.mgt.counters } ∧ t.mgt.counters.get 0 (core * 8 + k) = 0
        ∧ ∀ j, j ≠ core * 8 + k → t.mgt.counters.get 0 j = s.mgt.counters.get 0 j)

/-- R394, R397, R408, R411, R412: STEER takes a floor and a ceiling or sets STERR; a Chart entry is written, without its V where its
route fails; a word of a peer entry is written; FAULT of a colour is cleared. -/
def FabricRegisters : Prop :=
  ∀ (s : State) (isl : Nat) (v : W64), s.booted = true →
    (∀ p, isl < 20 → p < 4 →
      let x := s.port isl p
      let others := (((List.range 4).filter fun q => q ≠ p && (s.port isl q).link ≠ 0).map fun q => (s.port isl q).floor + (s.port isl q).res).sum
      (16 ≤ fld v 0 8 → fld v 0 8 ≤ fld v 8 8 → fld v 8 8 ≤ 160 → others + fld v 0 8 + x.res ≤ (s.workingColours isl).length →
        Gives (.steerWrite isl p v) s (s.setPort isl p { x with floor := fld v 0 8, ceil := fld v 8 8 }))
      ∧ ((fld v 8 8 < fld v 0 8 ∨ fld v 0 8 < 16 ∨ 160 < fld v 8 8 ∨ (s.workingColours isl).length < others + fld v 0 8 + x.res) →
        Gives (.steerWrite isl p v) s { s with eng.fab.fstat := s.eng.fab.fstat.upd 0 isl (· ||| 2) }))
    ∧ (∀ e, s.populated isl = true → 20 ≤ e → e < 32 → Gives (.chartWrite isl e v) s s)
    ∧ (∀ e, s.populated isl = true → e < 4096 → e ≠ isl → s.populated e = true →
        (v.getLsbD 1 = false → Gives (.chartWrite isl e v) s (s.setChart isl e (v &&& 0xFFFFF1B)))
        ∧ (v.getLsbD 1 = true → 1 ≤ fld v 8 4 → fld v 8 4 ≤ 8 → s.routeOk e (fld v 8 4) (fld v 12 16) isl = true →
            Gives (.chartWrite isl e v) s (s.setChart isl e (v &&& 0xFFFFF1B)))
        ∧ (v.getLsbD 1 = true → s.routeOk e (fld v 8 4) (fld v 12 16) isl = false → ∃ t : State, Gives (.chartWrite isl e v) s t
            ∧ (t.chart isl e).getLsbD 1 = false ∧ (t.eng.fab.fstat.get 0 isl).getLsbD 0 = true))
    ∧ (Gives (.chartWrite isl isl v) s s)
    ∧ (∀ e, s.populated isl = true → 32 ≤ e → e < 4096 → v.getLsbD 2 = true → s.mgt.mod.mode = 1 →
        Gives (.chartWrite isl e v) s (s.setChart isl e (v &&& 0xFFFFF1F)))
    ∧ (∀ e w, s.populated isl = true → e + 32 < 4096 → w < 4 → ∃ t : State, Gives (.peerEntryWrite isl (e * 32 + w * 8) v) s t
        ∧ t = { s with eng.fab.peers := t.eng.fab.peers }
        ∧ t.eng.fab.peers.get 0 ((isl * 4096 + 32 + e) * 4 + w) = (if w < 2 then v else if w = 2 then v &&& 0xFFF00FFFFFF else 0)
        ∧ ∀ j, j ≠ (isl * 4096 + 32 + e) * 4 + w → t.eng.fab.peers.get 0 j = s.eng.fab.peers.get 0 j)
    ∧ ∀ c, ((s.colour isl c).fault = true → Gives (.colourFaultClear isl c) s
          (s.setColour isl c { s.colour isl c with fault := false, cleared := some s.clock }))
        ∧ ((s.colour isl c).fault = false → Gives (.colourFaultClear isl c) s s)

/-- R14, R414: a host write of BAR0, in a module that has started, sets a register that it stores, and does what the event of any other does: the
commands of PRCTL and CTXCMD, PDESC, doorbells, the registers of queues, of an island, of its Chart and peer entries, PWRCAP and HPOREQ; one at an
offset that holds no register, or is no multiple of 8, does nothing. -/
def RegisterWriteActs : Prop :=
  ∀ (s : State) (v : W64), s.booted = true →
    let acts (off : Nat) (i : Instr) (u : State) : Prop := ∃ t, Gives i u t ∧ Gives (.registerWrite off v) s t
    let island (isl off : Nat) : Nat := 0x1000000 + isl * 0x10000 + off
    (∀ p, p < 320 →
      let at_ (off : Nat) : Nat := 0x80000 + p * 0x100 + off
      let x := s.precinct p
      Gives (.registerWrite (at_ 0x20) v) s (s.setPrecinct p { x with evbase := v })
      ∧ Gives (.registerWrite (at_ 0x30) v) s (s.setPrecinct p { x with evhead := v.setWidth 32 })
      ∧ Gives (.registerWrite (at_ 0x80) v) s (s.setPrecinct p { x with ctxaddr := v })
      ∧ (v.getLsbD 63 = true → acts (at_ 8) (.precinctCreate p v) s)
      ∧ (v.getLsbD 63 = false → x.valid = true → acts (at_ 8) (.precinctFree p) s)
      ∧ acts (at_ 0x18) (.poolDoorbell p) s
      ∧ acts (at_ 0x98) (.pfpoolWrite p v) s
      ∧ (∀ c ∈ [(1, Instr.precinctHalt p), (2, .resume p), (3, .exchange p), (4, .abort p (BitVec.ofNat 32 (fld v 32 32))),
                (5, .release p (fld v 32 7) (fld v 40 6)), (6, .wake p (fld v 32 4) (BitVec.ofNat 4 (fld v 40 4)))],
          x.armbp = false → fld v 0 3 = c.1 →
            acts (at_ 0) c.2 (s.setPrecinct p { x with arg := BitVec.ofNat 32 (fld v 32 32), df := x.df && !v.getLsbD 11,
                                                       err := x.err && !v.getLsbD 10, armbp := v.getLsbD 9 }))
      ∧ ∀ c ∈ [(1, Instr.contextCreate p), (2, .contextUpdate p), (3, .contextDestroy p (BitVec.ofNat 12 (fld v 16 12)))],
          x.ctxbusy = false → fld v 0 2 = c.1 → acts (at_ 0x88) c.2 s)
    ∧ (∀ p q, p < 320 → q < 64 →
        let at_ (off : Nat) : Nat := 0x100000 + p * 0x1000 + q * 0x20 + off
        acts (at_ 0) (.queueBaseWrite (p * 64 + q) v) s
        ∧ acts (at_ 8) (.queueControlWrite (p * 64 + q) v) s
        ∧ acts (at_ 0x18) (.queueDoorbell (p * 64 + q) v) s)
    ∧ (∀ isl, s.populated isl = true → isl < 20 →
        (v.getLsbD 0 = true → s.mgt.dhalt.get false isl = false → acts (island isl 0) (.debugHalt isl) s)
        ∧ (v.getLsbD 0 = false → acts (island isl 0) (.debugHaltClear isl) s)
        ∧ (∀ p, p < 4 → acts (island isl (0x140 + 8 * p)) (.steerWrite isl p v) s)
        ∧ (∀ c k, c < 128 → k < 8 → acts (island isl (0x400 + c * 0x40 + k * 8)) (.counterClear (isl * 128 + c) k) s)
        ∧ ∀ c, c < 256 → v.getLsbD 4 = true → acts (island isl (0x4000 + 8 * c)) (.colourFaultClear isl c) s)
    ∧ (∀ isl, isl < 20 →
        (∀ e, e < 4096 → acts (0x4000000 + isl * 0x40000 + 8 * e) (.chartWrite isl e v) s)
        ∧ ∀ o, o < 0x20000 → o % 8 = 0 → acts (0x4000000 + isl * 0x40000 + 0x10000 + o) (.peerEntryWrite isl o v) s)
    ∧ (s.mgt.mod.mode ≠ 3 → acts 8 (.pwrcapWrite v) s)
    ∧ (s.mgt.mod.mode ≠ 3 → s.mgt.mod.hpoBusy = false → acts 0x18 (.hostPageOwnerChange v) s)
    ∧ ∀ off, off % 8 ≠ 0 ∨ (0x2000 ≤ off ∧ off < 0x80000) → Gives (.registerWrite off v) s s

/-- R416 to R420: a reset whose plan passes every stage with at most two islands unhealthy ends in MODE 1 with the six measurements taken,
HBM and host memory as they were and nothing running; one with more stops at stage 3; a failed attempt is logged, and the third ends in
minimal mode or, when recovery fails too, in MODE 3. -/
def StartUp : Prop :=
  (∀ (s : State) (plan : BootPlan), plan.fail = none →
    (s.unhealthy plan ≤ 2 → ∃ t : State, Gives (.moduleReset plan) s t ∧ t.mgt.mod.mode = 1 ∧ t.mgt.mod.stage = 5
        ∧ t.mgt.mod.healthy = plan.healthy &&& s.mgt.mod.sites ∧ t.mgt.mod.pop = s.mgt.mod.sites ∧ t.mgt.mod.reason = 0 ∧ t.mgt.mod.digests.length = 6
        ∧ t.mgt.mod.log = (if plan.powerOn then [] else s.mgt.mod.log) ∧ t.exe = {} ∧ t.mgt.queues = [] ∧ t.mgt.precincts = []
        ∧ t.trn = {} ∧ ∀ a, Memory.read t.mem a = if a < 2 ^ 50 then Memory.read s.mem a else 0)
    ∧ (2 < s.unhealthy plan → ∃ t : State, Gives (.moduleReset plan) s t ∧ t.mgt.mod.mode = 0 ∧ t.mgt.mod.stage = 3 ∧ t.exe = {}))
  ∧ (∀ (s : State) (plan : BootPlan) (stage n : Nat), plan.fail = some (stage, n) → ∃ t : State, Gives (.moduleReset plan) s t
      ∧ t.mgt.mod.mode = 0 ∧ t.mgt.mod.stage = stage)
  ∧ ∀ (s : State) (plan : BootPlan) (reason : BitVec 8),
      (s.mgt.mod.mode ≠ 0 → Gives (.bootAttemptFailed reason plan) s s)
      ∧ (s.mgt.mod.mode = 0 → ∃ (t : State) (r : BootRec), Gives (.bootAttemptFailed reason plan) s t ∧ r.reason = reason.toNat
          ∧ r.stage = s.mgt.mod.stage ∧ r.attempt = min 3 (s.mgt.mod.attempts + 1)
          ∧ t.mgt.mod.log = (if s.mgt.mod.log.length < 128 then s.mgt.mod.log else s.mgt.mod.log.drop 1) ++ [r] ∧ t.mgt.mod.reason = reason
          ∧ (s.mgt.mod.attempts < 2 → plan.fail = none → s.unhealthy plan ≤ 2 → t.mgt.mod.mode = 1)
          ∧ (2 ≤ s.mgt.mod.attempts → t.mgt.mod.mode = if plan.recoveryOk then 2 else 3))

/-- R420: once MODE is 1 or 2 each request of the mailbox is answered; a measurement is one of the six taken at start-up. -/
def Attestation : Prop :=
  ∀ (s : State) (off len n : Nat) (nonce : BitVec 256),
    let ans (a : Spdm) : State := { s with mgt.mod.spdm := s.mgt.mod.spdm ++ [a] }
    (s.booted = true →
      Gives .getVersion s (ans .version) ∧ Gives .getCapabilities s (ans .capabilities) ∧ Gives .negotiateAlgorithms s (ans .algorithms)
      ∧ Gives .getDigests s (ans .digests) ∧ Gives (.getCertificate off len) s (ans (.certificate off len))
      ∧ Gives (.challenge nonce) s (ans (.challengeAuth nonce))
      ∧ (∀ d, 1 ≤ n → n < 255 → s.mgt.mod.digests[n - 1]? = some d → Gives (.getMeasurements n) s (ans (.measurements n [d])))
      ∧ (s.mgt.mod.digests.length = 6 → 7 ≤ n → n ≠ 255 → Gives (.getMeasurements n) s (ans .error)))
    ∧ (s.booted = false → Gives .getVersion s s ∧ Gives .getCapabilities s s ∧ Gives .negotiateAlgorithms s s ∧ Gives .getDigests s s
        ∧ Gives (.getCertificate off len) s s ∧ Gives (.challenge nonce) s s)

/-- R421: at 95 °C an island's clock is 1 GHz, at 110 °C the island is stopped and its precincts fail; an island above its share loses
25 MHz down to 1 GHz, then issues in fewer clocks, and then says so. -/
def PowerAndHeat : Prop :=
  (∀ (s : State) (isl deg : Nat), s.populated isl = true → isl ∉ s.mgt.stoppedIsl →
      (deg < 95 → Gives (.thermalLimit isl deg) s { s with mgt.mod := { s.mgt.mod with temp := deg } })
      ∧ (95 ≤ deg → deg < 110 → ∃ t : State, Gives (.thermalLimit isl deg) s t ∧ t.clockOf isl = 1000 ∧ t.mgt.mod.temp = deg ∧ t.exe = s.exe
          ∧ t.mem = s.mem ∧ ∀ j, j ≠ isl → t.clockOf j = s.clockOf j)
      ∧ (110 ≤ deg → s.mgt.precincts = [] → ∃ t : State, Gives (.thermalLimit isl deg) s t ∧ t.mgt.stoppedIsl = s.mgt.stoppedIsl ++ [isl]))
  ∧ ∀ (s : State) (isl draw : Nat), s.booted = true → s.populated isl = true → isl ∉ s.mgt.stoppedIsl →
      (s.shareOf < draw → 1000 < s.clockOf isl → ∃ t : State, Gives (.powerShareAdjust isl draw) s t ∧ t.clockOf isl = s.clockOf isl - 25
        ∧ t.exe = s.exe ∧ t.mem = s.mem)
      ∧ (s.shareOf < draw → s.clockOf isl ≤ 1000 → s.ratioOf isl < 8 → ∃ t : State, Gives (.powerShareAdjust isl draw) s t
          ∧ t.ratioOf isl = s.ratioOf isl + 1 ∧ t.clockOf isl = s.clockOf isl ∧ t.exe = s.exe ∧ t.mem = s.mem)
      ∧ (s.shareOf < draw → s.clockOf isl ≤ 1000 → 8 ≤ s.ratioOf isl → ∃ t : State, Gives (.powerShareAdjust isl draw) s t
          ∧ t.mgt.mod.excess = true ∧ t.exe = s.exe)
      ∧ (draw ≤ s.shareOf → 1 < s.ratioOf isl → ∃ t : State, Gives (.powerShareAdjust isl draw) s t ∧ t.ratioOf isl = s.ratioOf isl - 1
          ∧ t.mgt.mod.excess = false)

end Sys2Proof.Claims

/-! Translation, coherence requests, tokens and the host's own requests. -/

namespace Sys2Proof.Claims

open Sys2Proof Sys2Proof.Machine

/-- Nothing waits in a write buffer. -/
def Drained (s : State) : Prop := s.coh.wbuf = []

/-- R18, R66, R67, R71: the null guard and the regions of enabled apertures are not walked; a walk whose address has an entry in the TLB, or whose tables end in a valid entry, gives the entry's frame and attribute, or
the fault of the first check that fails; before the first write D is set in the entry at its home, and where that has changed it is
translated again. -/
def Translations : Prop :=
  (∀ (s : State) (isl tlb : Nat) (spn : BitVec 12) (va : W64) (k : AKind) (sup : Bool),
    let w : Who := { isl := isl, tlb := tlb, spn := spn.toNat, sup := sup }
    ((18 ≤ tlb ∨ 2 ^ 52 ≤ va.toNat ∨ va.toNat < 0x10000 ∨ s.apHit w va.toNat [0, 1, 2, 3, 4, 5] ≠ none) → Gives (.walk isl tlb spn va k sup) s s)
    ∧ (tlb < 18 → va.toNat < 2 ^ 52 → 0x10000 ≤ va.toNat → s.apHit w va.toNat [0, 1, 2, 3, 4, 5] = none →
        Gives (.walk isl tlb spn va k sup) s (s.translate w va.toNat k).1))
  ∧ ∀ (s s1 : State) (w : Who) (va : Nat) (k : AKind) (p : W64) (size a level : Nat) (ls : List Nat),
      (s.ctx w.isl w.spn).live = true → s.lookup w va = (s1, .ok p size a level ls) →
      let f := State.fpteOf a level
      (p.getLsbD 1 = true → s.translate w va k = (s1, .park))
      ∧ (p.getLsbD 1 = false → fld p 12 4 ≠ (s1.precinct (s1.ctx w.isl w.spn).precinct).tag → s.translate w va k = (s1, .fault 2 f))
      ∧ (p.getLsbD 1 = false → fld p 12 4 = (s1.precinct (s1.ctx w.isl w.spn).precinct).tag → p.getLsbD 5 = true → w.sup = false →
          s.translate w va k = (s1, .fault 2 f))
      ∧ (p.getLsbD 1 = false → fld p 12 4 = (s1.precinct (s1.ctx w.isl w.spn).precinct).tag → (p.getLsbD 5 = false ∨ w.sup = true) →
          ((p.getLsbD 2 = false → State.needsRead k = true → s.translate w va k = (s1, .fault 2 f))
          ∧ (p.getLsbD 3 = false → State.needsWrite k = true → State.needsRead k = false → s.translate w va k = (s1, .fault 2 f))
          ∧ (p.getLsbD 2 = true → p.getLsbD 3 = true → p.getLsbD 4 = true → fld p 6 2 ≠ 2 →
              let pa := locPA w.isl (fld p 16 32 * 65536 + va % size)
              ((p.getLsbD 9 = true ∨ State.needsWrite k = false) → s.translate w va k = (s1, .pa pa (fld p 6 2)))
              ∧ (p.getLsbD 9 = false → State.needsWrite k = true → (s1.setAD w.isl a level p true).2 = true →
                  (s.translate w va k).2 = .pa pa (fld p 6 2) ∧ (s.translate w va k).1.mem = (s1.setAD w.isl a level p true).1.mem)
              ∧ (p.getLsbD 9 = false → State.needsWrite k = true → (s1.setAD w.isl a level p true).2 = false → (s.translate w va k).2 = .busy))))

/-- R69, R72, R73, R100: the first invalidation of its slice to a TLB takes from it the entries whose walk read the line and no other, and an
acknowledgement becomes due; it is given when no access that used them is under way, those that only the invalidation holds up being translated again
(the model's reading, log 131); with the last one the home's hold ends, a line that is a victim leaves the L2, and what it held is served. -/
def Invalidation : Prop :=
  (∀ (s : State) (isl tlb line : Nat),
    let lk := isl * 2 ^ 41 + line
    let first := s.trn.tinvs.find? fun t => t.1 = isl && t.2.1 = tlb && sliceOf (lineNo t.2.2) = sliceOf (lineNo lk)
    (first ≠ some (isl, tlb, lk) → Gives (.tinv isl tlb line) s s)
    ∧ (first = some (isl, tlb, lk) → ∃ t : State, Gives (.tinv isl tlb line) s t ∧ t.trn.tinvs = s.trn.tinvs.erase (isl, tlb, lk)
        ∧ (∀ e, e ∈ t.trn.tlb ↔ e ∈ s.trn.tlb ∧ ¬(e.isl = isl ∧ e.tlb = tlb ∧ lk ∈ e.lines))
        ∧ ∃ d : TackDue, t.trn.tacks = s.trn.tacks ++ [d] ∧ d.isl = isl ∧ d.tlb = tlb ∧ d.line = lk))
  ∧ ∀ (s : State) (isl tlb line : Nat),
    let lk := isl * 2 ^ 41 + line
    let due := s.trn.tacks.find? fun d => d.isl = isl && d.tlb = tlb && d.line = lk
    (due = none → Gives (.tack isl tlb line) s s)
    ∧ ∀ d, due = some d →
      let u := s.unstick d
      let x := u.line lk
      let s1 := { u with trn.tacks := u.trn.tacks.erase d }
      let closed := s1.setLine lk { x with tacksDue := 0, tx := false, trSharers := 0 }
      (u.drained d = false → Gives (.tack isl tlb line) s u)
      ∧ (u.drained d = true → 1 < x.tacksDue → Gives (.tack isl tlb line) s (s1.setLine lk { x with tacksDue := x.tacksDue - 1 }))
      ∧ (u.drained d = true → x.tacksDue ≤ 1 → Gives (.tack isl tlb line) s ((closed.leaveL2 lk).serveHeld lk).drain)
      ∧ (u.drained d = true → x.tacksDue ≤ 1 → closed.claimed lk lk = false → x.held = [] → Drained u → Gives (.tack isl tlb line) s closed)

/-- R88, R89, R93, R94, R100: the first request of its agent to a slice with an entry free is served by the home. Of an idle line a lone reader is
granted all 144 tokens, another reader one that the home can spare, an owner all that it has; and each request is forwarded to every
recorded holder. Behind a blocked line a request is held, and joins the queue of one in queued-forward mode. -/
def HomeServes : Prop :=
  (∀ (s : State) (rid : Nat),
    (s.req rid = none → Gives (.homeRequest rid) s s)
    ∧ ∀ r, s.req rid = some r →
      ((r.state ≠ 0 ∨ s.firstReq r = false ∨ s.hasEntry r = false) → Gives (.homeRequest rid) s s)
      ∧ (r.state = 0 → s.firstReq r = true → s.hasEntry r = true → Gives (.homeRequest rid) s ((s.countRead rid r).homeServe rid).drain))
  ∧ (∀ (s : State) (rid : Nat) (r : Req), s.req rid = some r → r.state ≤ 1 → r.kind ≠ .read →
      let x := s.line r.line
      ((x.tx = true ∨ x.trans ≠ .none) → x.trans ≠ .qf →
        s.homeServe rid = s.hold r.line rid ∧ Held.req rid ∈ ((s.hold r.line rid).line r.line).held)
      ∧ (x.trans = .qf → s.homeServe rid = s.queueFor rid r false ∧ rid ∈ ((s.queueFor rid r false).line r.line).qf))
  ∧ (∀ (s s1 s2 s3 : State) (rid : Nat) (r : Req), s.req rid = some r → r.state ≤ 1 → (r.kind = .read → s.helperGrant rid r = none) →
      State.unblocked (s.line r.line) = true → s.ownTag r.line r.tag = (s1, true) →
      s1.hostFill r.line (decide (r.kind ≠ .read)) = (s2, .ok) → s2.fillL2 r.line r.hint r.ways r.turn = (s3, true) →
      let x := s3.line r.line
      x.ukey = none → State.replicated x = false → x.hs0 = .I → x.hs1 = .I → x.trSharers = 0 →
      (r.kind = .read → s.homeServe rid = s3.serveRead rid r)
      ∧ (r.kind = .own → s.homeServe rid = s3.serveOwn rid r)
      ∧ (∀ k, r.kind = .upd k → x.tokens = 144 → s.homeServe rid = s3.serveUpd rid r k))
  ∧ ∀ (s : State) (rid : Nat) (r : Req),
      let x := s.line r.line
      let sent (t : State) (n : Nat) (o : Bool) : Prop := (t.line r.line).tokens = x.tokens - n
        ∧ ∃ f : Flight, (t.line r.line).flight = x.flight ++ [f] ∧ f.src = .home ∧ f.dest = .agent r.agent ∧ f.n = n ∧ f.owner = o
      let told (t : State) : Prop := ∀ h ∈ State.sharersOf x.sharers, h ≠ r.agent →
        ∃ f ∈ (t.line r.line).fwds, f.to_ = h ∧ f.kind = .take rid r.agent
      let t := s.serveRead rid r
      let u := s.serveOwn rid r
      (x.tokens = 144 → State.keepsToken x = false → State.replicated x = false → isHost (lineLoc r.line) = false → sent t 144 x.owner)
      ∧ (1 ≤ x.tokens → x.tokens < 144 → State.keepsToken x = false → sent t 1 (x.owner && x.tokens = 1))
      ∧ (2 ≤ x.tokens → State.keepsToken x = true → sent t 1 false)
      ∧ (State.keepsToken x = true → x.tokens ≤ 1 → (t.line r.line).tokens = x.tokens ∧ (t.line r.line).flight = x.flight)
      ∧ told t ∧ told u
      ∧ (x.tokens ≠ 0 → sent u x.tokens x.owner)

/-- Every token of a line, wherever it is. -/
def tokensOf (s : State) (lk : Nat) : Nat :=
  (s.line lk).tokens + ((List.range 144).map fun a => (s.cline (lineIsl lk) a (lineNo lk)).tokens).sum
    + ((s.line lk).flight.map (·.n)).sum + ((s.line lk).replicas.map (·.tokens)).sum

/-- R85, R88, R99: no token is made or lost where the home grants, where an agent sends what it holds, or where a recall of replicas begins. -/
def TokensConserved : Prop :=
  (∀ (s : State) (lk a n : Nat) (o : Bool), n ≤ (s.line lk).tokens → tokensOf (s.grant lk a n o) lk = tokensOf s lk)
  ∧ (∀ (s : State) (isl a ln : Nat) (d : TokDest), a < 144 → ln < 2 ^ 41 → Tbl.wf s.coh.l1 = true →
      tokensOf (s.sendTokens isl a ln d) (isl * 2 ^ 41 + ln) = tokensOf s (isl * 2 ^ 41 + ln)
      ∧ ((s.sendTokens isl a ln d).cline isl a ln).tokens = 0)
  ∧ ∀ (s : State) (lk : Nat), tokensOf (s.startUnrepl lk) lk = tokensOf s lk

/-- R69, R88, R92, R94, R98, R100: of the tokens on their way from one place to another the first sent arrive first. They join those of the home
or of the agent they go to; under a recall they go home, under a persistent request to its agent; an agent that has neither the line nor a request
for it, or whose TLB no longer covers it, sends them home. -/
def TokensArrive : Prop :=
  ∀ (s : State) (isl line n : Nat) (dest : TokDest) (o : Bool),
    let lk := isl * 2 ^ 41 + line
    let x := s.line lk
    let act := Instr.tokenArrival isl line dest n o
    let there := x.flight.find? fun f => f.dest = dest && f.n = n && f.owner = o
    (there = none → Gives act s s)
    ∧ ∀ f, there = some f →
      let s1 := s.setLine lk { x with flight := x.flight.erase f }
      (s.firstFlight lk f = false → Gives act s s)
      ∧ (s.firstFlight lk f = true →
        (dest = .home → Gives act s (s1.homeTokens lk n o).drain)
        ∧ (dest = .home → x.trans = .none → x.held = [] → s.winner lk = none → Drained s → ∃ t : State, Gives act s t
            ∧ (t.line lk).tokens = x.tokens + n ∧ (t.line lk).flight = x.flight.erase f ∧ t.mem = s.mem ∧ t.exe = s.exe)
        ∧ (∀ sl, dest = .helper sl → Gives act s (s1.helperTokens lk sl n).drain)
        ∧ ∀ a, dest = .agent a →
          (x.trans = .recall → Gives act s ((s1.fly lk (.agent a) .home n o).refreshSharers lk).drain)
          ∧ (∀ b, x.trans ≠ .recall → s.drawnTo lk = some b → b ≠ a →
              Gives act s (((s1.setLine lk { s1.line lk with sharers := State.addSharer x.sharers b }).fly lk (.agent a) (.agent b) n o).refreshSharers lk).drain)
          ∧ (x.trans ≠ .recall → (s.drawnTo lk = none ∨ s.drawnTo lk = some a) → Gives act s (s1.takeTokens isl a line n o).drain
            ∧ (s.coh.reqs = [] → Drained s →
                ((s.cline isl a line).tokens ≠ 0 → ∃ t : State, Gives act s t ∧ (t.cline isl a line).tokens = (s.cline isl a line).tokens + n
                    ∧ t.mem = s.mem ∧ t.exe = s.exe)
                ∧ ((s.cline isl a line).tokens = 0 → Gives act s ((s1.fly lk (.agent a) .home n o).refreshSharers lk)))
            ∧ (∀ rid r, s.coh.reqs = [(rid, r)] → r.isl = isl → r.agent = a → r.line = lk → (s.cline isl a line).tokens = 0 → 0 < n → Drained s →
                (s.covered isl a r.spn r.va = true → ∃ t : State, Gives act s t ∧ (t.cline isl a line).tokens = n
                    ∧ (t.cline isl a line).spn = r.spn ∧ (t.cline isl a line).va = r.va ∧ t.mem = s.mem ∧ t.exe = s.exe)
                ∧ (s.covered isl a r.spn r.va = false → r.state ≤ 2 → ∃ t : State, Gives act s t ∧ (t.cline isl a line).tokens = 0 ∧ t.req rid = none
                    ∧ t.mem = s.mem ∧ t.exe = s.exe))))

/-- R53, R72, R88, R94, R97, R99, R100, R102: the first message of a slice to an agent is answered: with every token of the agent's, with all but
one, or with its partial sums; with nothing where its tag differs. An agent that gives a line up combines its partial sums and
sends its tokens home, a helper those of its replica. -/
def HoldersAnswer : Prop :=
  (∀ (s : State) (isl line holder : Nat) (k : FwdKind),
      let lk := isl * 2 ^ 41 + line
      let x := s.line lk
      let due := x.fwds.find? fun f => f.to_ = holder && f.kind = k
      (due = none → Gives (.forward isl line holder k) s s)
      ∧ ∀ f, due = some f →
        (s.firstFwd lk f = false → Gives (.forward isl line holder k) s s)
        ∧ (s.firstFwd lk f = true → Gives (.forward isl line holder k) s
            (((((s.setLine lk { x with fwds := x.fwds.erase f }).answerFwd isl line holder k).probed lk holder).refreshMesi lk).settleLine lk)))
  ∧ (∀ (s : State) (isl line holder rid b : Nat),
      let lk := isl * 2 ^ 41 + line
      (s.foreign lk holder = true → s.answerFwd isl line holder .recall = s ∧ s.answerFwd isl line holder .merge = s
        ∧ s.answerFwd isl line holder .downgrade = s ∧ s.answerFwd isl line holder (.take rid b) = s)
      ∧ (s.foreign lk holder = false → s.answerFwd isl line holder .recall = s.sendTokens isl holder line .home
        ∧ s.answerFwd isl line holder .merge = s.combine isl holder line
        ∧ s.answerFwd isl line holder .downgrade = s.keepOne isl holder line
        ∧ (s.drawnTo lk = none → b ≠ holder → s.answerFwd isl line holder (.take rid b) = s.sendTokens isl holder line (.agent b))
        ∧ (∀ a, s.drawnTo lk = some a → a ≠ holder → s.answerFwd isl line holder (.take rid b) = s.sendTokens isl holder line (.agent a))))
  ∧ ∀ (s : State) (isl agent line : Nat),
      let lk := isl * 2 ^ 41 + line
      (agent < 144 → (s.cline isl agent line).tokens = 0 → s.coh.partials.find (cacheKey isl agent line) = none →
        Gives (.lineEviction isl agent line) s s)
      ∧ (agent < 144 → ((s.cline isl agent line).tokens ≠ 0 ∨ s.coh.partials.find (cacheKey isl agent line) ≠ none) →
          Gives (.lineEviction isl agent line) s (((s.evictL1 isl agent line).refreshSharers lk).settleLine lk))
      ∧ (s.coh.partials.find (cacheKey isl agent line) = none → s.evictL1 isl agent line = s.sendTokens isl agent line .home)
      ∧ ∀ sl, agent = 144 + sl →
          (State.unblocked (s.line lk) = true → (∃ r ∈ (s.line lk).replicas, r.live = true ∧ r.slice = sl) →
            Gives (.lineEviction isl agent line) s ((s.dropReplica lk sl).settleLine lk))
          ∧ ((State.unblocked (s.line lk) = false ∨ ∀ r ∈ (s.line lk).replicas, ¬(r.live = true ∧ r.slice = sl)) →
            Gives (.lineEviction isl agent line) s s)

/-- R90 to R93: a request that is not answered in 2048 clocks is sent again, four times, and is then starved; one that its home holds has had its wait
notice. A starved one takes an entry of its slice's table while one of the 32 is free, and else puts the line into queued-forward mode or joins its
queue; served, it gives the entry back or passes the line on. -/
def StarvedRequests : Prop :=
  ∀ (s : State) (rid : Nat) (r : Req), s.req rid = some r →
    let held := (s.line r.line).held.contains (.req rid)
    let own : Req := { r with kind := match r.kind with | .upd _ => .own | k => k }
    let table := s.coh.prt.get [] (State.prtKey r.line)
    ((1 < r.state ∨ s.clock < r.sent + 2048) → Gives (.requestRetry rid) s s)
    ∧ (r.state ≤ 1 → r.sent + 2048 ≤ s.clock → held = true → Gives (.requestRetry rid) s (s.putReq rid { r with sent := s.clock }))
    ∧ (r.state ≤ 1 → r.sent + 2048 ≤ s.clock → held = false →
        let again : State := { s with coh.msgs := s.coh.msgs + 1 }
        (r.retries < 4 → Gives (.requestRetry rid) s
          (again.putReq rid { r with retries := r.retries + 1, sent := s.clock, seq := s.coh.msgs, state := 0 }))
        ∧ (4 ≤ r.retries → Gives (.requestRetry rid) s (again.putReq rid { r with sent := s.clock, seq := s.coh.msgs, state := 2 })))
    ∧ ((r.state ≠ 2 ∨ s.firstReq r = false ∨ held = true) → Gives (.persistentRequest rid) s s)
    ∧ (r.state = 2 → s.firstReq r = true → held = false →
        ((s.line r.line).trans = .qf → Gives (.persistentRequest rid) s ((s.putReq rid own).queueFor rid own true).drain)
        ∧ ((s.line r.line).trans ≠ .qf → table.length < 32 →
            let s1 := { s.putReq rid { own with state := 3 } with coh.prt := s.coh.prt.put (State.prtKey r.line) (table ++ [rid]) }
            Gives (.persistentRequest rid) s ((s1.activate rid own).serveNow rid).drain)
        ∧ ((s.line r.line).trans ≠ .qf → 32 ≤ table.length → s.winner r.line ≠ none → Gives (.persistentRequest rid) s (s.putReq rid own).drain)
        ∧ ((s.line r.line).trans ≠ .qf → 32 ≤ table.length → s.winner r.line = none →
            Gives (.persistentRequest rid) s ((s.putReq rid own).queueMode rid own).drain))
    ∧ ((r.state ≤ 2 ∨ (r.state ≠ 5 ∧ s.satisfied r = false)) → Gives (.persistentDeactivate rid) s s)
    ∧ (r.state = 5 → (s.line r.line).trans ≠ .qf → (∀ q ∈ s.coh.reqs, q.1 ≠ rid → q.2.line ≠ r.line) → Tbl.wf s.coh.reqs = true →
        ∃ t : State, Gives (.persistentDeactivate rid) s t ∧ t.req rid = none
          ∧ rid ∉ t.coh.prt.get [] (State.prtKey r.line) ∧ t.coh.lines = s.coh.lines ∧ t.mem = s.mem ∧ t.exe = s.exe)

/-- R98, R99: a line read 256 times within its time is replicated to the three helper slices 24, 48 and 72 on, where each has a way, with a redirect
entry in every agent's interface; the home keeps the other tokens. The share of each is the model's choice (log 25). -/
def HotLines : Prop :=
  ∀ (s : State) (isl line : Nat), line < 2 ^ 41 →
    let lk := isl * 2 ^ 41 + line
    let x := s.line lk
    let cold (s : State) : State := { s with coh.hot := s.coh.hot.filter fun h => h.line ≠ lk }
    (s.isHot lk = false → Gives (.hotLineReplicate isl line) s s)
    ∧ (s.isHot lk = true → State.mayReplicate x = false → Gives (.hotLineReplicate isl line) s (cold (s.setLine lk { x with making := [] })))
    ∧ (s.isHot lk = true → State.mayReplicate x = true → 4 ≤ x.tokens → (∀ e ∈ s.coh.lines, e.2.redirects = []) →
        (∀ d ∈ [24, 48, 72], s.l2Ways isl ((sliceOf line + d) % 96) (setOf line) = []) →
        ∃ t : State, Gives (.hotLineReplicate isl line) s t ∧ (t.line lk).tokens = x.tokens - 3 * (x.tokens / 4)
          ∧ (t.line lk).flight.map (fun f => (f.dest, f.n, f.owner)) = x.flight.map (fun f => (f.dest, f.n, f.owner))
              ++ [24, 48, 72].map (fun d => (TokDest.helper ((sliceOf line + d) % 96), x.tokens / 4, false))
          ∧ (t.line lk).redirects.map (·.1) = List.range 144 ∧ tokensOf t lk = tokensOf s lk)

/-- A line that nobody holds but its home. -/
def Idle (x : Line) : Prop :=
  State.unblocked x = true ∧ x.tokens = 144 ∧ x.ukey = none ∧ State.replicated x = false ∧ x.trSharers = 0

/-- R94, R103, R104: the host reads and writes half a line of an island: with the line at its home the bytes are answered or stored, and the half takes the state
that the request asks for; behind a recall, merge or the like a request waits in the line's queue. An unpopulated site answers with poison, which is
logged; a speculative read does nothing; an opcode that is not supported has an error completion, which is logged. That a write to an unpopulated site has
the same answer is the model's choice (log 122). -/
def HostMemory : Prop :=
  ∀ (s : State) (off : Nat) (mv : HS) (mask : W64) (data : List Byte),
    let lk := hdmLine off
    let h := hdmHalf off
    let l := lineLoc lk + 64 * h
    let x := s.line lk
    (s.populated (off / 2 ^ 39) = true → Idle x → Drained s →
      (∀ snp : Snp, ∃ t : State, Gives (.hostMemrd off snp) s t ∧ t.mem = s.mem ∧ t.exe = s.exe
          ∧ t.mgt.mod.m2sData = s.mgt.mod.m2sData ++ [(off, if s.badLine l then .poison else .data (Memory.readBytes s.mem l 64))]
          ∧ State.halfOf (t.line lk) h = (match snp with | .data => .S | .inv => .A | _ => State.halfOf x h))
      ∧ (∃ t : State, Gives (.hostMemwr off mv mask data) s t ∧ State.halfOf (t.line lk) h = mv ∧ t.exe = s.exe
          ∧ (Memory.wf s.mem = true → ∀ i, i < 64 → Memory.read t.mem (l + i) = if mask.getLsbD i then data.getD i 0 else Memory.read s.mem (l + i)))
      ∧ (∃ t : State, Gives (.hostMeminv off mv) s t ∧ State.halfOf (t.line lk) h = mv ∧ t.mem = s.mem ∧ t.exe = s.exe))
    ∧ (s.populated (off / 2 ^ 39) = true → x.trans ≠ .none → x.trans ≠ .biw →
      (∀ snp : Snp, Gives (.hostMemrd off snp) s (s.holdFor lk (.host (.hostMemrd off snp))).drain)
      ∧ Gives (.hostMemwr off mv mask data) s (s.holdFor lk (.host (.hostMemwr off mv mask data))).drain
      ∧ Gives (.hostMeminv off mv) s (s.holdFor lk (.host (.hostMeminv off mv))).drain)
    ∧ (s.populated (off / 2 ^ 39) = false →
      let t : State := { s with mgt.mod := { s.mgt.mod with m2sLog := s.mgt.mod.m2sLog ++ [off], m2sData := s.mgt.mod.m2sData ++ [(off, .poison)] } }
      (∀ snp : Snp, Gives (.hostMemrd off snp) s t) ∧ Gives (.hostMemwr off mv mask data) s t ∧ Gives (.hostMeminv off mv) s t)
    ∧ Gives (.hostMemspecrd off) s s
    ∧ ∀ op, Gives (.hostM2sUnsupported op) s
        { s with mgt.mod := { s.mgt.mod with m2sLog := s.mgt.mod.m2sLog ++ [op], m2sData := s.mgt.mod.m2sData ++ [(op, .unsupported)] } }

/-- R104, R105: the host's answer for the half that is asked for first ends its part of a back-invalidation, with its data where it held the half in A; a
conflict that nothing stands for changes nothing, and else the request that met the back-invalidation comes first. -/
def BackInvalidation : Prop :=
  ∀ (s : State) (isl line half : Nat),
    let lk := isl * 2 ^ 41 + line
    let x := s.line lk
    let agreed (s : State) : State :=
      { s with coh.heldM2S := s.coh.heldM2S.map fun m => if m = (lk, half, false) then (lk, half, true) else m }
    (x.trans ≠ .biw ∨ x.tx = true ∨ x.bisnp = [] ∨ (lk, half, false) ∈ s.coh.heldM2S → ∀ d, Gives (.bisnpResponse isl line half d) s s)
    ∧ (∀ inv b rest d, x.trans = .biw → x.tx = false → x.bisnp = (half, inv) :: b :: rest → (lk, half, false) ∉ s.coh.heldM2S →
        s.bridgeFor lk half = [] → half < 2 →
        ∃ t : State, Gives (.bisnpResponse isl line half d) s t ∧ (t.line lk).bisnp = b :: rest
          ∧ t.mem = (match d with
              | some bs => if State.halfOf x half = .A then Memory.writeBytes s.mem (lineLoc lk + 64 * half) (bs.take 64) else s.mem
              | none => s.mem)
          ∧ State.halfOf (t.line lk) half = (if inv then .I else .S))
    ∧ ((lk, half, false) ∉ s.coh.heldM2S → Gives (.biConflict isl line half) s s)
    ∧ ((lk, half, false) ∈ s.coh.heldM2S →
      (s.bridgeFor lk half = [] → Gives (.biConflict isl line half) s (agreed s))
      ∧ (∀ i r s1, s.bridgeFor lk half = i :: r → s.hostDo i true = (s1, false) → Gives (.biConflict isl line half) s s1)
      ∧ (∀ i r s1, s.bridgeFor lk half = i :: r → s.hostDo i true = (s1, true) →
          Gives (.biConflict isl line half) s (agreed { s1 with coh.bridge := s1.coh.bridge.erase i })))

/-- R106, R113: a host snoop of a host-coherent line whose tokens are home makes it S, with dirty halves written back, or drops it, with the snooped half
returned and the other given up; a half that comes from the host is stored and the line takes the weaker of the states; an answer without
data completes a write of an uncached host page. -/
def HostCoherentLines : Prop :=
  (∀ (s : State) (isl line half : Nat),
    let lk := isl * 2 ^ 41 + line
    let x := s.line lk
    Drained s →
    (∀ inv, x.owned = none → x.hostOwn = [] → Gives (.hostSnoop isl line half inv) s s)
    ∧ (x.owned = some false → Gives (.hostSnoop isl line half false) s s)
    ∧ (x.owned = some true → x.hostOwn = [] → Idle x → x.hs0 = .I → x.hs1 = .I →
        (∃ t : State, Gives (.hostSnoop isl line half true) s t ∧ t.mem = s.mem ∧ t.exe = s.exe
          ∧ t.line lk = { x with inL2 := false, way := 0, mark := .none, used := 0, l2dirty := false, owned := none }
          ∧ t.mgt.mod.cxlOut = s.mgt.mod.cxlOut ++ [.snoopData lk half (s.halfBytes lk half),
              if x.l2dirty then .dirtyEvict lk (1 - half % 2) (s.halfBytes lk (1 - half % 2)) else .cleanEvict lk (1 - half % 2)])
        ∧ ∃ t : State, Gives (.hostSnoop isl line half false) s t ∧ t.mem = s.mem ∧ t.exe = s.exe
          ∧ t.line lk = { x with owned := some false, l2dirty := false }
          ∧ t.mgt.mod.cxlOut = s.mgt.mod.cxlOut
              ++ if x.l2dirty then [.writeBack lk 0 (s.halfBytes lk 0), .writeBack lk 1 (s.halfBytes lk 1)] else []))
  ∧ ∀ (s : State) (lk half : Nat) (own : Bool) (data : List Byte),
    let x := s.line lk
    let first := s.coh.wow.find? fun w => w.half = (lineLoc lk - 2 ^ 48) / 64 + half && w.core / 144 = lineIsl lk
    (data = [] → (first = none → Gives (.cxlCacheResponse lk half own data) s s)
      ∧ ∀ w, first = some w → Gives (.cxlCacheResponse lk half own data) s { s with coh.wow := s.coh.wow.erase w })
    ∧ (data ≠ [] → (∀ h ∈ x.hostOwn, h.1 ≠ half) → Gives (.cxlCacheResponse lk half own data) s s)
    ∧ (∀ o, data ≠ [] → x.hostOwn = [(half, o)] → x.trans = .none → x.held = [] → Drained s → ∃ t : State, Gives (.cxlCacheResponse lk half own data) s t
        ∧ t.line lk = { x with hostOwn := [], owned := some (own && o && x.owned.getD true), mesi := (t.line lk).mesi }
        ∧ t.mem = Memory.writeBytes s.mem (lineLoc lk + 64 * half) (data.take 64) ∧ t.exe = s.exe)

end Sys2Proof.Claims

/-! Decoding, one step, frames, invariants and reset. -/

namespace Sys2Proof.Claims

open Sys2Proof Sys2Proof.Machine

/-- R217 to R222, R225, R232, R240, R243, R251, R278, R281, R302, R307, R315, R320, R324, R333, R337: words that the spec writes out decode to
the instructions it gives for them. -/
def WordsOfTheSpec : Prop :=
  let t : Guard := ⟨false, 7⟩
  let one : Guard := ⟨false, 1⟩
  let m (g : Guard) (d a x : Opnd) (os : Bool) (ofs : BitVec 20) (wid : BitVec 3) (sem : BitVec 2) (scope sub : BitVec 3) : MI :=
    { guard := g, d := d, a := a, os := os, x := x, ofs := ofs, wid := wid, hint := 0, sem := sem, scope := scope, skw := false, sub := sub }
  let r (g : Guard) (ty : Ty) (sub : BitVec 11) (u : BitVec 3) (lit : Option W64) (d a b c : Opnd) : RI :=
    { guard := g, ty := ty, sub := sub, u := u, lit := lit, d := d, a := a, b := b, c := c }
  let e (g : Guard) (d a b c : Opnd) (fb : BitVec 3) (sub : BitVec 16) : EI := { guard := g, d := d, a := a, b := b, c := c, fb := fb, sub := sub }
  decodeHeader 0xFF0040F200000000 = .ok ⟨4, 0, 15, 1, false, false⟩
  ∧ decodeWord false 0xA07030A000402000 0 = .ok (.ld (m t (.v 3) (.s 10) .none false 0x40 2 0 0 0))
  ∧ decodeWord false 0x4010402060022000 0 = .ok (.vadd (r one .s32 0 2 none (.v 4) (.v 2) (.s 6) .none))
  ∧ decodeWord false 0x0070405FF0060001 0 = .ok (.sadd (r t .n32 1 0 none (.s 4) (.s 5) (.imm 63) .none))
  ∧ decodeWord false 0x2270006C59008000 0x0000000200004000 = .ok (.bri (r t .s8 0 0 (some 0x0000000200004000) .none (.v 6) (.imm 5) .lit))
  ∧ decodeWord false 0x7370810000030C40 0 = .ok (.cvtb (r t .e4m3 0x440 0 none (.v 8) (.v 16) .none (.num 0)))
  ∧ decodeWord false 0x8070302C1018200D 0 = .ok (.shfl (r t .b32 0x0D 2 none (.v 3) (.v 2) (.imm 1) (.p 1)))
  ∧ decodeWord false 0xA070702040069009 0 = .ok (.ld (m t (.v 7) (.v 2) (.s 4) true 6 1 0 0 1))
  ∧ decodeWord false 0xA37061408010200F 0 = .ok (.atomArith (m t (.v 6) (.s 20) (.v 8) true 0x10 2 0 0 7))
  ∧ decodeWord false 0xA970000000000120 0 = .ok (.fence (m t .none .none .none false 0 0 1 1 0))
  ∧ decodeWord false 0xA970000000000361 0 = .ok (.fence (m t .none .none .none false 0 0 3 3 1))
  ∧ decodeWord false 0xC110406100000003 0 = .ok (.puts (e one (.s 4) (.s 6) (.s 16) .none 0 3))
  ∧ decodeWord false 0xD070510200010000 0 = .ok (.mma (e t (.tile 5) (.v 16) (.v 32) .none 1 0))
  ∧ decodeWord false 0xD37030A0C0000801 0 = .ok (.adrn (e t (.tile 3) (.s 10) (.s 12) .none 0 0x801))
  ∧ decodeWord false 0xD570014160006000 0 = .ok (.kick (r t .s8 0 3 none .none (.s 20) (.s 22) .none))
  ∧ decodeWord false 0x927000000000000D 0 = .ok (.bars (r t .s8 0x0D 0 none .none .none .none .none))
  ∧ decodeWord false 0x9570200000000000 0 = .ok (.bart (r t .s8 0 0 none (.p 2) .none .none .none))
  ∧ decodeWord false 0xE070000000000050 0 = .ok (.trap { guard := t, d := .none, a := .none, imm := 5, sub := 0 })
  ∧ decodeWord false 0xE170000000000000 0 = .ok (.rett (r t .s8 0 0 none .none .none .none .none))
  ∧ decodeWord true 0xF070000000000000 0 = .ok (.evpop (r t .s8 0 0 none (.s 0) .none .none (.p 0)))
  ∧ decodeWord false 0xA970000000000161 0 = .error .fields
  ∧ decodeWord false 0x5CF0000000000000 0 = .error .unassigned
  ∧ decodeWord false 0xF070000000000000 0 = .error .unit

/-- The unassigned codes of R233. -/
def unassignedCodes : List Nat :=
  let run (a b : Nat) : List Nat := (List.range (b + 1 - a)).map (a + ·)
  run 0x1C 0x1F ++ run 0x2D 0x3F ++ run 0x5C 0x5F ++ run 0x77 0x7F ++ run 0x89 0x8F ++ run 0x96 0x9F
    ++ run 0xAE 0xBF ++ run 0xC8 0xCF ++ run 0xD6 0xDF ++ run 0xE7 0xEF ++ run 0xF5 0xFE

/-- R233: the 108 unassigned codes are refused at check 3 whatever the other bits, and a fragment that comes to one is moored with cause 0x10, within a
speculative window once it has closed; code 0xFF is refused in instruction position, and stands in header position only. -/
def UnassignedCodes : Prop :=
  unassignedCodes.length = 108
  ∧ (∀ (pilot : Bool) (w lit : W64), (w.extractLsb' 56 8).toNat ∈ unassignedCodes → decodeWord pilot w lit = .error .unassigned)
  ∧ (∀ (pilot : Bool) (w lit : W64), w.extractLsb' 56 8 = 0xFF → decodeWord pilot w lit = .error .placement)
  ∧ (∀ (w : W64) (h : Header), decodeHeader w = .ok h → w.extractLsb' 56 8 = 0xFF)
  ∧ ∀ (s s1 : State) (ws : List W64), s.fetchHere = (s1, .ok ws) →
      let op := (ws.getD s1.ctl.cpos 0).extractLsb' 56 8
      (op.toNat ∈ unassignedCodes ∨ op = 0xFF) →
      ((s1.pilot = true ∨ s1.frag.window = none) → s.issueWord = (s1.moorAll 0x10 none, none))
      ∧ (s1.pilot = false → s1.frag.window ≠ none → s.issueWord = (s1.stall 5 .window, none))

/-- The codes a core may not execute, and those a Pilot may (R234). -/
def pilotOnlyCodes : List Nat := [0xF0, 0xF1, 0xF2, 0xF3, 0xF4]

/-- R217 to R222, R231, R232: every well-formed instruction, core's or Pilot's, is read back from its own bytes, whatever follows them. -/
def DecodeEncode : Prop :=
  ∀ (pilot : Bool) (i : Instr) (rest : List Byte), i.wf pilot = true → decode pilot (encode i ++ rest) = .ok (i, rest)

/-- R217 to R222, R231, R234: what a word decodes to is well formed and has that word, with its literal where it takes one, as its only encoding; a
Pilot-only code never decodes on a core. -/
def EncodeDecode : Prop :=
  (∀ (pilot : Bool) (w lit : W64) (i : Instr), decodeWord pilot w lit = .ok i →
      i.wf pilot = true ∧ encodeWords i = (if i.hasLit then [w, lit] else [w]))
  ∧ (∀ (w : W64) (h : Header), decodeHeader w = .ok h → h.wf = true ∧ encodeHeader h = w)
  ∧ ∀ (w lit : W64), (w.extractLsb' 56 8).toNat ∈ pilotOnlyCodes → decodeWord false w lit = .error .unit

/-- R13, R32, R33, R48, R211, R214, R231: the agent whose turn it is executes the instruction that the word at its position decodes to, when the word is placed
where it may stand and no operation in flight and no window holds it back; at a clause boundary it fetches the whole clause and executes the header there, or
is moored at the header where the fetch of any of its words fails. A word is the eight bytes at its translated address, lowest first. -/
def StepRunsTheWord : Prop :=
  (∀ (s s1 : State) (a : Agent) (ws : List W64) (i : Instr),
    let s0 := s.forAgent a
    s.pick = .agent a → s0.ctl.cpos ≠ 0 → (s0.pilot = true ∨ s0.frag.run ≠ 0) → s0.fetchHere = (s1, .ok ws) →
    decodeWord s1.pilot (ws.getD s1.ctl.cpos 0) (ws.getD (s1.ctl.cpos + 1) 0) = .ok i → s1.placed i = true →
    (s1.pilot = true → step s = exec i s1)
    ∧ (s1.pilot = false → s1.frag.acquire = none →
        State.conflict s1.crew s1.frag.mask (namedRegs false s1.frag.ctl.sup i).1 (namedRegs false s1.frag.ctl.sup i).2 = false →
        (s1.frag.window = none → step s = exec i s1.takeBay)
        ∧ (∀ x, s1.frag.window = some x → windowAdmits i = true → x.count < 64 → step s = exec i (s1.noteWindow i).takeBay)))
  ∧ (∀ (s s1 s2 : State) (a : Agent) (ws : List W64) (h : Header),
    let s0 := s.forAgent a
    s.pick = .agent a → s0.ctl.cpos = 0 → s0.ctl.past = false → (s0.pilot = true ∨ s0.frag.window = none) → s0.fetchWords s0.ctl.pc.toNat 1 = (s1, .ok ws) →
    decodeHeader (ws.headD 0) = .ok h → h.hold = false →
    (∀ code, s1.fetchClause s0.ctl.pc.toNat (ws.headD 0) (h.len.toNat + 1) = (s2, .ok code) →
      step s = exec (.clauseHeader h) (s2.setCtl { s2.ctl with code := code }).takeBay)
    ∧ (∀ c va f, s1.fetchClause s0.ctl.pc.toNat (ws.headD 0) (h.len.toNat + 1) = (s2, .fault c va f) →
      (s2.pilot = true ∨ s2.frag.window = none) → step s = .next (s2.moorAll c (some va) (some f))))
  ∧ (∀ (s : State) (a : Agent),
    let s0 := s.forAgent a
    s.pick = .agent a → s0.ctl.cpos = 0 → s0.ctl.past = true → (s0.pilot = true ∨ s0.frag.window = none) →
    step s = .next (s0.moorAll 2 (some (BitVec.ofNat 64 (2 ^ 52))) (some 0)))
  ∧ (∀ (s : State) (i : Instr), s.pick = .event i → step s = exec i s.tick)
  ∧ (∀ (s : State) (i : Instr), s.pick = .outside i → step s = exec i { s with inbox := s.inbox.drop 1 }.tick)
  ∧ (∀ (s s1 s2 : State) (stamp va l ca : Nat) (ws : List W64), s.parkWait = false → s.resolve s.me (BitVec.ofNat 64 va) 8 .fetch = (s1, .pa l ca) →
      s1.unpark.badLine l = false → s1.unpark.lineOfCode s.me.isl l ca = (s2, some ws) →
      (s.codeOf true stamp va 1).2 = .ok ((ws.drop (va % 128 / 8)).take 1))
  ∧ ∀ (s s2 : State) (isl l ca : Nat) (ws : List W64), s.lineOfCode isl l ca = (s2, some ws) →
      ws.length = 16 ∧ ∀ i k, i < 16 → k < 8 → (ws.getD i 0).extractLsb' (8 * k) 8 = Memory.read s2.mem (l / 128 * 128 + 8 * i + k)

/-- Whether an instruction writes a pair: never, always, with a 64-bit type. -/
def single (_ : RI) : Bool := false
def paired (_ : RI) : Bool := true
def byType (x : RI) : Bool := x.ty.regs = 2

/-- Scalar instructions, each with whether it writes a pair. -/
def scalarForms : List ((RI → Instr) × (RI → Bool)) :=
  (scalarOps.map fun p => (p.1, single))
  ++ [(.spopc, single), (.sclz, single), (.scmp, single), (.sadd64, paired), (.ssub64, paired), (.slea, paired)]
  ++ [(.smov, byType), (.ssel, byType)]

/-- Vector and floating-point instructions, each with whether it writes a pair. -/
def vectorForms : List ((RI → Instr) × (RI → Bool)) :=
  (vectorOps.map fun p => (p.1, single)) ++ (floatOps.map fun p => (p.1, single))
  ++ [(.vabs, single), (.vabsd, single), (.vpopc, single), (.vclz, single), (.vcmp, single), (.vdot4, single)]
  ++ [(.vand, byType), (.vor, byType), (.vxor, byType), (.vandn, byType)]
  ++ [(.vmov, byType), (.vsel, byType), (.vadd64, paired), (.vlea, paired)]
  ++ [(.fmin, single), (.fmax, single), (.fcmp, single), (.frnd, single), (.fclass, single)]

/-- Nothing but execution state differs. -/
def OnlyExec (s t : State) : Prop := t = { s with exe := t.exe }

/-- The walker that an instruction reads. -/
def Walks (x : RI) (k : Nat) : Prop := x.a = .w (BitVec.ofNat 3 k) ∨ x.b = .w (BitVec.ofNat 3 k) ∨ x.c = .w (BitVec.ofNat 3 k)

/-- R209, R241, R262: frame of the scalar instructions within a clause: only the destination and a walker that is read change; a false guard writes nothing;
memory, caches, translation, engines and the registers of every other agent stay. -/
def ScalarFrame : Prop :=
  ∀ p ∈ scalarForms, ∀ (x : RI) (s : State), s.ctl.cpos + RI.len x ≤ s.ctl.hdr.len.toNat + 1 → (s.pilot = false → s.frag.crew < 64) →
    ∃ t : State, Gives (p.1 x) s t ∧ OnlyExec s t
      ∧ (∀ m, m < 128 → (∀ n, x.d = .s n → m ≠ n.toNat ∧ (p.2 x = true → m ≠ n.toNat + 1)) → t.rdS m = s.rdS m)
      ∧ (∀ k, k < 7 → x.d ≠ .p (BitVec.ofNat 3 k) → t.rdQ k = s.rdQ k)
      ∧ (∀ k, k < 8 → ¬ Walks x k → t.walker k = s.walker k)
      ∧ (s.qguard x.guard = false → (∀ m, t.rdS m = s.rdS m) ∧ ∀ k, t.rdQ k = s.rdQ k)
      ∧ t.crew.vregs = s.crew.vregs ∧ t.crew.preds = s.crew.preds ∧ t.crew.astat = s.crew.astat
      ∧ (∀ j, j ≠ s.ckey → t.crewAt j = s.crewAt j) ∧ (∀ j, (s.pilot = true ∨ j ≠ s.fkey) → t.fragAt j = s.fragAt j)
      ∧ t.ctl.pc = s.ctl.pc ∧ t.ctl.cpos = s.ctl.cpos + RI.len x ∧ t.ctl.sup = s.ctl.sup

/-- R209, R262, R264: frame of the vector and floating-point instructions within a clause: only the destination, in active lanes, a walker that is read and, of the
floating-point ones, `sys.astat` change. -/
def VectorFrame : Prop :=
  ∀ p ∈ vectorForms, ∀ (x : RI) (s : State), s.pilot = false → s.frag.crew < 64 → s.ctl.cpos + RI.len x ≤ s.ctl.hdr.len.toNat + 1 →
    (p.1 x).wf false = true →
    ∃ t : State, Gives (p.1 x) s t ∧ OnlyExec s t
      ∧ (∀ n L, n ≤ 255 → L < 32 → ((∀ d, x.d = .v d → n ≠ d.toNat ∧ (p.2 x = true → n ≠ d.toNat + 1)) ∨ (s.act x.guard).getLsbD L = false) →
          t.rdV n L = s.rdV n L)
      ∧ (∀ k L, L < 32 → k < 7 → (x.d ≠ .p (BitVec.ofNat 3 k) ∨ (s.act x.guard).getLsbD L = false) → t.rdP k L = s.rdP k L)
      ∧ t.crew.uni.sregs = s.crew.uni.sregs ∧ t.crew.uni.q = s.crew.uni.q ∧ (∀ k, k < 8 → ¬ Walks x k → t.walker k = s.walker k)
      ∧ (∀ j, j ≠ s.ckey → t.crewAt j = s.crewAt j) ∧ (∀ j, j ≠ s.fkey → t.fragAt j = s.fragAt j)
      ∧ t.frag.mask = s.frag.mask ∧ t.ctl.pc = s.ctl.pc ∧ t.ctl.cpos = s.ctl.cpos + RI.len x

/-- The agent goes on past the end of its clause below the end of the virtual space. -/
def BelowTop (s : State) : Prop := s.fallPc < 2 ^ 52

/-- R211: at any place of a clause that does not end the virtual space the same instructions leave memory, caches, translation and the precincts as they were;
within the clause always, at its end where no crew has a serialised branch, whose record a join there changes (R197). What waits in the write buffers stays, whichever
fragments may come to wait for it at a join (R109). -/
def RegisterWorkKeepsMemory : Prop :=
  ∀ p ∈ scalarForms ++ vectorForms, ∀ (x : RI) (s t : State), BelowTop s → Gives (p.1 x) s t →
    (s.ctl.cpos + RI.len x ≤ s.ctl.hdr.len.toNat + 1 ∨ ∀ j, (s.crewAt j).spills = []) →
    t.mem = s.mem ∧ t.trn = s.trn ∧ t.mgt = s.mgt ∧ t.clock = s.clock ∧ t.inbox = s.inbox
    ∧ t.coh = { s.coh with wbuf := t.coh.wbuf }
    ∧ t.coh.wbuf.map (fun e => { e with owners := [] }) = s.coh.wbuf.map (fun e => { e with owners := [] })

/-- The invariant of memory: its canonical form, kept by every step from every state that has it. -/
def MemoryCanonical : Prop := ∀ s t : State, s.MemOk → step s = .next t → t.MemOk

/-- R416, R417, R421, R391: right after reset memory lists nothing and has its canonical form, no precinct and no link exists, MODE is 0 and the power limit is 30100;
the first step is the module's start, after which MODE is 1, healthy and populated sites are all 20, and six measurements are taken. The populated sites are the
model's choice (log 2). -/
def AfterReset : Prop :=
  State.reset.MemOk ∧ (∀ a, Memory.read State.reset.mem a = 0) ∧ State.reset.mgt.mod.mode = 0 ∧ State.reset.mgt.mod.pwrcap = 30100
  ∧ State.reset.mgt.mod.pop = 0 ∧ State.reset.mgt.mod.reason = 0 ∧ State.reset.mgt.mod.healthy = 0
  ∧ (∀ p, (State.reset.precinct p).valid = false) ∧ (∀ q, (State.reset.queue q).en = false) ∧ (∀ i p, (State.reset.port i p).link = 0)
  ∧ State.reset.booted = false
  ∧ ∃ t : State, step State.reset = .next t ∧ t.MemOk ∧ t.booted = true ∧ t.mgt.mod.mode = 1 ∧ t.mgt.mod.healthy = 0xFFFFF ∧ t.mgt.mod.pop = 0xFFFFF
      ∧ t.mgt.mod.digests.length = 6 ∧ t.inbox = []

end Sys2Proof.Claims

namespace Sys2Proof.Claims

open Sys2Proof Sys2Proof.Machine

/-- The address lies in a region of the enabled aperture `k`, 0 LP to 5 XCM, whose first region is at bits [51:23] of its register. -/
def InAperture (s : State) (w : Who) (k va : Nat) : Prop :=
  (s.apReg w k).getLsbD 0 = true ∧ fld (s.apReg w k) 23 29 * 2 ^ 23 ≤ va ∧ va < fld (s.apReg w k) 23 29 * 2 ^ 23 + apRegionCount k * 2 ^ 23
where
  /-- Regions of 8 MiB: eight of the Basin, four of XSP, one of every other (R19). -/
  apRegionCount (k : Nat) : Nat := if k = 3 then 8 else if k = 4 then 4 else 1

/-- R21: of the enabled apertures that an address lies in, the first in the order LP, SP, CM, BSN, XSP, XCM takes it; a write of an aperture register takes effect
whatever the other apertures hold. -/
def ApertureOrder : Prop :=
  (∀ (s : State) (w : Who) (va k base : Nat),
    s.apHit w va [0, 1, 2, 3, 4, 5] = some (k, base) ↔
      k < 6 ∧ InAperture s w k va ∧ base = fld (s.apReg w k) 23 29 * 2 ^ 23 ∧ ∀ j, j < k → ¬ InAperture s w j va)
  ∧ (∀ (s : State) (w : Who) (va : Nat), s.apHit w va [0, 1, 2, 3, 4, 5] = none ↔ ∀ k, k < 6 → ¬ InAperture s w k va)
  ∧ ∀ (x : II) (s : State) (k : Nat) (v : W64) (n : BitVec 7), k < 6 → s.qguard x.guard = true → s.sup = true → x.a = .s n → x.sub.getLsbD 1 = true →
      (x.imm.extractLsb' 0 10).toNat = 0x040 + k → v = s.rdS64 n.toNat →
      ∃ t : State, Gives (.syswr x) s (t.advance 1)
        ∧ (t.ctx s.me.isl s.me.spn).aps.get 0 k = v &&& (if k = 3 then 0xFFFFFFC000003 else if k = 4 then 0xFFFFFFE000003 else 0xFFFFFFF800003)
        ∧ ∀ j, j ≠ k → (t.ctx s.me.isl s.me.spn).aps.get 0 j = (s.ctx s.me.isl s.me.spn).aps.get 0 j

end Sys2Proof.Claims

/-! Instructions and events that complete, with what they leave, under conditions on the state and the operands alone. -/

namespace Sys2Proof.Claims

open Sys2Proof Sys2Proof.Machine

/-- FSCALE, FDOT2 and the conversion instructions, each with the number of registers it writes (R272 to R277). -/
def convForms : List ((RI → Instr) × (RI → Nat)) :=
  [(.fscale, fun _ => 1), (.fdot2, fun _ => 1), (.pack, fun _ => 1), (.unpk, fun _ => 1), (.cvt, fun x => x.ty.regs),
   (.cvtb, fun x => x.ty.width * (match x.c with | .num n => if n.getLsbD 0 then 32 else 16 | _ => 16) / 32 + 1)]

/-- R173, R209, R262, R272 to R277: FSCALE, FDOT2, CVT, CVTB, PACK and UNPK complete within a clause; only their destination registers, in active lanes,
a walker that is read and `sys.astat` change, and `sys.astat` loses no flag. -/
def ConversionFrame : Prop :=
  ∀ p ∈ convForms, ∀ (x : RI) (s : State), s.pilot = false → s.frag.crew < 64 → s.ctl.cpos + RI.len x ≤ s.ctl.hdr.len.toNat + 1 →
    (p.1 x).wf false = true →
    ∃ t : State, Gives (p.1 x) s t ∧ OnlyExec s t
      ∧ (∀ n L, n ≤ 255 → L < 32 → ((∀ d, x.d = .v d → n < d.toNat ∨ d.toNat + p.2 x ≤ n) ∨ (s.act x.guard).getLsbD L = false) →
          t.rdV n L = s.rdV n L)
      ∧ t.crew.preds = s.crew.preds ∧ t.crew.uni.sregs = s.crew.uni.sregs ∧ t.crew.uni.q = s.crew.uni.q
      ∧ (∀ k, k < 8 → ¬ Walks x k → t.walker k = s.walker k) ∧ t.crew.astat ||| s.crew.astat = t.crew.astat
      ∧ (∀ j, j ≠ s.ckey → t.crewAt j = s.crewAt j) ∧ (∀ j, j ≠ s.fkey → t.fragAt j = s.fragAt j)
      ∧ t.frag.mask = s.frag.mask ∧ t.ctl.pc = s.ctl.pc ∧ t.ctl.cpos = s.ctl.cpos + RI.len x

/-- The fragment stands at a clause header with its lanes, token and registers, and memory is as it was. -/
def StandsAt (s u : State) (pc : BitVec 52) (m : Mask) (k : BitVec 12) : Prop :=
  u.frag.ctl.pc = pc ∧ u.frag.ctl.cpos = 0 ∧ u.frag.mask = m ∧ u.frag.token = k
  ∧ u.crew.vregs = s.crew.vregs ∧ u.crew.preds = s.crew.preds ∧ u.crew.uni = s.crew.uni ∧ u.mem = s.mem

/-- R189, R206, R251, R252, R255: BRI, when its lanes' table entries all name one clause, moves the fragment there; JOIN takes a fresh join entry for its address
and goes to its target; EXIT takes the active lanes out, counted in the gang, and the others go on; each with the registers and memory as they were. -/
def TransferFrames : Prop :=
  (∀ (x : RI) (s0 : State) (j : BitVec 52) (e : Nat → W32) (t : W64),
    let r := s0.walk [x.b]
    let s := r.2
    let m := s.branchLanes
    let table := s.relTarget ((x.lit.getD 0).extractLsb' 28 24).toInt
    let idx (L : Nat) : Nat := (s.rdV (vnum x.a) L).toNat
    s.pilot = false → s.joinAddr ((x.lit.getD 0).extractLsb' 8 20).toInt = .ok j → m &&& s.guardMask x.guard = m → m ≠ 0 → Target s t →
    (∀ L ∈ lanesOf m, idx L < (s.u32 r.1 x.lit x.b).toNat ∧ EntryAt s (table + BitVec.ofNat 64 (4 * idx L)) (e L)
        ∧ table + (e L).signExtend 64 * 8 = t) →
    NoJoinAt s (BitVec.ofNat 52 t.toNat) →
    ∃ u : State, Gives (.bri x) s0 u ∧ StandsAt s u (BitVec.ofNat 52 t.toNat) s.frag.mask s.frag.token)
  ∧ (∀ (x : BI) (s : State) (j : BitVec 52) (k : BitVec 12),
    let to_ := BitVec.ofNat 52 (away s x.tgt.toInt).toNat
    s.pilot = false → s.joinAddr x.join.toInt = .ok j → s.branchLanes ≠ 0 → Target s (away s x.tgt.toInt) →
    (s.frag.token = 0 ∨ (s.joinAt s.core s.frag.token).jaddr ≠ some j) → s.freshToken s.core = some k → to_ ≠ j →
    State.newestSpill s.crew s.entry = none →
    ∃ u : State, Gives (.join x) s u ∧ StandsAt s u to_ s.frag.mask k
      ∧ (u.joinAt s.core k).jaddr = some j ∧ (u.joinAt s.core k).ptoken = s.frag.token ∧ (u.joinAt s.core k).pend = 1)
  ∧ ∀ (x : RI) (s0 : State),
    let r := s0.walk [x.a]
    let s := r.2
    let m := s.act x.guard
    let n := (lanesOf (m &&& ~~~s.helpers)).length
    s.pilot = false → s.frag.errs = [] → (m ≠ 0 → s.released (s.exitScope m) = true) → s.gang.left + n ≠ s.gang.lanes → s.frag.mask &&& ~~~m ≠ 0 → s.fallPc < 2 ^ 52 →
    NoJoinAt s (BitVec.ofNat 52 s.fallPc) →
    ∃ u : State, Gives (.exit x) s0 u ∧ StandsAt s u (BitVec.ofNat 52 s.fallPc) (s.frag.mask &&& ~~~m) s.frag.token
      ∧ u.crew.live = (if m = 0 then s.crew.live else s.crew.live &&& ~~~m) ∧ (u.gangAt s.gangKey).left = s.gang.left + n

/-- A crew with nothing before its next access to wait for, and storage without errors: no access in flight or parked, nothing in a write buffer or on its way to the
host, no release, error or window, and no old value of an address register or tile window that it might use. -/
def Calm (s : State) : Prop :=
  s.pilot = false ∧ s.frag.parked = none ∧ s.crew.ops = [] ∧ s.coh.wbuf = [] ∧ s.coh.wow = [] ∧ s.coh.bad = [] ∧ s.coh.badWords = [] ∧ s.coh.soft = []
  ∧ s.frag.rel = [] ∧ s.frag.errs = [] ∧ s.frag.window = none ∧ (s.ctx s.me.isl s.me.spn).older = [] ∧ s.gang.twinOld = []

/-- The offset of an address from the base of the SP aperture. -/
def spOfs (s : State) (a : W64) : Nat := a.toNat - fld (s.apReg s.me 1) 23 29 * 2 ^ 23

/-- `n` bytes from an address lie in the gang's part of the scratchpad, by way of the SP aperture, and may be accessed (R19 to R25). -/
def InScratch (s : State) (a : W64) (align n : Nat) : Prop :=
  0x10000 ≤ a.toNat ∧ a.toNat < 2 ^ 52 ∧ a.toNat % align = 0
  ∧ s.apHit s.me a.toNat [0, 1, 2, 3, 4, 5] = some (1, fld (s.apReg s.me 1) 23 29 * 2 ^ 23)
  ∧ (s.me.sup = true ∨ (s.apReg s.me 1).getLsbD 1 = true) ∧ spOfs s a + n ≤ s.apLimit s.me 1

/-- The location in the scratchpad of an offset, skewed or not (R42, R43). -/
def spAt (s : State) (skw : Bool) (o : Nat) : Nat := s.spLoc s.me (if skw then s.spOffset s.me s.gang o else o)

/-- A lane's access of `n` bytes reaches one piece of storage at once: of the scratchpad, or of global memory through an entry of its TLB. -/
def Lands (s : State) (a : W64) (n : Nat) (k : AKind) (skw : Bool) (l ca : Nat) : Prop :=
  (InScratch s a n n ∧ (skw = true → n ≤ 4) ∧ l = spAt s skw (spOfs s a) ∧ ca = 0)
  ∨ (a.toNat % n = 0 ∧ Mapped s a.toNat k l ∧ ∃ e, s.cached s.me a.toNat = some e ∧ ca = fld e.pte 6 2)

/-- R95, R113, R120, R290, R293: a store or RED of a crew with nothing to wait for, whose lanes' addresses reach storage at once, sends each ordinary lane's bytes
to the place its address comes to and completes. -/
def StoresComplete : Prop :=
  ∀ (x : MI) (s0 : State) (l ca : Nat → Nat),
    let r := s0.walk [x.a, x.x]
    let s := r.2
    let lanes := (s.mlanes x.guard).filter s.ordinary
    let at_ (L : Nat) : W64 := s.ea x false r.1 L
    let sent (red : Option (UKey × Bool)) : State :=
      ((if x.sem = 2 then s.twinRelease s.me.id x.scope.toNat else s).push s.me
        (lanes.map fun L => { loc := l L, va := (at_ L).toNat, ca := ca L, bytes := storeBytes x s L })
        x.hint.toNat red (s.exe.ids + 1) [s.entry]).advance 1
    Calm s → lanes ≠ [] →
    ((∀ L ∈ lanes, Lands s (at_ L) (MI.bytes x) .store x.skw (l L) (ca L)) → Gives (.st x) s0 (sent none))
    ∧ ((∀ L ∈ lanes, Lands s (at_ L) (MI.bytes x) .atomic x.skw (l L) (ca L)) →
        Gives (.redBitwise x) s0 (sent (some (⟨8 + x.sub.setWidth 4, 2 ^ x.wid.toNat⟩, false)))
        ∧ (x.sub ≠ 6 → Gives (.redArith x) s0 (sent (some (⟨x.sub.setWidth 4, 2 ^ x.wid.toNat⟩, x.sub = 1))))
        ∧ (x.sub = 6 → Gives (.redArith x) s0 (sent (some (⟨0, 2 ^ x.wid.toNat⟩, false)))))

/-- R302, R313: an LDF whose format block has a valid A descriptor and whose rows lie in the gang's scratchpad goes into flight with the 32 words of each row,
and completes. -/
def LdfCompletes : Prop :=
  ∀ (x : EI) (s0 : State),
    let r := s0.walk [x.b, x.c]
    let s := r.2
    let m := s.act x.guard
    let rows := s.rowAddrs (s.u64 r.1 none x.b) (s.u32 r.1 none x.c).toNat (some (vnum x.a, m))
    Calm s → m ≠ 0 → opDesc ((s.fblock x.fb.toNat).getD 0 0) 0 ≠ none → (∀ q ∈ rows, InScratch s q.2 16 128) →
    ∃ o : LOp, Gives (.ldf x) s0 ((s.launchOp o (x.sub.getLsbD 1)).advance 1) ∧ o.kind = .ldf ∧ o.lanes = m
      ∧ o.dests = (List.range 16).map (fun j => RegId.v (vix s.sup (vnum x.d + j)))
      ∧ o.accs = rows.map fun q => { lane := q.1, va := q.2, locs := (List.range 32).map fun k =>
          (spAt s (x.sub.getLsbD 0) (spOfs s q.2 + 4 * k), 4, q.2.toNat + 4 * k) }

/-- R324: a KICK of one to 256 records at an aligned address in the gang's scratchpad, with room in the queue, puts them at its end and completes. -/
def KickCompletes : Prop :=
  ∀ (x : RI) (s0 : State),
    let r := s0.walk [x.a, x.b]
    let s := r.2.sweepReqs r.2.core
    let a := s.u64 r.1 x.lit x.a
    let n := (s.u32 r.1 x.lit x.b).toNat
    s.acts x.guard = true → 1 ≤ n → n ≤ 256 → InScratch s a 64 (64 * n) → ((s.tender s.core).filter (!·.started)).length + n ≤ 1024 →
    ∃ t : State, Gives (.kick x) s0 (t.advance (RI.len x)) ∧ (t.tender s.core).take (s.tender s.core).length = s.tender s.core
      ∧ (t.tender s.core).map (·.loc) = (s.tender s.core).map (·.loc) ++ (List.range n).map fun i => spAt s false (spOfs s a) + 64 * i

/-- R131, R325 to R330, R343: the Tender starts a well-formed request that stands alone in its queue, with up to eight granules; a granule of on-chip storage whose
addresses are known is moved and counted; a record that alone waits for a Pilot whose queue has room is posted. -/
def TenderCompletes : Prop :=
  (∀ (s : State) (core : Nat) (r0 : TReq),
    let ws := Memory.readBytes s.mem r0.loc 64
    let t := tenderRec ws
    s.tender core = [r0] → r0.started = false → r0.counted = false → r0.fault = none → r0.flight = [] → r0.next = 0 → s.tenderRuns core = true →
    s.reqForked r0 (State.reqScope t) = true → s.reqForked r0 5 = true → t.malformed ((s.gangAt r0.gang).spSize * 2048) = false → t.sphys = false → t.dphys = false →
    t.remote = false → t.chain = false → s.badRead r0.loc 64 = false →
    ∃ (u : State) (q : TReq), Gives (.tenderRequestStart core) s u ∧ u.tender core = [q] ∧ q.started = true ∧ q.words = ws
      ∧ q.flight = List.range (min 8 t.granules) ∧ q.next = min 8 t.granules ∧ u.mem = s.mem ∧ u.exe = s.exe)
  ∧ (∀ (s : State) (core id k : Nat) (r : TReq) (g : GRes),
    let t := tenderRec r.words
    (s.precinct (s.precinctOfCore core)).state = .running → (s.tender core).find? (·.id = id) = some r → k ∈ r.flight →
    r.granules.find? (·.k = k) = some g → g.out = [] → t.remote = false → s.coh.soft = [] → s.hostOwes (State.ownGran id k) = false →
    (∀ q ∈ g.todo, q.ready = true ∧ q.parked = none ∧ ∀ p ∈ q.src ++ q.dst, isGlobal p.1 = false) →
    g.todo.Pairwise (fun p q => State.unitsMeet t p q = false) →
    let r1 := { r with granules := r.granules.filter (·.k ≠ k) ++ [g] }
    let moved := g.todo.foldl (fun (s : State) q => s.writeAt (s.reqWho r) q.dca (State.ownGran id k) q.dst (s.rowBytes t q)) (s.setReq core r1)
    Gives (.tenderGranuleDone core id k) s (moved.endGranule core r1 t k g.fault))
  ∧ ∀ (s : State) (cl : Nat) (d : List Byte), (s.pilotQ cl).peq.length < 256 → (s.precinct (s.precinctOf cl)).state = .running →
      s.eng.peqDue = [(cl, d)] → s.reqsDue cl = [] →
      ∃ t : State, Gives (.peqPost cl) s t ∧ t.eng.peqDue = [] ∧ t.mem = s.mem
        ∧ (t.pilotQ cl).peq = (s.pilotQ cl).peq ++ [d.take 16 ++ byteList 8 s.clock ++ d.drop 24]

/-- `n` bytes from an address lie in the scratchpad of the gang that made an access, by way of its SP aperture, and within 64 KiB. -/
def NearScratch (s : State) (w : Who) (a : W64) (n base : Nat) : Prop :=
  0x10000 ≤ a.toNat ∧ a.toNat < 2 ^ 52 ∧ a.toNat % 65536 + n ≤ 65536 ∧ s.apHit w a.toNat [0, 1, 2, 3, 4, 5] = some (1, base)
  ∧ w.gang.isSome = true ∧ (w.sup = true ∨ (s.apReg w 1).getLsbD 1 = true) ∧ a.toNat - base + n ≤ s.apLimit w 1

/-- R31, R143, R147, R411: a PUT or PUTS whose source lies in the gang's scratchpad reads and sends its first piece, to its own island or as a packet, and with the
last one its bytes are counted. R144: the one reply of a GET that lands in the scratchpad is written there and ends it. -/
def SourceCompletes : Prop :=
  (∀ (s : State) (k base : Nat) (o : IslOp),
    let w := s.opWho o
    let n := (State.nextPiece o).1
    let last := (State.nextPiece o).2
    let sent := s.emit k o last (Memory.readBytes s.mem (s.spLoc w (o.la.toNat - base)) n)
    s.eng.ops.find k = some o → (o.kind = .put ∨ o.kind = .puts) → o.data = none → o.parked = none → o.lost = false → o.begun = false →
    o.sent = 0 → 0 < o.len → (o.dest = o.isl ∨ 32 ≤ o.dest) → k / 65536 = o.isl → s.forked o = true → s.coh.bad = [] → s.coh.badWords = [] → s.coh.soft = [] →
    NearScratch s w o.la n base →
    ∃ p : IslOp, sent.eng.ops.find k = some p
      ∧ let u : State := { sent with eng.ops := sent.eng.ops.put k { p with begun := true, sent := n, lastSeen := s.clock, parked := none } }
        Gives (.islandOpLocalComplete k) s (if last then u.countLocal k 0 else u))
  ∧ ∀ (s : State) (op base : Nat) (o : IslOp) (data : List Byte) (last : Bool),
    let w := s.opWho o
    let a : Ack := { op := op, cause := none, reply := some (0, data, last) }
    Tbl.wf s.eng.ops = true → s.eng.ops.find op = some o → a ∈ s.eng.acks → o.lost = false → o.edges = [] → o.res = none → o.parked = none →
    o.lc = none → o.req = none → o.got = 0 → s.opSaved op = false → s.hostOwes (State.ownLand op) = false → data.length = o.len → 0 < o.len → NearScratch s w o.la o.len base →
    ∃ t : State, Gives (.getReply op 0 data last) s t ∧ t.mem = Memory.writeBytes s.mem (s.spLoc w (o.la.toNat - base)) data
      ∧ t.eng.ops.find op = none ∧ t.eng.acks = s.eng.acks.erase a

/-- R28, R143, R152, R158: an arrival of a PUT whose storage is on chip and known writes its bytes there, whether it comes now or had been held, and a NOTIFY is
performed. -/
def ArrivalCompletes : Prop :=
  ∀ (s : State) (isl n ca : Nat) (a : Arr) (ls : List (Nat × Nat)),
    let put (b : Arr) (s : State) : State := { s with eng.arrivals := s.eng.arrivals.put n b }
    s.eng.arrivals.find n = some a → a.isl = isl → a.done = false → a.parked = none → s.arrHeld a = false → (s.ctx isl a.desc.spn.toNat).live = true →
    (a.held = false → s.arrFull isl = false → (a.desc.kind = .put ∨ a.desc.kind = .puts) → a.res = some (ls, ca) →
      (∀ p ∈ ls, isGlobal p.1 = false) → Gives (.islandOpArrival isl n) s (((put a s).writePieces ls a.data).doneArr n a))
    ∧ (a.held = false → s.arrFull isl = false → a.desc.kind = .notify → a.res = none →
      let b := { a with res := some ([], 0) }
      Gives (.islandOpArrival isl n) s ((put b s).doneArr n b))
    ∧ (a.held = true → (a.desc.kind = .put ∨ a.desc.kind = .puts) → a.res = some (ls, ca) → (∀ p ∈ ls, isGlobal p.1 = false) →
      let b := { a with held := false }
      (put b s).arrFull isl = false → Gives (.heldArrivalPlace isl n) s (((put b (put b s)).writePieces ls b.data).doneArr n b))

/-- R144, R147 to R149, R162, R163, R212, R400: an acknowledgement that has come ends its operation; a target forgets an operation of which nothing has come for 1 ms; a
packet of a NOTIFY becomes an arrival; an operation with a packet whose budget is spent fails; a long operation with nothing left to perform completes. -/
def EndsComplete : Prop :=
  (∀ (s : State) (op : Nat) (a : Ack) (o : IslOp), s.eng.ops.find op = some o → s.eng.acks = [a] → a.op = op → a.reply = none → s.opSaved op = false →
      let s1 := { s with eng.acks := [] }
      (a.cause = none → Gives (.positiveAcknowledgement op) s ((s1.countLocal op 0).endOp op))
      ∧ (∀ c, a.cause = some c → Gives (.negativeAcknowledgement op c) s (((s1.countLocal op (State.lateErr o)).failRemote o c o.ta).endOp op)))
  ∧ (∀ (s : State) (isl n : Nat) (p : Prog), s.eng.progs.find (isl * 2 ^ 40 + n) = some p → p.lastRx = false → p.mid = none →
      p.lastSeen + 2000000 ≤ s.clock → s.eng.arrivals = [] →
      Gives (.operationTimeout isl n) s { s with eng.progs := s.eng.progs.del (isl * 2 ^ 40 + n) })
  ∧ (∀ (s : State) (isl ep : Nat) (x : UePacket),
      let op := x.src * 65536 + x.op % 65536
      x.rud = true → x.payload.length ≤ 4096 → x.trim = false → s.populated isl = true → 32 ≤ x.src → x.src < 4096 → x.desc.kind = .notify →
      s.eng.progs.find (isl * 2 ^ 40 + op) = none → s.refusedAtOnce isl x.desc = false →
      ∃ (t : State) (a : Arr), Gives (.uePacketReceive isl ep x) s t ∧ t.eng.arrivals = s.eng.arrivals.put (s.exe.ids + 1) a
        ∧ a.isl = isl ∧ a.op = op ∧ a.desc = x.desc ∧ t.mem = s.mem)
  ∧ (∀ (s : State) (op : Nat) (o : IslOp), s.eng.ops.find op = some o → 32 ≤ o.dest →
      (∃ p ∈ o.packets, 8 ≤ p.resends ∨ p.first + 8000000 ≤ s.clock) →
      Gives (.uePacketAbandon op) s (((s.countLocal op (State.lateErr o)).failRemote o 6 o.ta).endOp op))
  ∧ ∀ (s : State) (ck id : Nat) (o : LOp), (s.precinct (s.precinctOfCore (ck / 64))).state = .running →
      (s.crewAt ck).ops.find id = some o → o.accs = [] → (o.kind = .mma ∨ o.kind = .ald) →
      Gives (.longLatencyComplete ck id) s (s.completeOp ck id o)

end Sys2Proof.Claims

/-! The statements, each a conjunction of the claims above. -/

open Sys2Proof.Claims

/-- Each scalar instruction whose guard is true completes with its result in its destination (word, pair or predicate), computed from its operands as its rule gives it, and goes on; walkers named are read once. -/
def Obligations.ScalarInstructions : Prop := Sys2Proof.Claims.ScalarResults ∧ Sys2Proof.Claims.ScalarPairResults

/-- Each vector integer instruction completes with its result in every active lane of its destination (register, pair or predicate); SLI and VLI write their immediate. -/
def Obligations.VectorInstructions : Prop := Sys2Proof.Claims.VectorResults ∧ Sys2Proof.Claims.VectorPairResults ∧ Sys2Proof.Claims.ImmediateResults

/-- A register or predicate written reads back in the lanes written, every other one reads as before, v255, 0xFF and index 7 discard or read constant, and the banked registers of a handler are others than the user's. -/
def Obligations.RegisterWrites : Prop := Sys2Proof.Claims.ScalarRegisterWrite ∧ Sys2Proof.Claims.SupervisorBank ∧ Sys2Proof.Claims.VectorRegisterWrite ∧ Sys2Proof.Claims.PredicateWrite

/-- A walker read supplies base plus indices times strides and moves to the next element of its block with the wrap flags of the dimensions; a replayed read is not repeated; the walker instructions set and read the walker's fields. -/
def Obligations.Walkers : Prop := Sys2Proof.Claims.WalkerReadAdvances ∧ Sys2Proof.Claims.WalkerReadOnce ∧ Sys2Proof.Claims.WalkerInstructions

/-- The next word of a clause comes next and the last leads to the boundary of the clause behind it; a clause begins when no flag it waits for counts, and else waits; what waits goes on when its condition has come about and not before; YIELD renews the age and NOP only goes on. -/
def Obligations.ClauseFlow : Prop := Sys2Proof.Claims.AdvanceInClause ∧ Sys2Proof.Claims.ClauseBegins ∧ Sys2Proof.Claims.Waking ∧ Sys2Proof.Claims.YieldAndNop

/-- The floating-point instructions compute exactly on each element, round once into the format, and OR the flags of the active lanes that are no helpers into sys.astat; comparisons write a predicate and raise none. -/
def Obligations.FloatingPoint : Prop := Sys2Proof.Claims.FloatResults ∧ Sys2Proof.Claims.FloatCompareResults ∧ Sys2Proof.Claims.ScaleAndDotResults

/-- FRCP, FRSQ, FSQRT, FEXP2, FLOG2, FSIN, FCOS and FTANH give the values and flags of their tables for zeros, infinities, NaNs and operands outside their range. -/
def Obligations.ElementaryFunctions : Prop := Sys2Proof.Claims.FunctionSpecialCases

/-- An exact value that a format holds keeps its code and raises nothing; an infinity keeps its code in the formats of 16 bits and more and overflows to the largest value in those of 8 bits or fewer; rounding to nearest gives a value of the format to which no other is closer. -/
def Obligations.Rounding : Prop := Sys2Proof.Claims.ExactValuesKeepTheirCode ∧ Sys2Proof.Claims.NearestIsNearest

/-- Each conversion completes with the converted elements in its destination and the flags of the active lanes in sys.astat. -/
def Obligations.Conversions : Prop := Sys2Proof.Claims.ConversionResults

/-- SHFL, QSWZ, VOTE, MATCH, ELECT, REDX, SCANX, HELP and MASK range over the active lanes of the fragment and complete with their results. -/
def Obligations.CrewInstructions : Prop := Sys2Proof.Claims.CrewResults ∧ Sys2Proof.Claims.ReductionResults

/-- A fragment that is not at its join goes on at a boundary with its registers as they were; at its join it waits while others are due, and when it is the last the waiting ones fuse and the token frees. -/
def Obligations.Joins : Prop := Sys2Proof.Claims.ClauseEntryWithoutJoin ∧ Sys2Proof.Claims.JoinWaitsOrFuses

/-- The uniform transfers go to their target with every lane, or to the fall-through when their guard or flag does not hold; CALL leaves the return address in its pair and RET goes to the address in its own. -/
def Obligations.UniformTransfers : Prop := Sys2Proof.Claims.UniformBranches ∧ Sys2Proof.Claims.CallAndReturn

/-- BRX keeps a fragment whole when its lanes go one way; else it splits, the taken group first, both groups under one fresh token whose join address is the one named. -/
def Obligations.Divergence : Prop := Sys2Proof.Claims.DivergentBranch ∧ Sys2Proof.Claims.SplitIntoTwo

/-- BRI sends each lane where its table entry says, a lane beyond the table's end to a fault; JOIN goes to its join or its target; lanes that EXIT
leave, with their status noted, once what they have done is performed (the model's reading, log 135), and the last of a gang let it complete; a
pending error of an add-on-store is taken first. -/
def Obligations.TableBranchJoinAndExit : Prop := Sys2Proof.Claims.TableBranch ∧ Sys2Proof.Claims.JoinEntry ∧ Sys2Proof.Claims.ExitLeavesLanes

/-- Arrivals count lanes or crews towards the phase and the last expected flips it; BARS and BARW wait for the phase recorded, BARW as an acquire; an arrival while a waiter has yet to observe the last phase is refused, and BART says so; a lane that exits drops out of the count, owed as a BARD or at once. -/
def Obligations.Barriers : Prop := Sys2Proof.Claims.LaneArrivals ∧ Sys2Proof.Claims.ArrivalRefused ∧ Sys2Proof.Claims.CrewArrivals ∧ Sys2Proof.Claims.BarrierWait ∧ Sys2Proof.Claims.ExitLeavesBarrier

/-- An address is base plus offset plus index; it is tested in the order range, alignment, null guard, apertures, translation, and the first test that fails gives the cause. -/
def Obligations.Addresses : Prop := Sys2Proof.Claims.EffectiveAddress ∧ Sys2Proof.Claims.AddressTests

/-- Of the enabled apertures whose regions hold an address, the first in the order LP, SP, CM, BSN, XSP, XCM takes it, and a SYSWR of an aperture register takes effect whatever the other apertures hold. -/
def Obligations.ApertureOrder : Prop := Sys2Proof.Claims.ApertureOrder

/-- A load whose lanes resolve goes into flight and the fragment goes on; below 32 bits a value is zero- or sign-extended, wider ones fill whole registers, lowest first. -/
def Obligations.Loads : Prop := Sys2Proof.Claims.LoadIssues ∧ Sys2Proof.Claims.LoadedValues

/-- A store or RED whose lanes resolve leaves the agent and the instruction completes; on-chip storage is changed at the addresses computed and nowhere else; a store to global memory waits in the write buffer. -/
def Obligations.Stores : Prop := Sys2Proof.Claims.StoresAndReds ∧ Sys2Proof.Claims.OnChipStoreFrame ∧ Sys2Proof.Claims.BufferedStore

/-- An atomic whose lanes resolve goes into flight; lanes at one address act in ascending order, each returning what it found; every operation leaves the value its rule gives. -/
def Obligations.Atomics : Prop := Sys2Proof.Claims.AtomicIssues ∧ Sys2Proof.Claims.AtomicLaneOrder ∧ Sys2Proof.Claims.AtomicResults

/-- The cache-control instructions write no register and complete; a release fence goes on and holds back later writes only; an acquire fence goes on at once, waits, or goes on in a speculative window; FENCE.T waits for the translation completion points of the agent's writes; TWIN sets its gang's tile window, the old one usable by other crews until they are ordered after it. -/
def Obligations.CacheAndFences : Prop := Sys2Proof.Claims.CacheControl ∧ Sys2Proof.Claims.Fences ∧ Sys2Proof.Claims.TileWindow

/-- SETC begins a phase of a counter with its expected bytes, WAITC waits until the phase has landed and then gives its errors and phase, TESTC
answers whether it has; each completes under conditions on the state and its operands alone (constructors setc, waitc, testc); arriving bytes
count towards a counter. -/
def Obligations.LandingCounters : Prop := Sys2Proof.Claims.LandingCounters ∧ Sys2Proof.Claims.CounterCounts

/-- SETFB sets a format block, ACLR clears the tiles it names, and an MMA of bytes adds the products of its rows to the tile. -/
def Obligations.MatrixOperations : Prop := Sys2Proof.Claims.SetfbAndAclr ∧ Sys2Proof.Claims.MmaOfBytes

/-- ALD fills a tile from registers or from rows in memory and ADRN drains one, each element converted as its type says. -/
def Obligations.TileTransfers : Prop := Sys2Proof.Claims.AldFromRegisters ∧ Sys2Proof.Claims.AldFromMemory ∧ Sys2Proof.Claims.DrainOfTile

/-- LDF issues and fills its registers with the fragments of a block; an operation whose accesses have been performed completes once, writes its destinations and lowers its flag. -/
def Obligations.LongOperations : Prop := Sys2Proof.Claims.FragmentLoad ∧ Sys2Proof.Claims.OperationCompletes

/-- A TRAP or a fault in user mode moors its fragment with the cause and the address, all else as it was; in supervisor mode it is a double fault that stops the crew's supervisor fragments; an armed breakpoint waits and posts an event. -/
def Obligations.FaultsAndTraps : Prop := Sys2Proof.Claims.TrapMoors ∧ Sys2Proof.Claims.Breakpoint ∧ Sys2Proof.Claims.FragmentFault ∧ Sys2Proof.Claims.DoubleFault

/-- The moored fragment next in its crew takes the handling slot under a fresh token, its place, cause and masks saved in the crew's registers and its position the vector's; a Pilot thread enters its own handler at once. -/
def Obligations.HandlerEntry : Prop := Sys2Proof.Claims.HandlerEntry ∧ Sys2Proof.Claims.PilotEntersHandler

/-- RETT in user mode is privileged and faults; in a handler it frees the slot and the fragment goes back to user mode at the saved place or at the address named. -/
def Obligations.HandlerReturn : Prop := Sys2Proof.Claims.ReturnFromHandler

/-- SYSRD writes the register's value to its destination and SYSWR stores through the defined bits; supervisor-only registers fault in user mode, within a speculative window once it has closed; read-only ones ignore writes. -/
def Obligations.SystemRegisters : Prop := Sys2Proof.Claims.SystemRegisters ∧ Sys2Proof.Claims.SystemRegisterValues

/-- POOLPOP takes the frame at the head of the pool and POOLPUSH puts one back, in supervisor mode only, each completing under conditions on the
state and its operands alone (constructors poolpop, poolpush); an empty pool makes the agent wait or,
under .try, says no, and a full one takes none; the ring's counters
and events follow. -/
def Obligations.FramePool : Prop := Sys2Proof.Claims.PoolInstructions ∧ Sys2Proof.Claims.PoolRing

/-- EVPOP and EVWAIT take the oldest record into eight registers; HALT stops the thread; IDLE waits while no record stands in the queue. -/
def Obligations.PilotThreads : Prop := Sys2Proof.Claims.EventQueue ∧ Sys2Proof.Claims.HaltAndIdle

/-- TLAUNCH puts a grid's task with no dependency block and no circuits into its island's window with a fresh id or, with a full one, waits or says no; the one task entering a window with room gets a fresh id, and a task without dependencies is ready. -/
def Obligations.TaskLaunches : Prop := Sys2Proof.Claims.TaskLaunch ∧ Sys2Proof.Claims.TaskWindow

/-- KICK puts its records at the end of the Tender's queue or faults; the Tender starts the next request with its record read whole, ends it where a check fails or the record is uncorrectable and else starts its granules; a granule moves its rows; STATUS is written where the record says and kept as the request's result, and a record that waits for a Pilot is posted when there is room. -/
def Obligations.TenderEngine : Prop := Sys2Proof.Claims.TenderKick ∧ Sys2Proof.Claims.TenderStarts ∧ Sys2Proof.Claims.TenderGranule ∧ Sys2Proof.Claims.TenderReports

/-- A gang is placed on a core with room for it, its fragments at the entry point with registers zero and its storage cleared; when all its lanes have left and its operations have joined, what it held frees. -/
def Obligations.Gangs : Prop := Sys2Proof.Claims.GangPlacement ∧ Sys2Proof.Claims.PlacedGang ∧ Sys2Proof.Claims.GangFreed

/-- Island operations issue with their descriptor and the instruction goes on; waits for notify counters end when a counter has reached its threshold; RFENCE waits for the operations before it. -/
def Obligations.IslandOperations : Prop := Sys2Proof.Claims.OperationsIssue ∧ Sys2Proof.Claims.NotifyWaits

/-- A source sends an operation's bytes, the target performs them once each, holds what may not be placed while there is room, and acknowledges; an acknowledgement ends the operation, a negative one records the first failure; a reply lands whole; what is abandoned or overdue fails or is forgotten. -/
def Obligations.RemoteProgress : Prop := Sys2Proof.Claims.SourceSends ∧ Sys2Proof.Claims.TargetPerforms ∧ Sys2Proof.Claims.Acknowledgements ∧ Sys2Proof.Claims.FarAndTimeouts

/-- Damaged flits are counted and asked for again, whole ones acknowledged and passed on in order; overdue ones are resent; links go down and come up with fresh numbers; credits return. -/
def Obligations.LinkLayer : Prop := Sys2Proof.Claims.LinkProtocol ∧ Sys2Proof.Claims.LinksAndCredits

/-- Demand is taken at the end of a window and the targets of the ports are fixed by it, a colour with an alarm leaves its port and recovers after
its time, and the far side agrees a proposed move. -/
def Obligations.ColourSteering : Prop := Sys2Proof.Claims.Steering

/-- At its queue's turn a command begins with its effect; a malformed one stops its queue with an error; a WAIT blocks what follows until its counters have reached their thresholds; a COPY moves on line by line. -/
def Obligations.CommandQueues : Prop := Sys2Proof.Claims.CommandsBegin ∧ Sys2Proof.Claims.CommandsStop ∧ Sys2Proof.Claims.CopyAdvances

/-- Writes of QTAIL, QCTL and QBASE have the effects of their fields and an overrun stops the queue; before MODE is 1 or 2 host commands do nothing. -/
def Obligations.QueueRegisters : Prop := Sys2Proof.Claims.QueueRegisters ∧ Sys2Proof.Claims.BeforeBoot

/-- HALT takes a running precinct to halting and discards windows, completes with event 13 when all has stopped, and RESUME sets a halted precinct running; in other states the commands are refused. -/
def Obligations.PrecinctHaltResume : Prop := Sys2Proof.Claims.HaltOfPrecinct ∧ Sys2Proof.Claims.WindowDiscarded ∧ Sys2Proof.Claims.ResumePrecinct

/-- A halted precinct goes out into its image and comes in from it, with event 14; an ABORT of a tag ends with event 17 when nothing of the tag is left; in other states they are refused. -/
def Obligations.ExchangeAndAbort : Prop := Sys2Proof.Claims.ExchangePrecinct ∧ Sys2Proof.Claims.AbortOfTag

/-- Each acts on the agents its rule names in a running precinct, waits or is refused in others, and leaves everything else. -/
def Obligations.DebugAndWake : Prop := Sys2Proof.Claims.DebugAndWake

/-- A precinct is created with its storage zero and its counters 0 or refused; it is freed only halted and without contexts; context commands set BUSY and then end with a RESULT, changing the context or nothing. -/
def Obligations.PrecinctsAndContexts : Prop := Sys2Proof.Claims.PrecinctLife ∧ Sys2Proof.Claims.ContextLife

/-- HPOREQ, PWRCAP, STEER, the Chart, peer entries, colour faults and counters take their writes as their rules say, and a write of BAR0 completes
as the event of the register at its offset does (constructor registerWrite), or with no effect where no register stands. -/
def Obligations.HostRegisters : Prop := Sys2Proof.Claims.ModuleRegisters ∧ Sys2Proof.Claims.FabricRegisters ∧ Sys2Proof.Claims.RegisterWriteActs

/-- A reset ends in MODE 1 with six measurements, or at the stage that fails; failed attempts are logged and the third ends in minimal mode or MODE 3; requests of the mailbox are answered; an island that is hot or over its share slows down or stops. The content of boot details and measurements is free. -/
def Obligations.StartUpAndCare : Prop := Sys2Proof.Claims.StartUp ∧ Sys2Proof.Claims.Attestation ∧ Sys2Proof.Claims.PowerAndHeat

/-- A translation gives the frame and attribute of its entry or the fault of the first failing check, and translates again where the entry has changed before D could be set; the first invalidation of its slice removes the entries of its line and no others, and the last acknowledgement ends the home's hold and serves what it held. -/
def Obligations.Translation : Prop := Sys2Proof.Claims.Translations ∧ Sys2Proof.Claims.Invalidation

/-- A home grants, forwards or holds the first request of its agent; an unanswered request is retried four times, then starved and active in its slice's table or queued until served; a hot line is replicated to three helper slices with redirect entries. -/
def Obligations.CoherenceRequests : Prop := Sys2Proof.Claims.HomeServes ∧ Sys2Proof.Claims.StarvedRequests ∧ Sys2Proof.Claims.HotLines

/-- Grants, answers and recalls of replicas make and lose no token; tokens on their way arrive in the order sent and join their destination, or go home where they have none; holders answer what is asked of them once, with nothing where their tag differs; evicted lines and replicas send their tokens home. -/
def Obligations.Tokens : Prop := Sys2Proof.Claims.TokensConserved ∧ Sys2Proof.Claims.TokensArrive ∧ Sys2Proof.Claims.HoldersAnswer

/-- Host reads answer the bytes or poison and host writes store under their mask, once the island's copies allow it, and wait in the line's queue behind a blocked line; an opcode that is not supported has an error completion; answers end back-invalidations and the handshake lets the request that met one go first; snoops and fills set the state of host lines and return their halves. Poison as the answer of a write to an unpopulated site is the model's choice (log 122). -/
def Obligations.HostLines : Prop := Sys2Proof.Claims.HostMemory ∧ Sys2Proof.Claims.BackInvalidation ∧ Sys2Proof.Claims.HostCoherentLines

/-- Twenty-three words of the spec's examples decode to the instructions, or fail the checks, that it gives for them. -/
def Obligations.WordsOfTheSpec : Prop := Sys2Proof.Claims.WordsOfTheSpec

/-- A word with one of the 108 unassigned codes fails check 3 whatever its other bits and moors its fragment with cause 0x10, within a speculative window once it has closed; code 0xFF is legal only in header position. -/
def Obligations.UnassignedCodes : Prop := Sys2Proof.Claims.UnassignedCodes

/-- For every well-formed instruction of a core or a Pilot and any bytes behind it, decoding its encoding gives the instruction and those bytes. -/
def Obligations.DecodeEncode : Prop := Sys2Proof.Claims.DecodeEncode

/-- What a word decodes to is well formed and encodes to that word, with its literal where it takes one; the same for headers; Pilot-only codes never decode on a core. -/
def Obligations.EncodeDecode : Prop := Sys2Proof.Claims.EncodeDecode

/-- The agent whose turn it is executes the instruction that the word at its position decodes to, or the header at its clause, when nothing holds it back; a fetch of a clause that fails moors the agent at its header; events execute as they come; a word is eight bytes of memory, lowest first. -/
def Obligations.StepRunsTheWord : Prop := Sys2Proof.Claims.StepRunsTheWord

/-- Within a clause these instructions change their destination (in active lanes), a walker they read and, the floating-point ones, sys.astat, and nothing else; anywhere they leave memory, caches, translation and precincts as they were, but for a join's spill record at a clause's end and the owners of buffered stores. -/
def Obligations.RegisterFrames : Prop := Sys2Proof.Claims.ScalarFrame ∧ Sys2Proof.Claims.VectorFrame ∧ Sys2Proof.Claims.RegisterWorkKeepsMemory

/-- From every state whose memory is in canonical form, every step leads to a state whose memory is. -/
def Obligations.MemoryCanonical : Prop := Sys2Proof.Claims.MemoryCanonical

/-- Right after reset memory is canonical and reads zero, no precinct, queue or link acts and MODE is 0; the first step is the module's start and ends with MODE 1. The memory contents and the populated sites are the model's choice (log 2, log 4). -/
def Obligations.AfterReset : Prop := Sys2Proof.Claims.AfterReset

/-- BRI, JOIN, EXIT, FSCALE, FDOT2, CVT, CVTB, PACK, UNPK, ST, RED (arithmetic and bitwise), LDF and KICK complete with their effect under conditions on the state and the operands alone (constructors bri, join, exit, fscale, fdot2, cvt, cvtb, pack, unpk, st, redArith, redBitwise, ldf, kick): the conversions, FSCALE and FDOT2 with their destination registers in active lanes and sys.astat alone changed, the transfers with their fragment at its target, stores and REDs with each lane's bytes sent to the place its address comes to, LDF in flight, KICK's records at the end of the Tender's queue. -/
def Obligations.InstructionsComplete : Prop :=
  Sys2Proof.Claims.ConversionFrame ∧ Sys2Proof.Claims.TransferFrames ∧ Sys2Proof.Claims.StoresComplete ∧ Sys2Proof.Claims.LdfCompletes
    ∧ Sys2Proof.Claims.KickCompletes

/-- The events of the Tender, of a remote operation's source and target, and of its end complete with their effect under conditions on the state alone (constructors tenderRequestStart, tenderGranuleDone, peqPost, islandOpLocalComplete, getReply, islandOpArrival, heldArrivalPlace, positiveAcknowledgement, negativeAcknowledgement, operationTimeout, uePacketReceive, uePacketAbandon, longLatencyComplete). -/
def Obligations.EngineEventsComplete : Prop :=
  Sys2Proof.Claims.TenderCompletes ∧ Sys2Proof.Claims.SourceCompletes ∧ Sys2Proof.Claims.ArrivalCompletes ∧ Sys2Proof.Claims.EndsComplete
end

