-- ==== Sys2Proof/Laws/Tbl.lean ====
section
/-! SUPPORT. Laws of sparse tables and of memory: what a read gives after a write, and that every operation keeps the
canonical form. -/

namespace Sys2Proof

/-- What a key holds after it has been written. -/
@[simp] theorem Tbl.get_put_same {α : Type} (d x : α) (t : Tbl α) (k : Nat) : (Tbl.put t k x).get d k = x := by
  induction t with
  | nil => simp [Tbl.put, Tbl.get]
  | cons p t ih =>
    obtain ⟨j, v⟩ := p
    simp only [Tbl.put]
    split
    · simp [Tbl.get]
    · split
      · simp [Tbl.get]
      · simp [Tbl.get, *]

/-- A write leaves every other key alone. -/
theorem Tbl.get_put_ne {α : Type} (d x : α) (t : Tbl α) {k j : Nat} (h : j ≠ k) :
    (Tbl.put t k x).get d j = t.get d j := by
  induction t with
  | nil => simp [Tbl.put, Tbl.get, h]
  | cons p t ih =>
    obtain ⟨i, v⟩ := p
    simp only [Tbl.put]
    split
    · simp [Tbl.get, h]
    · split
      · next h2 => subst h2; simp [Tbl.get, h]
      · simp only [Tbl.get]; split
        · rfl
        · exact ih

/-- Both laws at once. -/
theorem Tbl.get_put {α : Type} (d x : α) (t : Tbl α) (k j : Nat) :
    (Tbl.put t k x).get d j = if j = k then x else t.get d j := by
  by_cases h : j = k
  · subst h; simp
  · simp [h, Tbl.get_put_ne d x t h]

@[simp] theorem Tbl.get_nil {α : Type} (d : α) (k : Nat) : Tbl.get d ([] : Tbl α) k = d := rfl

/-- A table whose keys are all below a bound. -/
theorem Tbl.wf_tail {α : Type} {p : Nat × α} {t : Tbl α} (h : Tbl.wf (p :: t) = true) : Tbl.wf t = true := by
  cases t with
  | nil => rfl
  | cons q t => simp only [Tbl.wf, Bool.and_eq_true] at h; exact h.2

/-- Writing a key keeps the keys rising. -/
theorem Tbl.wf_put {α : Type} (t : Tbl α) (k : Nat) (x : α) (h : Tbl.wf t = true) : Tbl.wf (t.put k x) = true := by
  induction t with
  | nil => rfl
  | cons p t ih =>
    obtain ⟨j, v⟩ := p
    simp only [Tbl.put]
    split
    · next h1 => simp [Tbl.wf, h1, h]
    · split
      · next h1 h2 =>
        subst h2
        cases t with
        | nil => rfl
        | cons q t => obtain ⟨i, w⟩ := q; simpa [Tbl.wf] using h
      · next h1 h2 =>
        have hr := ih (Tbl.wf_tail h)
        cases t with
        | nil => simp [Tbl.put, Tbl.wf]; omega
        | cons q t =>
          obtain ⟨i, w⟩ := q
          simp only [Tbl.wf, Bool.and_eq_true, decide_eq_true_eq] at h
          simp only [Tbl.put] at hr ⊢
          split
          · next h3 => simp only [h3, if_true] at hr; simp only [Tbl.wf, Bool.and_eq_true, decide_eq_true_eq] at hr ⊢; exact ⟨by omega, hr⟩
          · next h3 =>
            simp only [h3, if_false] at hr
            split
            · next h4 => simp only [h4, if_true] at hr; subst h4; simp only [Tbl.wf, Bool.and_eq_true, decide_eq_true_eq]; exact ⟨by omega, by simpa using hr⟩
            · next h4 => simp only [h4, if_false] at hr; simp only [Tbl.wf, Bool.and_eq_true, decide_eq_true_eq]; exact ⟨h.1, hr⟩

namespace Memory

/-- What a location reads as in memory. -/
@[simp] theorem read_nil (a : Nat) : read [] a = 0 := rfl

/-- Below the lowest listed address memory reads as zero. -/
theorem read_below (m : List Host.Cell) : ∀ {lo a : Nat}, wfFrom lo m = true → a < lo → read m a = 0 := by
  induction m with
  | nil => intros; rfl
  | cons c m ih =>
    intro lo a h ha
    obtain ⟨k, v⟩ := c
    simp only [wfFrom, Bool.and_eq_true, decide_eq_true_eq] at h
    have : a ≠ k := by omega
    simp only [read, this, if_false]
    exact ih h.2 (by omega)

theorem wfFrom_mono {m : List Host.Cell} {lo lo' : Nat} (h : wfFrom lo m = true) (hl : lo' ≤ lo) : wfFrom lo' m = true := by
  cases m with
  | nil => rfl
  | cons c m =>
    obtain ⟨k, v⟩ := c
    simp only [wfFrom, Bool.and_eq_true, decide_eq_true_eq] at h ⊢
    exact ⟨⟨by omega, h.1.2⟩, h.2⟩

theorem wfFrom_drop (m : List Host.Cell) (a : Nat) : ∀ {lo : Nat}, wfFrom lo m = true → wfFrom lo (drop m a) = true := by
  induction m with
  | nil => intros; rfl
  | cons c m ih =>
    intro lo h
    obtain ⟨k, v⟩ := c
    simp only [drop]
    have h' := h
    simp only [wfFrom, Bool.and_eq_true, decide_eq_true_eq] at h
    split
    · exact h'
    · split
      · exact wfFrom_mono h.2 (by omega)
      · simp only [wfFrom, Bool.and_eq_true, decide_eq_true_eq]; exact ⟨h.1, ih h.2⟩

theorem wfFrom_list (m : List Host.Cell) (a : Nat) (b : Byte) (hb : b ≠ 0) :
    ∀ {lo : Nat}, wfFrom lo m = true → lo ≤ a → wfFrom lo (list m a b) = true := by
  induction m with
  | nil => intro lo _ ha; simpa [list, wfFrom, ha] using hb
  | cons c m ih =>
    intro lo h ha
    obtain ⟨k, v⟩ := c
    have h' := h
    simp only [wfFrom, Bool.and_eq_true, decide_eq_true_eq] at h
    simp only [list]
    split
    · next hk =>
      simp only [wfFrom, Bool.and_eq_true, decide_eq_true_eq]
      exact ⟨⟨ha, by simpa using hb⟩, ⟨by omega, h.1.2⟩, h.2⟩
    · split
      · next hk => subst hk; simp only [wfFrom, Bool.and_eq_true, decide_eq_true_eq]; exact ⟨⟨ha, by simpa using hb⟩, h.2⟩
      · simp only [wfFrom, Bool.and_eq_true, decide_eq_true_eq]; exact ⟨h.1, ih h.2 (by omega)⟩

/-- A write of one byte keeps the canonical form. -/
theorem wf_write {m : List Host.Cell} (h : wf m = true) (a : Nat) (b : Byte) : wf (write m a b) = true := by
  unfold write
  split
  · exact wfFrom_drop m a h
  · next hb => exact wfFrom_list m a b hb h (Nat.zero_le a)

theorem wf_writeN {m : List Host.Cell} (h : wf m = true) (a v n : Nat) : wf (writeN m a v n) = true := by
  induction n generalizing m a v with
  | zero => exact h
  | succ n ih => exact ih (wf_write h a _) _ _

theorem wf_writeBytes {m : List Host.Cell} (h : wf m = true) (a : Nat) (bs : List Byte) : wf (writeBytes m a bs) = true := by
  induction bs generalizing m a with
  | nil => exact h
  | cons b bs ih => exact ih (wf_write h a b) _

theorem wf_writeAll {m : List Host.Cell} (h : wf m = true) (cs : List Host.Cell) : wf (writeAll m cs) = true := by
  induction cs generalizing m with
  | nil => exact h
  | cons c cs ih => exact ih (wf_write h c.1 c.2)

theorem wfFrom_filter (m : List Host.Cell) (p : Host.Cell → Bool) :
    ∀ {lo : Nat}, wfFrom lo m = true → wfFrom lo (m.filter p) = true := by
  induction m with
  | nil => intros; rfl
  | cons c m ih =>
    intro lo h
    obtain ⟨k, v⟩ := c
    simp only [wfFrom, Bool.and_eq_true, decide_eq_true_eq] at h
    simp only [List.filter]
    split
    · simp only [wfFrom, Bool.and_eq_true, decide_eq_true_eq]; exact ⟨h.1, ih h.2⟩
    · exact wfFrom_mono (ih h.2) (by omega)

/-- Dropping entries keeps the canonical form. -/
theorem wf_filter {m : List Host.Cell} (h : wf m = true) (p : Host.Cell → Bool) : wf (m.filter p) = true :=
  wfFrom_filter m p h

@[simp] theorem wf_nil : wf [] = true := rfl

theorem read_list (m : List Host.Cell) (a : Nat) (b : Byte) (c : Nat) :
    read (list m a b) c = if c = a then b else read m c := by
  induction m with
  | nil => simp [list, read]
  | cons p m ih =>
    obtain ⟨k, v⟩ := p
    simp only [list]
    split
    · simp [read]
    · split
      · next h2 => subst h2; simp [read]; split <;> simp [*]
      · next h1 h2 =>
        simp only [read, ih]
        by_cases hc : c = k
        · subst hc; have : c ≠ a := fun h => h2 h.symm
          simp [this]
        · simp [hc]

theorem read_drop (m : List Host.Cell) (a c : Nat) :
    ∀ {lo : Nat}, wfFrom lo m = true → read (drop m a) c = if c = a then 0 else read m c := by
  induction m with
  | nil => intros; simp [drop]
  | cons p m ih =>
    intro lo h
    obtain ⟨k, v⟩ := p
    have h' := h
    simp only [wfFrom, Bool.and_eq_true, decide_eq_true_eq] at h
    simp only [drop]
    split
    · next hk =>
      by_cases hc : c = a
      · subst hc; simp only [if_true]
        exact read_below _ (lo := k) (by simp only [wfFrom, Bool.and_eq_true, decide_eq_true_eq]; exact ⟨⟨Nat.le_refl k, h.1.2⟩, h.2⟩) hk
      · simp [hc]
    · split
      · next hk =>
        subst hk
        by_cases hc : c = a
        · subst hc; simp only [if_true]; exact read_below m h.2 (Nat.lt_succ_self c)
        · simp [hc, read]
      · next h1 h2 =>
        simp only [read, ih h.2]
        by_cases hc : c = k
        · subst hc; have : c ≠ a := fun h => h2 h.symm
          simp [this]
        · simp [hc]

/-- A read after a write: the byte written at its address, the old byte at every other. -/
theorem read_write {m : List Host.Cell} (h : wf m = true) (a : Nat) (b : Byte) (c : Nat) :
    read (write m a b) c = if c = a then b else read m c := by
  unfold write
  split
  · next hb => subst hb; exact read_drop m a c h
  · exact read_list m a b c

/-- A write of `n` bytes leaves every byte outside them alone. -/
theorem read_writeN_outside {m : List Host.Cell} (h : wf m = true) (a v n c : Nat) (hc : c < a ∨ a + n ≤ c) :
    read (writeN m a v n) c = read m c := by
  induction n generalizing m a v with
  | zero => rfl
  | succ n ih =>
    simp only [writeN]
    rw [ih (wf_write h a _) _ _ (by omega), read_write h]
    have : c ≠ a := by omega
    simp [this]

/-- The same for a list of bytes. -/
theorem read_writeBytes_outside {m : List Host.Cell} (h : wf m = true) (a : Nat) (bs : List Byte) (c : Nat)
    (hc : c < a ∨ a + bs.length ≤ c) : read (writeBytes m a bs) c = read m c := by
  induction bs generalizing m a with
  | nil => rfl
  | cons b bs ih =>
    simp only [writeBytes]
    simp only [List.length_cons] at hc
    rw [ih (wf_write h a _) _ (by omega), read_write h]
    have : c ≠ a := by omega
    simp [this]

/-- What a write of bytes stores. -/
theorem read_writeBytes_inside {m : List Host.Cell} (h : wf m = true) (a : Nat) (bs : List Byte) (i : Nat)
    (hi : i < bs.length) : read (writeBytes m a bs) (a + i) = bs.getD i 0 := by
  induction bs generalizing m a i with
  | nil => simp at hi
  | cons b bs ih =>
    simp only [writeBytes]
    cases i with
    | zero =>
      rw [read_writeBytes_outside (wf_write h a b) _ _ _ (by omega), read_write h]; simp
    | succ i =>
      have := ih (wf_write h a b) (a + 1) i (by simpa using hi)
      simpa [Nat.add_assoc, Nat.add_comm 1 i] using this

/-- A number stored in `n` bytes and read back, modulo what `n` bytes hold. -/
theorem readN_writeN {m : List Host.Cell} (h : wf m = true) (a v n : Nat) :
    readN (writeN m a v n) a n = v % 256 ^ n := by
  induction n generalizing m a v with
  | zero => simp [readN, Nat.mod_one]
  | succ n ih =>
    simp only [writeN, readN]
    rw [read_writeN_outside (wf_write h a _) _ _ _ _ (by omega), read_write h, ih (wf_write h a _)]
    simp only [if_true, BitVec.toNat_ofNat]
    rw [show 256 ^ (n + 1) = 256 * 256 ^ n by rw [Nat.pow_succ, Nat.mul_comm], Nat.mod_mul]

end Memory

end Sys2Proof
end

