-- ==== Sys2Proof/Laws/State.lean ====
section
/-! SUPPORT. What each update of the state leaves: one lemma for each field, and reads after writes. -/

namespace Sys2Proof.Machine

open Sys2Proof

/-! Fields that an update leaves. -/

@[simp] theorem State.setFrag_cur (s : State) (f : Frag) : (s.setFrag f).cur = s.cur := rfl
@[simp] theorem State.setFrag_turn (s : State) (f : Frag) : (s.setFrag f).turn = s.turn := rfl
@[simp] theorem State.setFrag_inbox (s : State) (f : Frag) : (s.setFrag f).inbox = s.inbox := rfl
@[simp] theorem State.setFrag_choices (s : State) (f : Frag) : (s.setFrag f).choices = s.choices := rfl
@[simp] theorem State.setFrag_clock (s : State) (f : Frag) : (s.setFrag f).clock = s.clock := rfl
@[simp] theorem State.setFrag_mem (s : State) (f : Frag) : (s.setFrag f).mem = s.mem := rfl
@[simp] theorem State.setFrag_trn (s : State) (f : Frag) : (s.setFrag f).trn = s.trn := rfl
@[simp] theorem State.setFrag_coh (s : State) (f : Frag) : (s.setFrag f).coh = s.coh := rfl
@[simp] theorem State.setFrag_eng (s : State) (f : Frag) : (s.setFrag f).eng = s.eng := rfl
@[simp] theorem State.setFrag_mgt (s : State) (f : Frag) : (s.setFrag f).mgt = s.mgt := rfl
@[simp] theorem State.setFrag_crews (s : State) (f : Frag) : (s.setFrag f).exe.crews = s.exe.crews := rfl
@[simp] theorem State.setFrag_joins (s : State) (f : Frag) : (s.setFrag f).exe.joins = s.exe.joins := rfl
@[simp] theorem State.setFrag_barriers (s : State) (f : Frag) : (s.setFrag f).exe.barriers = s.exe.barriers := rfl
@[simp] theorem State.setFrag_gangs (s : State) (f : Frag) : (s.setFrag f).exe.gangs = s.exe.gangs := rfl
@[simp] theorem State.setFrag_groups (s : State) (f : Frag) : (s.setFrag f).exe.groups = s.exe.groups := rfl
@[simp] theorem State.setFrag_tiles (s : State) (f : Frag) : (s.setFrag f).exe.tiles = s.exe.tiles := rfl
@[simp] theorem State.setFrag_latches (s : State) (f : Frag) : (s.setFrag f).exe.latches = s.exe.latches := rfl
@[simp] theorem State.setFrag_threads (s : State) (f : Frag) : (s.setFrag f).exe.threads = s.exe.threads := rfl
@[simp] theorem State.setFrag_pilots (s : State) (f : Frag) : (s.setFrag f).exe.pilots = s.exe.pilots := rfl
@[simp] theorem State.setFrag_bays (s : State) (f : Frag) : (s.setFrag f).exe.bays = s.exe.bays := rfl
@[simp] theorem State.setFrag_yielded (s : State) (f : Frag) : (s.setFrag f).exe.yielded = s.exe.yielded := rfl
@[simp] theorem State.setFrag_orders (s : State) (f : Frag) : (s.setFrag f).exe.orders = s.exe.orders := rfl
@[simp] theorem State.setFrag_ids (s : State) (f : Frag) : (s.setFrag f).exe.ids = s.exe.ids := rfl

@[simp] theorem State.setCrew_cur (s : State) (c : Crew) : (s.setCrew c).cur = s.cur := rfl
@[simp] theorem State.setCrew_turn (s : State) (c : Crew) : (s.setCrew c).turn = s.turn := rfl
@[simp] theorem State.setCrew_inbox (s : State) (c : Crew) : (s.setCrew c).inbox = s.inbox := rfl
@[simp] theorem State.setCrew_choices (s : State) (c : Crew) : (s.setCrew c).choices = s.choices := rfl
@[simp] theorem State.setCrew_clock (s : State) (c : Crew) : (s.setCrew c).clock = s.clock := rfl
@[simp] theorem State.setCrew_mem (s : State) (c : Crew) : (s.setCrew c).mem = s.mem := rfl
@[simp] theorem State.setCrew_trn (s : State) (c : Crew) : (s.setCrew c).trn = s.trn := rfl
@[simp] theorem State.setCrew_coh (s : State) (c : Crew) : (s.setCrew c).coh = s.coh := rfl
@[simp] theorem State.setCrew_eng (s : State) (c : Crew) : (s.setCrew c).eng = s.eng := rfl
@[simp] theorem State.setCrew_mgt (s : State) (c : Crew) : (s.setCrew c).mgt = s.mgt := rfl
@[simp] theorem State.setCrew_frags (s : State) (c : Crew) : (s.setCrew c).exe.frags = s.exe.frags := rfl
@[simp] theorem State.setCrew_joins (s : State) (c : Crew) : (s.setCrew c).exe.joins = s.exe.joins := rfl
@[simp] theorem State.setCrew_barriers (s : State) (c : Crew) : (s.setCrew c).exe.barriers = s.exe.barriers := rfl
@[simp] theorem State.setCrew_gangs (s : State) (c : Crew) : (s.setCrew c).exe.gangs = s.exe.gangs := rfl
@[simp] theorem State.setCrew_groups (s : State) (c : Crew) : (s.setCrew c).exe.groups = s.exe.groups := rfl
@[simp] theorem State.setCrew_tiles (s : State) (c : Crew) : (s.setCrew c).exe.tiles = s.exe.tiles := rfl
@[simp] theorem State.setCrew_latches (s : State) (c : Crew) : (s.setCrew c).exe.latches = s.exe.latches := rfl
@[simp] theorem State.setCrew_threads (s : State) (c : Crew) : (s.setCrew c).exe.threads = s.exe.threads := rfl
@[simp] theorem State.setCrew_pilots (s : State) (c : Crew) : (s.setCrew c).exe.pilots = s.exe.pilots := rfl
@[simp] theorem State.setCrew_bays (s : State) (c : Crew) : (s.setCrew c).exe.bays = s.exe.bays := rfl
@[simp] theorem State.setCrew_yielded (s : State) (c : Crew) : (s.setCrew c).exe.yielded = s.exe.yielded := rfl
@[simp] theorem State.setCrew_orders (s : State) (c : Crew) : (s.setCrew c).exe.orders = s.exe.orders := rfl
@[simp] theorem State.setCrew_ids (s : State) (c : Crew) : (s.setCrew c).exe.ids = s.exe.ids := rfl

@[simp] theorem State.setThread_cur (s : State) (t : PThread) : (s.setThread t).cur = s.cur := rfl
@[simp] theorem State.setThread_turn (s : State) (t : PThread) : (s.setThread t).turn = s.turn := rfl
@[simp] theorem State.setThread_inbox (s : State) (t : PThread) : (s.setThread t).inbox = s.inbox := rfl
@[simp] theorem State.setThread_choices (s : State) (t : PThread) : (s.setThread t).choices = s.choices := rfl
@[simp] theorem State.setThread_clock (s : State) (t : PThread) : (s.setThread t).clock = s.clock := rfl
@[simp] theorem State.setThread_mem (s : State) (t : PThread) : (s.setThread t).mem = s.mem := rfl
@[simp] theorem State.setThread_trn (s : State) (t : PThread) : (s.setThread t).trn = s.trn := rfl
@[simp] theorem State.setThread_coh (s : State) (t : PThread) : (s.setThread t).coh = s.coh := rfl
@[simp] theorem State.setThread_eng (s : State) (t : PThread) : (s.setThread t).eng = s.eng := rfl
@[simp] theorem State.setThread_mgt (s : State) (t : PThread) : (s.setThread t).mgt = s.mgt := rfl
@[simp] theorem State.setThread_crews (s : State) (t : PThread) : (s.setThread t).exe.crews = s.exe.crews := rfl
@[simp] theorem State.setThread_frags (s : State) (t : PThread) : (s.setThread t).exe.frags = s.exe.frags := rfl
@[simp] theorem State.setThread_joins (s : State) (t : PThread) : (s.setThread t).exe.joins = s.exe.joins := rfl
@[simp] theorem State.setThread_barriers (s : State) (t : PThread) : (s.setThread t).exe.barriers = s.exe.barriers := rfl
@[simp] theorem State.setThread_gangs (s : State) (t : PThread) : (s.setThread t).exe.gangs = s.exe.gangs := rfl
@[simp] theorem State.setThread_groups (s : State) (t : PThread) : (s.setThread t).exe.groups = s.exe.groups := rfl
@[simp] theorem State.setThread_tiles (s : State) (t : PThread) : (s.setThread t).exe.tiles = s.exe.tiles := rfl
@[simp] theorem State.setThread_latches (s : State) (t : PThread) : (s.setThread t).exe.latches = s.exe.latches := rfl
@[simp] theorem State.setThread_pilots (s : State) (t : PThread) : (s.setThread t).exe.pilots = s.exe.pilots := rfl
@[simp] theorem State.setThread_bays (s : State) (t : PThread) : (s.setThread t).exe.bays = s.exe.bays := rfl
@[simp] theorem State.setThread_yielded (s : State) (t : PThread) : (s.setThread t).exe.yielded = s.exe.yielded := rfl
@[simp] theorem State.setThread_orders (s : State) (t : PThread) : (s.setThread t).exe.orders = s.exe.orders := rfl
@[simp] theorem State.setThread_ids (s : State) (t : PThread) : (s.setThread t).exe.ids = s.exe.ids := rfl

@[simp] theorem State.putFrag_cur (s : State) (k : Nat) (f : Frag) : (s.putFrag k f).cur = s.cur := rfl
@[simp] theorem State.putFrag_turn (s : State) (k : Nat) (f : Frag) : (s.putFrag k f).turn = s.turn := rfl
@[simp] theorem State.putFrag_inbox (s : State) (k : Nat) (f : Frag) : (s.putFrag k f).inbox = s.inbox := rfl
@[simp] theorem State.putFrag_choices (s : State) (k : Nat) (f : Frag) : (s.putFrag k f).choices = s.choices := rfl
@[simp] theorem State.putFrag_clock (s : State) (k : Nat) (f : Frag) : (s.putFrag k f).clock = s.clock := rfl
@[simp] theorem State.putFrag_mem (s : State) (k : Nat) (f : Frag) : (s.putFrag k f).mem = s.mem := rfl
@[simp] theorem State.putFrag_trn (s : State) (k : Nat) (f : Frag) : (s.putFrag k f).trn = s.trn := rfl
@[simp] theorem State.putFrag_coh (s : State) (k : Nat) (f : Frag) : (s.putFrag k f).coh = s.coh := rfl
@[simp] theorem State.putFrag_eng (s : State) (k : Nat) (f : Frag) : (s.putFrag k f).eng = s.eng := rfl
@[simp] theorem State.putFrag_mgt (s : State) (k : Nat) (f : Frag) : (s.putFrag k f).mgt = s.mgt := rfl
@[simp] theorem State.putFrag_crews (s : State) (k : Nat) (f : Frag) : (s.putFrag k f).exe.crews = s.exe.crews := rfl
@[simp] theorem State.putFrag_joins (s : State) (k : Nat) (f : Frag) : (s.putFrag k f).exe.joins = s.exe.joins := rfl
@[simp] theorem State.putFrag_barriers (s : State) (k : Nat) (f : Frag) : (s.putFrag k f).exe.barriers = s.exe.barriers := rfl
@[simp] theorem State.putFrag_gangs (s : State) (k : Nat) (f : Frag) : (s.putFrag k f).exe.gangs = s.exe.gangs := rfl
@[simp] theorem State.putFrag_groups (s : State) (k : Nat) (f : Frag) : (s.putFrag k f).exe.groups = s.exe.groups := rfl
@[simp] theorem State.putFrag_tiles (s : State) (k : Nat) (f : Frag) : (s.putFrag k f).exe.tiles = s.exe.tiles := rfl
@[simp] theorem State.putFrag_latches (s : State) (k : Nat) (f : Frag) : (s.putFrag k f).exe.latches = s.exe.latches := rfl
@[simp] theorem State.putFrag_threads (s : State) (k : Nat) (f : Frag) : (s.putFrag k f).exe.threads = s.exe.threads := rfl
@[simp] theorem State.putFrag_pilots (s : State) (k : Nat) (f : Frag) : (s.putFrag k f).exe.pilots = s.exe.pilots := rfl
@[simp] theorem State.putFrag_bays (s : State) (k : Nat) (f : Frag) : (s.putFrag k f).exe.bays = s.exe.bays := rfl
@[simp] theorem State.putFrag_yielded (s : State) (k : Nat) (f : Frag) : (s.putFrag k f).exe.yielded = s.exe.yielded := rfl
@[simp] theorem State.putFrag_orders (s : State) (k : Nat) (f : Frag) : (s.putFrag k f).exe.orders = s.exe.orders := rfl
@[simp] theorem State.putFrag_ids (s : State) (k : Nat) (f : Frag) : (s.putFrag k f).exe.ids = s.exe.ids := rfl

@[simp] theorem State.putCrew_cur (s : State) (k : Nat) (c : Crew) : (s.putCrew k c).cur = s.cur := rfl
@[simp] theorem State.putCrew_turn (s : State) (k : Nat) (c : Crew) : (s.putCrew k c).turn = s.turn := rfl
@[simp] theorem State.putCrew_inbox (s : State) (k : Nat) (c : Crew) : (s.putCrew k c).inbox = s.inbox := rfl
@[simp] theorem State.putCrew_choices (s : State) (k : Nat) (c : Crew) : (s.putCrew k c).choices = s.choices := rfl
@[simp] theorem State.putCrew_clock (s : State) (k : Nat) (c : Crew) : (s.putCrew k c).clock = s.clock := rfl
@[simp] theorem State.putCrew_mem (s : State) (k : Nat) (c : Crew) : (s.putCrew k c).mem = s.mem := rfl
@[simp] theorem State.putCrew_trn (s : State) (k : Nat) (c : Crew) : (s.putCrew k c).trn = s.trn := rfl
@[simp] theorem State.putCrew_coh (s : State) (k : Nat) (c : Crew) : (s.putCrew k c).coh = s.coh := rfl
@[simp] theorem State.putCrew_eng (s : State) (k : Nat) (c : Crew) : (s.putCrew k c).eng = s.eng := rfl
@[simp] theorem State.putCrew_mgt (s : State) (k : Nat) (c : Crew) : (s.putCrew k c).mgt = s.mgt := rfl
@[simp] theorem State.putCrew_frags (s : State) (k : Nat) (c : Crew) : (s.putCrew k c).exe.frags = s.exe.frags := rfl
@[simp] theorem State.putCrew_joins (s : State) (k : Nat) (c : Crew) : (s.putCrew k c).exe.joins = s.exe.joins := rfl
@[simp] theorem State.putCrew_barriers (s : State) (k : Nat) (c : Crew) : (s.putCrew k c).exe.barriers = s.exe.barriers := rfl
@[simp] theorem State.putCrew_gangs (s : State) (k : Nat) (c : Crew) : (s.putCrew k c).exe.gangs = s.exe.gangs := rfl
@[simp] theorem State.putCrew_groups (s : State) (k : Nat) (c : Crew) : (s.putCrew k c).exe.groups = s.exe.groups := rfl
@[simp] theorem State.putCrew_tiles (s : State) (k : Nat) (c : Crew) : (s.putCrew k c).exe.tiles = s.exe.tiles := rfl
@[simp] theorem State.putCrew_latches (s : State) (k : Nat) (c : Crew) : (s.putCrew k c).exe.latches = s.exe.latches := rfl
@[simp] theorem State.putCrew_threads (s : State) (k : Nat) (c : Crew) : (s.putCrew k c).exe.threads = s.exe.threads := rfl
@[simp] theorem State.putCrew_pilots (s : State) (k : Nat) (c : Crew) : (s.putCrew k c).exe.pilots = s.exe.pilots := rfl
@[simp] theorem State.putCrew_bays (s : State) (k : Nat) (c : Crew) : (s.putCrew k c).exe.bays = s.exe.bays := rfl
@[simp] theorem State.putCrew_yielded (s : State) (k : Nat) (c : Crew) : (s.putCrew k c).exe.yielded = s.exe.yielded := rfl
@[simp] theorem State.putCrew_orders (s : State) (k : Nat) (c : Crew) : (s.putCrew k c).exe.orders = s.exe.orders := rfl
@[simp] theorem State.putCrew_ids (s : State) (k : Nat) (c : Crew) : (s.putCrew k c).exe.ids = s.exe.ids := rfl

@[simp] theorem State.setJoin_cur (s : State) (c : Nat) (t : BitVec 12) (j : Join) : (s.setJoin c t j).cur = s.cur := rfl
@[simp] theorem State.setJoin_turn (s : State) (c : Nat) (t : BitVec 12) (j : Join) : (s.setJoin c t j).turn = s.turn := rfl
@[simp] theorem State.setJoin_inbox (s : State) (c : Nat) (t : BitVec 12) (j : Join) : (s.setJoin c t j).inbox = s.inbox := rfl
@[simp] theorem State.setJoin_choices (s : State) (c : Nat) (t : BitVec 12) (j : Join) : (s.setJoin c t j).choices = s.choices := rfl
@[simp] theorem State.setJoin_clock (s : State) (c : Nat) (t : BitVec 12) (j : Join) : (s.setJoin c t j).clock = s.clock := rfl
@[simp] theorem State.setJoin_mem (s : State) (c : Nat) (t : BitVec 12) (j : Join) : (s.setJoin c t j).mem = s.mem := rfl
@[simp] theorem State.setJoin_trn (s : State) (c : Nat) (t : BitVec 12) (j : Join) : (s.setJoin c t j).trn = s.trn := rfl
@[simp] theorem State.setJoin_coh (s : State) (c : Nat) (t : BitVec 12) (j : Join) : (s.setJoin c t j).coh = s.coh := rfl
@[simp] theorem State.setJoin_eng (s : State) (c : Nat) (t : BitVec 12) (j : Join) : (s.setJoin c t j).eng = s.eng := rfl
@[simp] theorem State.setJoin_mgt (s : State) (c : Nat) (t : BitVec 12) (j : Join) : (s.setJoin c t j).mgt = s.mgt := rfl
@[simp] theorem State.setJoin_crews (s : State) (c : Nat) (t : BitVec 12) (j : Join) : (s.setJoin c t j).exe.crews = s.exe.crews := rfl
@[simp] theorem State.setJoin_frags (s : State) (c : Nat) (t : BitVec 12) (j : Join) : (s.setJoin c t j).exe.frags = s.exe.frags := rfl
@[simp] theorem State.setJoin_barriers (s : State) (c : Nat) (t : BitVec 12) (j : Join) : (s.setJoin c t j).exe.barriers = s.exe.barriers := rfl
@[simp] theorem State.setJoin_gangs (s : State) (c : Nat) (t : BitVec 12) (j : Join) : (s.setJoin c t j).exe.gangs = s.exe.gangs := rfl
@[simp] theorem State.setJoin_groups (s : State) (c : Nat) (t : BitVec 12) (j : Join) : (s.setJoin c t j).exe.groups = s.exe.groups := rfl
@[simp] theorem State.setJoin_tiles (s : State) (c : Nat) (t : BitVec 12) (j : Join) : (s.setJoin c t j).exe.tiles = s.exe.tiles := rfl
@[simp] theorem State.setJoin_latches (s : State) (c : Nat) (t : BitVec 12) (j : Join) : (s.setJoin c t j).exe.latches = s.exe.latches := rfl
@[simp] theorem State.setJoin_threads (s : State) (c : Nat) (t : BitVec 12) (j : Join) : (s.setJoin c t j).exe.threads = s.exe.threads := rfl
@[simp] theorem State.setJoin_pilots (s : State) (c : Nat) (t : BitVec 12) (j : Join) : (s.setJoin c t j).exe.pilots = s.exe.pilots := rfl
@[simp] theorem State.setJoin_bays (s : State) (c : Nat) (t : BitVec 12) (j : Join) : (s.setJoin c t j).exe.bays = s.exe.bays := rfl
@[simp] theorem State.setJoin_yielded (s : State) (c : Nat) (t : BitVec 12) (j : Join) : (s.setJoin c t j).exe.yielded = s.exe.yielded := rfl
@[simp] theorem State.setJoin_orders (s : State) (c : Nat) (t : BitVec 12) (j : Join) : (s.setJoin c t j).exe.orders = s.exe.orders := rfl
@[simp] theorem State.setJoin_ids (s : State) (c : Nat) (t : BitVec 12) (j : Join) : (s.setJoin c t j).exe.ids = s.exe.ids := rfl

@[simp] theorem State.setBar_cur (s : State) (k : Nat) (b : Barrier) : (s.setBar k b).cur = s.cur := rfl
@[simp] theorem State.setBar_turn (s : State) (k : Nat) (b : Barrier) : (s.setBar k b).turn = s.turn := rfl
@[simp] theorem State.setBar_inbox (s : State) (k : Nat) (b : Barrier) : (s.setBar k b).inbox = s.inbox := rfl
@[simp] theorem State.setBar_choices (s : State) (k : Nat) (b : Barrier) : (s.setBar k b).choices = s.choices := rfl
@[simp] theorem State.setBar_clock (s : State) (k : Nat) (b : Barrier) : (s.setBar k b).clock = s.clock := rfl
@[simp] theorem State.setBar_mem (s : State) (k : Nat) (b : Barrier) : (s.setBar k b).mem = s.mem := rfl
@[simp] theorem State.setBar_trn (s : State) (k : Nat) (b : Barrier) : (s.setBar k b).trn = s.trn := rfl
@[simp] theorem State.setBar_coh (s : State) (k : Nat) (b : Barrier) : (s.setBar k b).coh = s.coh := rfl
@[simp] theorem State.setBar_eng (s : State) (k : Nat) (b : Barrier) : (s.setBar k b).eng = s.eng := rfl
@[simp] theorem State.setBar_mgt (s : State) (k : Nat) (b : Barrier) : (s.setBar k b).mgt = s.mgt := rfl
@[simp] theorem State.setBar_crews (s : State) (k : Nat) (b : Barrier) : (s.setBar k b).exe.crews = s.exe.crews := rfl
@[simp] theorem State.setBar_frags (s : State) (k : Nat) (b : Barrier) : (s.setBar k b).exe.frags = s.exe.frags := rfl
@[simp] theorem State.setBar_joins (s : State) (k : Nat) (b : Barrier) : (s.setBar k b).exe.joins = s.exe.joins := rfl
@[simp] theorem State.setBar_gangs (s : State) (k : Nat) (b : Barrier) : (s.setBar k b).exe.gangs = s.exe.gangs := rfl
@[simp] theorem State.setBar_groups (s : State) (k : Nat) (b : Barrier) : (s.setBar k b).exe.groups = s.exe.groups := rfl
@[simp] theorem State.setBar_tiles (s : State) (k : Nat) (b : Barrier) : (s.setBar k b).exe.tiles = s.exe.tiles := rfl
@[simp] theorem State.setBar_latches (s : State) (k : Nat) (b : Barrier) : (s.setBar k b).exe.latches = s.exe.latches := rfl
@[simp] theorem State.setBar_threads (s : State) (k : Nat) (b : Barrier) : (s.setBar k b).exe.threads = s.exe.threads := rfl
@[simp] theorem State.setBar_pilots (s : State) (k : Nat) (b : Barrier) : (s.setBar k b).exe.pilots = s.exe.pilots := rfl
@[simp] theorem State.setBar_bays (s : State) (k : Nat) (b : Barrier) : (s.setBar k b).exe.bays = s.exe.bays := rfl
@[simp] theorem State.setBar_yielded (s : State) (k : Nat) (b : Barrier) : (s.setBar k b).exe.yielded = s.exe.yielded := rfl
@[simp] theorem State.setBar_orders (s : State) (k : Nat) (b : Barrier) : (s.setBar k b).exe.orders = s.exe.orders := rfl
@[simp] theorem State.setBar_ids (s : State) (k : Nat) (b : Barrier) : (s.setBar k b).exe.ids = s.exe.ids := rfl

@[simp] theorem State.setPrecinct_cur (s : State) (p : Nat) (x : Precinct) : (s.setPrecinct p x).cur = s.cur := rfl
@[simp] theorem State.setPrecinct_turn (s : State) (p : Nat) (x : Precinct) : (s.setPrecinct p x).turn = s.turn := rfl
@[simp] theorem State.setPrecinct_inbox (s : State) (p : Nat) (x : Precinct) : (s.setPrecinct p x).inbox = s.inbox := rfl
@[simp] theorem State.setPrecinct_choices (s : State) (p : Nat) (x : Precinct) : (s.setPrecinct p x).choices = s.choices := rfl
@[simp] theorem State.setPrecinct_clock (s : State) (p : Nat) (x : Precinct) : (s.setPrecinct p x).clock = s.clock := rfl
@[simp] theorem State.setPrecinct_mem (s : State) (p : Nat) (x : Precinct) : (s.setPrecinct p x).mem = s.mem := rfl
@[simp] theorem State.setPrecinct_exe (s : State) (p : Nat) (x : Precinct) : (s.setPrecinct p x).exe = s.exe := rfl
@[simp] theorem State.setPrecinct_trn (s : State) (p : Nat) (x : Precinct) : (s.setPrecinct p x).trn = s.trn := rfl
@[simp] theorem State.setPrecinct_coh (s : State) (p : Nat) (x : Precinct) : (s.setPrecinct p x).coh = s.coh := rfl
@[simp] theorem State.setPrecinct_eng (s : State) (p : Nat) (x : Precinct) : (s.setPrecinct p x).eng = s.eng := rfl
@[simp] theorem State.setPrecinct_queues (s : State) (p : Nat) (x : Precinct) : (s.setPrecinct p x).mgt.queues = s.mgt.queues := rfl
@[simp] theorem State.setPrecinct_tasks (s : State) (p : Nat) (x : Precinct) : (s.setPrecinct p x).mgt.tasks = s.mgt.tasks := rfl
@[simp] theorem State.setPrecinct_images (s : State) (p : Nat) (x : Precinct) : (s.setPrecinct p x).mgt.images = s.mgt.images := rfl
@[simp] theorem State.setPrecinct_nextTag (s : State) (p : Nat) (x : Precinct) : (s.setPrecinct p x).mgt.nextTag = s.mgt.nextTag := rfl
@[simp] theorem State.setPrecinct_nextTask (s : State) (p : Nat) (x : Precinct) : (s.setPrecinct p x).mgt.nextTask = s.mgt.nextTask := rfl
@[simp] theorem State.setPrecinct_taskKeys (s : State) (p : Nat) (x : Precinct) : (s.setPrecinct p x).mgt.taskKeys = s.mgt.taskKeys := rfl
@[simp] theorem State.setPrecinct_dhalt (s : State) (p : Nat) (x : Precinct) : (s.setPrecinct p x).mgt.dhalt = s.mgt.dhalt := rfl
@[simp] theorem State.setPrecinct_counters (s : State) (p : Nat) (x : Precinct) : (s.setPrecinct p x).mgt.counters = s.mgt.counters := rfl
@[simp] theorem State.setPrecinct_stoppedIsl (s : State) (p : Nat) (x : Precinct) : (s.setPrecinct p x).mgt.stoppedIsl = s.mgt.stoppedIsl := rfl
@[simp] theorem State.setPrecinct_mod (s : State) (p : Nat) (x : Precinct) : (s.setPrecinct p x).mgt.mod = s.mgt.mod := rfl

@[simp] theorem State.putTask_cur (s : State) (k : Nat) (t : Task) : (s.putTask k t).cur = s.cur := rfl
@[simp] theorem State.putTask_turn (s : State) (k : Nat) (t : Task) : (s.putTask k t).turn = s.turn := rfl
@[simp] theorem State.putTask_inbox (s : State) (k : Nat) (t : Task) : (s.putTask k t).inbox = s.inbox := rfl
@[simp] theorem State.putTask_choices (s : State) (k : Nat) (t : Task) : (s.putTask k t).choices = s.choices := rfl
@[simp] theorem State.putTask_clock (s : State) (k : Nat) (t : Task) : (s.putTask k t).clock = s.clock := rfl
@[simp] theorem State.putTask_mem (s : State) (k : Nat) (t : Task) : (s.putTask k t).mem = s.mem := rfl
@[simp] theorem State.putTask_exe (s : State) (k : Nat) (t : Task) : (s.putTask k t).exe = s.exe := rfl
@[simp] theorem State.putTask_trn (s : State) (k : Nat) (t : Task) : (s.putTask k t).trn = s.trn := rfl
@[simp] theorem State.putTask_coh (s : State) (k : Nat) (t : Task) : (s.putTask k t).coh = s.coh := rfl
@[simp] theorem State.putTask_eng (s : State) (k : Nat) (t : Task) : (s.putTask k t).eng = s.eng := rfl
@[simp] theorem State.putTask_queues (s : State) (k : Nat) (t : Task) : (s.putTask k t).mgt.queues = s.mgt.queues := rfl
@[simp] theorem State.putTask_precincts (s : State) (k : Nat) (t : Task) : (s.putTask k t).mgt.precincts = s.mgt.precincts := rfl
@[simp] theorem State.putTask_images (s : State) (k : Nat) (t : Task) : (s.putTask k t).mgt.images = s.mgt.images := rfl
@[simp] theorem State.putTask_nextTag (s : State) (k : Nat) (t : Task) : (s.putTask k t).mgt.nextTag = s.mgt.nextTag := rfl
@[simp] theorem State.putTask_nextTask (s : State) (k : Nat) (t : Task) : (s.putTask k t).mgt.nextTask = s.mgt.nextTask := rfl
@[simp] theorem State.putTask_taskKeys (s : State) (k : Nat) (t : Task) : (s.putTask k t).mgt.taskKeys = s.mgt.taskKeys := rfl
@[simp] theorem State.putTask_dhalt (s : State) (k : Nat) (t : Task) : (s.putTask k t).mgt.dhalt = s.mgt.dhalt := rfl
@[simp] theorem State.putTask_counters (s : State) (k : Nat) (t : Task) : (s.putTask k t).mgt.counters = s.mgt.counters := rfl
@[simp] theorem State.putTask_stoppedIsl (s : State) (k : Nat) (t : Task) : (s.putTask k t).mgt.stoppedIsl = s.mgt.stoppedIsl := rfl
@[simp] theorem State.putTask_mod (s : State) (k : Nat) (t : Task) : (s.putTask k t).mgt.mod = s.mgt.mod := rfl

@[simp] theorem State.setQueue_cur (s : State) (q : Nat) (x : Queue) : (s.setQueue q x).cur = s.cur := rfl
@[simp] theorem State.setQueue_turn (s : State) (q : Nat) (x : Queue) : (s.setQueue q x).turn = s.turn := rfl
@[simp] theorem State.setQueue_inbox (s : State) (q : Nat) (x : Queue) : (s.setQueue q x).inbox = s.inbox := rfl
@[simp] theorem State.setQueue_choices (s : State) (q : Nat) (x : Queue) : (s.setQueue q x).choices = s.choices := rfl
@[simp] theorem State.setQueue_clock (s : State) (q : Nat) (x : Queue) : (s.setQueue q x).clock = s.clock := rfl
@[simp] theorem State.setQueue_mem (s : State) (q : Nat) (x : Queue) : (s.setQueue q x).mem = s.mem := rfl
@[simp] theorem State.setQueue_exe (s : State) (q : Nat) (x : Queue) : (s.setQueue q x).exe = s.exe := rfl
@[simp] theorem State.setQueue_trn (s : State) (q : Nat) (x : Queue) : (s.setQueue q x).trn = s.trn := rfl
@[simp] theorem State.setQueue_coh (s : State) (q : Nat) (x : Queue) : (s.setQueue q x).coh = s.coh := rfl
@[simp] theorem State.setQueue_eng (s : State) (q : Nat) (x : Queue) : (s.setQueue q x).eng = s.eng := rfl
@[simp] theorem State.setQueue_tasks (s : State) (q : Nat) (x : Queue) : (s.setQueue q x).mgt.tasks = s.mgt.tasks := rfl
@[simp] theorem State.setQueue_precincts (s : State) (q : Nat) (x : Queue) : (s.setQueue q x).mgt.precincts = s.mgt.precincts := rfl
@[simp] theorem State.setQueue_images (s : State) (q : Nat) (x : Queue) : (s.setQueue q x).mgt.images = s.mgt.images := rfl
@[simp] theorem State.setQueue_nextTag (s : State) (q : Nat) (x : Queue) : (s.setQueue q x).mgt.nextTag = s.mgt.nextTag := rfl
@[simp] theorem State.setQueue_nextTask (s : State) (q : Nat) (x : Queue) : (s.setQueue q x).mgt.nextTask = s.mgt.nextTask := rfl
@[simp] theorem State.setQueue_taskKeys (s : State) (q : Nat) (x : Queue) : (s.setQueue q x).mgt.taskKeys = s.mgt.taskKeys := rfl
@[simp] theorem State.setQueue_dhalt (s : State) (q : Nat) (x : Queue) : (s.setQueue q x).mgt.dhalt = s.mgt.dhalt := rfl
@[simp] theorem State.setQueue_counters (s : State) (q : Nat) (x : Queue) : (s.setQueue q x).mgt.counters = s.mgt.counters := rfl
@[simp] theorem State.setQueue_stoppedIsl (s : State) (q : Nat) (x : Queue) : (s.setQueue q x).mgt.stoppedIsl = s.mgt.stoppedIsl := rfl
@[simp] theorem State.setQueue_mod (s : State) (q : Nat) (x : Queue) : (s.setQueue q x).mgt.mod = s.mgt.mod := rfl

@[simp] theorem State.bumpCounter_cur (s : State) (c k : Nat) : (s.bumpCounter c k).cur = s.cur := rfl
@[simp] theorem State.bumpCounter_turn (s : State) (c k : Nat) : (s.bumpCounter c k).turn = s.turn := rfl
@[simp] theorem State.bumpCounter_inbox (s : State) (c k : Nat) : (s.bumpCounter c k).inbox = s.inbox := rfl
@[simp] theorem State.bumpCounter_choices (s : State) (c k : Nat) : (s.bumpCounter c k).choices = s.choices := rfl
@[simp] theorem State.bumpCounter_clock (s : State) (c k : Nat) : (s.bumpCounter c k).clock = s.clock := rfl
@[simp] theorem State.bumpCounter_mem (s : State) (c k : Nat) : (s.bumpCounter c k).mem = s.mem := rfl
@[simp] theorem State.bumpCounter_exe (s : State) (c k : Nat) : (s.bumpCounter c k).exe = s.exe := rfl
@[simp] theorem State.bumpCounter_trn (s : State) (c k : Nat) : (s.bumpCounter c k).trn = s.trn := rfl
@[simp] theorem State.bumpCounter_coh (s : State) (c k : Nat) : (s.bumpCounter c k).coh = s.coh := rfl
@[simp] theorem State.bumpCounter_eng (s : State) (c k : Nat) : (s.bumpCounter c k).eng = s.eng := rfl
@[simp] theorem State.bumpCounter_queues (s : State) (c k : Nat) : (s.bumpCounter c k).mgt.queues = s.mgt.queues := rfl
@[simp] theorem State.bumpCounter_tasks (s : State) (c k : Nat) : (s.bumpCounter c k).mgt.tasks = s.mgt.tasks := rfl
@[simp] theorem State.bumpCounter_precincts (s : State) (c k : Nat) : (s.bumpCounter c k).mgt.precincts = s.mgt.precincts := rfl
@[simp] theorem State.bumpCounter_images (s : State) (c k : Nat) : (s.bumpCounter c k).mgt.images = s.mgt.images := rfl
@[simp] theorem State.bumpCounter_nextTag (s : State) (c k : Nat) : (s.bumpCounter c k).mgt.nextTag = s.mgt.nextTag := rfl
@[simp] theorem State.bumpCounter_nextTask (s : State) (c k : Nat) : (s.bumpCounter c k).mgt.nextTask = s.mgt.nextTask := rfl
@[simp] theorem State.bumpCounter_taskKeys (s : State) (c k : Nat) : (s.bumpCounter c k).mgt.taskKeys = s.mgt.taskKeys := rfl
@[simp] theorem State.bumpCounter_dhalt (s : State) (c k : Nat) : (s.bumpCounter c k).mgt.dhalt = s.mgt.dhalt := rfl
@[simp] theorem State.bumpCounter_stoppedIsl (s : State) (c k : Nat) : (s.bumpCounter c k).mgt.stoppedIsl = s.mgt.stoppedIsl := rfl
@[simp] theorem State.bumpCounter_mod (s : State) (c k : Nat) : (s.bumpCounter c k).mgt.mod = s.mgt.mod := rfl

@[simp] theorem State.setCtx_cur (s : State) (i n : Nat) (c : Ctx) : (s.setCtx i n c).cur = s.cur := rfl
@[simp] theorem State.setCtx_turn (s : State) (i n : Nat) (c : Ctx) : (s.setCtx i n c).turn = s.turn := rfl
@[simp] theorem State.setCtx_inbox (s : State) (i n : Nat) (c : Ctx) : (s.setCtx i n c).inbox = s.inbox := rfl
@[simp] theorem State.setCtx_choices (s : State) (i n : Nat) (c : Ctx) : (s.setCtx i n c).choices = s.choices := rfl
@[simp] theorem State.setCtx_clock (s : State) (i n : Nat) (c : Ctx) : (s.setCtx i n c).clock = s.clock := rfl
@[simp] theorem State.setCtx_mem (s : State) (i n : Nat) (c : Ctx) : (s.setCtx i n c).mem = s.mem := rfl
@[simp] theorem State.setCtx_exe (s : State) (i n : Nat) (c : Ctx) : (s.setCtx i n c).exe = s.exe := rfl
@[simp] theorem State.setCtx_coh (s : State) (i n : Nat) (c : Ctx) : (s.setCtx i n c).coh = s.coh := rfl
@[simp] theorem State.setCtx_eng (s : State) (i n : Nat) (c : Ctx) : (s.setCtx i n c).eng = s.eng := rfl
@[simp] theorem State.setCtx_mgt (s : State) (i n : Nat) (c : Ctx) : (s.setCtx i n c).mgt = s.mgt := rfl
@[simp] theorem State.setCtx_tlb (s : State) (i n : Nat) (c : Ctx) : (s.setCtx i n c).trn.tlb = s.trn.tlb := rfl
@[simp] theorem State.setCtx_tinvs (s : State) (i n : Nat) (c : Ctx) : (s.setCtx i n c).trn.tinvs = s.trn.tinvs := rfl
@[simp] theorem State.setCtx_tacks (s : State) (i n : Nat) (c : Ctx) : (s.setCtx i n c).trn.tacks = s.trn.tacks := rfl

@[simp] theorem State.setLine_cur (s : State) (lk : Nat) (x : Line) : (s.setLine lk x).cur = s.cur := rfl
@[simp] theorem State.setLine_turn (s : State) (lk : Nat) (x : Line) : (s.setLine lk x).turn = s.turn := rfl
@[simp] theorem State.setLine_inbox (s : State) (lk : Nat) (x : Line) : (s.setLine lk x).inbox = s.inbox := rfl
@[simp] theorem State.setLine_choices (s : State) (lk : Nat) (x : Line) : (s.setLine lk x).choices = s.choices := rfl
@[simp] theorem State.setLine_clock (s : State) (lk : Nat) (x : Line) : (s.setLine lk x).clock = s.clock := rfl
@[simp] theorem State.setLine_mem (s : State) (lk : Nat) (x : Line) : (s.setLine lk x).mem = s.mem := rfl
@[simp] theorem State.setLine_exe (s : State) (lk : Nat) (x : Line) : (s.setLine lk x).exe = s.exe := rfl
@[simp] theorem State.setLine_trn (s : State) (lk : Nat) (x : Line) : (s.setLine lk x).trn = s.trn := rfl
@[simp] theorem State.setLine_eng (s : State) (lk : Nat) (x : Line) : (s.setLine lk x).eng = s.eng := rfl
@[simp] theorem State.setLine_mgt (s : State) (lk : Nat) (x : Line) : (s.setLine lk x).mgt = s.mgt := rfl
@[simp] theorem State.setLine_l1 (s : State) (lk : Nat) (x : Line) : (s.setLine lk x).coh.l1 = s.coh.l1 := rfl
@[simp] theorem State.setLine_partials (s : State) (lk : Nat) (x : Line) : (s.setLine lk x).coh.partials = s.coh.partials := rfl
@[simp] theorem State.setLine_icache (s : State) (lk : Nat) (x : Line) : (s.setLine lk x).coh.icache = s.coh.icache := rfl
@[simp] theorem State.setLine_wbuf (s : State) (lk : Nat) (x : Line) : (s.setLine lk x).coh.wbuf = s.coh.wbuf := rfl
@[simp] theorem State.setLine_reqs (s : State) (lk : Nat) (x : Line) : (s.setLine lk x).coh.reqs = s.coh.reqs := rfl
@[simp] theorem State.setLine_prt (s : State) (lk : Nat) (x : Line) : (s.setLine lk x).coh.prt = s.coh.prt := rfl
@[simp] theorem State.setLine_hot (s : State) (lk : Nat) (x : Line) : (s.setLine lk x).coh.hot = s.coh.hot := rfl
@[simp] theorem State.setLine_bad (s : State) (lk : Nat) (x : Line) : (s.setLine lk x).coh.bad = s.coh.bad := rfl
@[simp] theorem State.setLine_hostOwner (s : State) (lk : Nat) (x : Line) : (s.setLine lk x).coh.hostOwner = s.coh.hostOwner := rfl
@[simp] theorem State.setLine_permits (s : State) (lk : Nat) (x : Line) : (s.setLine lk x).coh.permits = s.coh.permits := rfl
@[simp] theorem State.setLine_heldM2S (s : State) (lk : Nat) (x : Line) : (s.setLine lk x).coh.heldM2S = s.coh.heldM2S := rfl

@[simp] theorem State.setCline_cur (s : State) (i a ln : Nat) (x : CLine) : (s.setCline i a ln x).cur = s.cur := rfl
@[simp] theorem State.setCline_turn (s : State) (i a ln : Nat) (x : CLine) : (s.setCline i a ln x).turn = s.turn := rfl
@[simp] theorem State.setCline_inbox (s : State) (i a ln : Nat) (x : CLine) : (s.setCline i a ln x).inbox = s.inbox := rfl
@[simp] theorem State.setCline_choices (s : State) (i a ln : Nat) (x : CLine) : (s.setCline i a ln x).choices = s.choices := rfl
@[simp] theorem State.setCline_clock (s : State) (i a ln : Nat) (x : CLine) : (s.setCline i a ln x).clock = s.clock := rfl
@[simp] theorem State.setCline_mem (s : State) (i a ln : Nat) (x : CLine) : (s.setCline i a ln x).mem = s.mem := rfl
@[simp] theorem State.setCline_exe (s : State) (i a ln : Nat) (x : CLine) : (s.setCline i a ln x).exe = s.exe := rfl
@[simp] theorem State.setCline_trn (s : State) (i a ln : Nat) (x : CLine) : (s.setCline i a ln x).trn = s.trn := rfl
@[simp] theorem State.setCline_eng (s : State) (i a ln : Nat) (x : CLine) : (s.setCline i a ln x).eng = s.eng := rfl
@[simp] theorem State.setCline_mgt (s : State) (i a ln : Nat) (x : CLine) : (s.setCline i a ln x).mgt = s.mgt := rfl
@[simp] theorem State.setCline_lines (s : State) (i a ln : Nat) (x : CLine) : (s.setCline i a ln x).coh.lines = s.coh.lines := rfl
@[simp] theorem State.setCline_partials (s : State) (i a ln : Nat) (x : CLine) : (s.setCline i a ln x).coh.partials = s.coh.partials := rfl
@[simp] theorem State.setCline_icache (s : State) (i a ln : Nat) (x : CLine) : (s.setCline i a ln x).coh.icache = s.coh.icache := rfl
@[simp] theorem State.setCline_wbuf (s : State) (i a ln : Nat) (x : CLine) : (s.setCline i a ln x).coh.wbuf = s.coh.wbuf := rfl
@[simp] theorem State.setCline_reqs (s : State) (i a ln : Nat) (x : CLine) : (s.setCline i a ln x).coh.reqs = s.coh.reqs := rfl
@[simp] theorem State.setCline_prt (s : State) (i a ln : Nat) (x : CLine) : (s.setCline i a ln x).coh.prt = s.coh.prt := rfl
@[simp] theorem State.setCline_hot (s : State) (i a ln : Nat) (x : CLine) : (s.setCline i a ln x).coh.hot = s.coh.hot := rfl
@[simp] theorem State.setCline_bad (s : State) (i a ln : Nat) (x : CLine) : (s.setCline i a ln x).coh.bad = s.coh.bad := rfl
@[simp] theorem State.setCline_hostOwner (s : State) (i a ln : Nat) (x : CLine) : (s.setCline i a ln x).coh.hostOwner = s.coh.hostOwner := rfl
@[simp] theorem State.setCline_permits (s : State) (i a ln : Nat) (x : CLine) : (s.setCline i a ln x).coh.permits = s.coh.permits := rfl
@[simp] theorem State.setCline_heldM2S (s : State) (i a ln : Nat) (x : CLine) : (s.setCline i a ln x).coh.heldM2S = s.coh.heldM2S := rfl

@[simp] theorem State.putReq_cur (s : State) (r : Nat) (x : Req) : (s.putReq r x).cur = s.cur := rfl
@[simp] theorem State.putReq_turn (s : State) (r : Nat) (x : Req) : (s.putReq r x).turn = s.turn := rfl
@[simp] theorem State.putReq_inbox (s : State) (r : Nat) (x : Req) : (s.putReq r x).inbox = s.inbox := rfl
@[simp] theorem State.putReq_choices (s : State) (r : Nat) (x : Req) : (s.putReq r x).choices = s.choices := rfl
@[simp] theorem State.putReq_clock (s : State) (r : Nat) (x : Req) : (s.putReq r x).clock = s.clock := rfl
@[simp] theorem State.putReq_mem (s : State) (r : Nat) (x : Req) : (s.putReq r x).mem = s.mem := rfl
@[simp] theorem State.putReq_exe (s : State) (r : Nat) (x : Req) : (s.putReq r x).exe = s.exe := rfl
@[simp] theorem State.putReq_trn (s : State) (r : Nat) (x : Req) : (s.putReq r x).trn = s.trn := rfl
@[simp] theorem State.putReq_eng (s : State) (r : Nat) (x : Req) : (s.putReq r x).eng = s.eng := rfl
@[simp] theorem State.putReq_mgt (s : State) (r : Nat) (x : Req) : (s.putReq r x).mgt = s.mgt := rfl
@[simp] theorem State.putReq_lines (s : State) (r : Nat) (x : Req) : (s.putReq r x).coh.lines = s.coh.lines := rfl
@[simp] theorem State.putReq_l1 (s : State) (r : Nat) (x : Req) : (s.putReq r x).coh.l1 = s.coh.l1 := rfl
@[simp] theorem State.putReq_partials (s : State) (r : Nat) (x : Req) : (s.putReq r x).coh.partials = s.coh.partials := rfl
@[simp] theorem State.putReq_icache (s : State) (r : Nat) (x : Req) : (s.putReq r x).coh.icache = s.coh.icache := rfl
@[simp] theorem State.putReq_wbuf (s : State) (r : Nat) (x : Req) : (s.putReq r x).coh.wbuf = s.coh.wbuf := rfl
@[simp] theorem State.putReq_prt (s : State) (r : Nat) (x : Req) : (s.putReq r x).coh.prt = s.coh.prt := rfl
@[simp] theorem State.putReq_hot (s : State) (r : Nat) (x : Req) : (s.putReq r x).coh.hot = s.coh.hot := rfl
@[simp] theorem State.putReq_bad (s : State) (r : Nat) (x : Req) : (s.putReq r x).coh.bad = s.coh.bad := rfl
@[simp] theorem State.putReq_hostOwner (s : State) (r : Nat) (x : Req) : (s.putReq r x).coh.hostOwner = s.coh.hostOwner := rfl
@[simp] theorem State.putReq_permits (s : State) (r : Nat) (x : Req) : (s.putReq r x).coh.permits = s.coh.permits := rfl
@[simp] theorem State.putReq_heldM2S (s : State) (r : Nat) (x : Req) : (s.putReq r x).coh.heldM2S = s.coh.heldM2S := rfl

@[simp] theorem State.setTender_cur (s : State) (c : Nat) (q : List TReq) : (s.setTender c q).cur = s.cur := rfl
@[simp] theorem State.setTender_turn (s : State) (c : Nat) (q : List TReq) : (s.setTender c q).turn = s.turn := rfl
@[simp] theorem State.setTender_inbox (s : State) (c : Nat) (q : List TReq) : (s.setTender c q).inbox = s.inbox := rfl
@[simp] theorem State.setTender_choices (s : State) (c : Nat) (q : List TReq) : (s.setTender c q).choices = s.choices := rfl
@[simp] theorem State.setTender_clock (s : State) (c : Nat) (q : List TReq) : (s.setTender c q).clock = s.clock := rfl
@[simp] theorem State.setTender_mem (s : State) (c : Nat) (q : List TReq) : (s.setTender c q).mem = s.mem := rfl
@[simp] theorem State.setTender_exe (s : State) (c : Nat) (q : List TReq) : (s.setTender c q).exe = s.exe := rfl
@[simp] theorem State.setTender_trn (s : State) (c : Nat) (q : List TReq) : (s.setTender c q).trn = s.trn := rfl
@[simp] theorem State.setTender_coh (s : State) (c : Nat) (q : List TReq) : (s.setTender c q).coh = s.coh := rfl
@[simp] theorem State.setTender_mgt (s : State) (c : Nat) (q : List TReq) : (s.setTender c q).mgt = s.mgt := rfl
@[simp] theorem State.setTender_lastReq (s : State) (c : Nat) (q : List TReq) : (s.setTender c q).eng.lastReq = s.eng.lastReq := rfl
@[simp] theorem State.setTender_peqDue (s : State) (c : Nat) (q : List TReq) : (s.setTender c q).eng.peqDue = s.eng.peqDue := rfl
@[simp] theorem State.setTender_ops (s : State) (c : Nat) (q : List TReq) : (s.setTender c q).eng.ops = s.eng.ops := rfl
@[simp] theorem State.setTender_arrivals (s : State) (c : Nat) (q : List TReq) : (s.setTender c q).eng.arrivals = s.eng.arrivals := rfl
@[simp] theorem State.setTender_progs (s : State) (c : Nat) (q : List TReq) : (s.setTender c q).eng.progs = s.eng.progs := rfl
@[simp] theorem State.setTender_acks (s : State) (c : Nat) (q : List TReq) : (s.setTender c q).eng.acks = s.eng.acks := rfl
@[simp] theorem State.setTender_hmacks (s : State) (c : Nat) (q : List TReq) : (s.setTender c q).eng.hmacks = s.eng.hmacks := rfl
@[simp] theorem State.setTender_notify (s : State) (c : Nat) (q : List TReq) : (s.setTender c q).eng.notify = s.eng.notify := rfl
@[simp] theorem State.setTender_replays (s : State) (c : Nat) (q : List TReq) : (s.setTender c q).eng.replays = s.eng.replays := rfl
@[simp] theorem State.setTender_fab (s : State) (c : Nat) (q : List TReq) : (s.setTender c q).eng.fab = s.eng.fab := rfl

@[simp] theorem State.setPort_cur (s : State) (i p : Nat) (x : Port) : (s.setPort i p x).cur = s.cur := rfl
@[simp] theorem State.setPort_turn (s : State) (i p : Nat) (x : Port) : (s.setPort i p x).turn = s.turn := rfl
@[simp] theorem State.setPort_inbox (s : State) (i p : Nat) (x : Port) : (s.setPort i p x).inbox = s.inbox := rfl
@[simp] theorem State.setPort_choices (s : State) (i p : Nat) (x : Port) : (s.setPort i p x).choices = s.choices := rfl
@[simp] theorem State.setPort_clock (s : State) (i p : Nat) (x : Port) : (s.setPort i p x).clock = s.clock := rfl
@[simp] theorem State.setPort_mem (s : State) (i p : Nat) (x : Port) : (s.setPort i p x).mem = s.mem := rfl
@[simp] theorem State.setPort_exe (s : State) (i p : Nat) (x : Port) : (s.setPort i p x).exe = s.exe := rfl
@[simp] theorem State.setPort_trn (s : State) (i p : Nat) (x : Port) : (s.setPort i p x).trn = s.trn := rfl
@[simp] theorem State.setPort_coh (s : State) (i p : Nat) (x : Port) : (s.setPort i p x).coh = s.coh := rfl
@[simp] theorem State.setPort_mgt (s : State) (i p : Nat) (x : Port) : (s.setPort i p x).mgt = s.mgt := rfl
@[simp] theorem State.setPort_tenders (s : State) (i p : Nat) (x : Port) : (s.setPort i p x).eng.tenders = s.eng.tenders := rfl
@[simp] theorem State.setPort_lastReq (s : State) (i p : Nat) (x : Port) : (s.setPort i p x).eng.lastReq = s.eng.lastReq := rfl
@[simp] theorem State.setPort_peqDue (s : State) (i p : Nat) (x : Port) : (s.setPort i p x).eng.peqDue = s.eng.peqDue := rfl
@[simp] theorem State.setPort_ops (s : State) (i p : Nat) (x : Port) : (s.setPort i p x).eng.ops = s.eng.ops := rfl
@[simp] theorem State.setPort_arrivals (s : State) (i p : Nat) (x : Port) : (s.setPort i p x).eng.arrivals = s.eng.arrivals := rfl
@[simp] theorem State.setPort_progs (s : State) (i p : Nat) (x : Port) : (s.setPort i p x).eng.progs = s.eng.progs := rfl
@[simp] theorem State.setPort_acks (s : State) (i p : Nat) (x : Port) : (s.setPort i p x).eng.acks = s.eng.acks := rfl
@[simp] theorem State.setPort_hmacks (s : State) (i p : Nat) (x : Port) : (s.setPort i p x).eng.hmacks = s.eng.hmacks := rfl
@[simp] theorem State.setPort_notify (s : State) (i p : Nat) (x : Port) : (s.setPort i p x).eng.notify = s.eng.notify := rfl
@[simp] theorem State.setPort_replays (s : State) (i p : Nat) (x : Port) : (s.setPort i p x).eng.replays = s.eng.replays := rfl

@[simp] theorem State.setColour_cur (s : State) (i c : Nat) (x : Colour) : (s.setColour i c x).cur = s.cur := rfl
@[simp] theorem State.setColour_turn (s : State) (i c : Nat) (x : Colour) : (s.setColour i c x).turn = s.turn := rfl
@[simp] theorem State.setColour_inbox (s : State) (i c : Nat) (x : Colour) : (s.setColour i c x).inbox = s.inbox := rfl
@[simp] theorem State.setColour_choices (s : State) (i c : Nat) (x : Colour) : (s.setColour i c x).choices = s.choices := rfl
@[simp] theorem State.setColour_clock (s : State) (i c : Nat) (x : Colour) : (s.setColour i c x).clock = s.clock := rfl
@[simp] theorem State.setColour_mem (s : State) (i c : Nat) (x : Colour) : (s.setColour i c x).mem = s.mem := rfl
@[simp] theorem State.setColour_exe (s : State) (i c : Nat) (x : Colour) : (s.setColour i c x).exe = s.exe := rfl
@[simp] theorem State.setColour_trn (s : State) (i c : Nat) (x : Colour) : (s.setColour i c x).trn = s.trn := rfl
@[simp] theorem State.setColour_coh (s : State) (i c : Nat) (x : Colour) : (s.setColour i c x).coh = s.coh := rfl
@[simp] theorem State.setColour_mgt (s : State) (i c : Nat) (x : Colour) : (s.setColour i c x).mgt = s.mgt := rfl
@[simp] theorem State.setColour_tenders (s : State) (i c : Nat) (x : Colour) : (s.setColour i c x).eng.tenders = s.eng.tenders := rfl
@[simp] theorem State.setColour_lastReq (s : State) (i c : Nat) (x : Colour) : (s.setColour i c x).eng.lastReq = s.eng.lastReq := rfl
@[simp] theorem State.setColour_peqDue (s : State) (i c : Nat) (x : Colour) : (s.setColour i c x).eng.peqDue = s.eng.peqDue := rfl
@[simp] theorem State.setColour_ops (s : State) (i c : Nat) (x : Colour) : (s.setColour i c x).eng.ops = s.eng.ops := rfl
@[simp] theorem State.setColour_arrivals (s : State) (i c : Nat) (x : Colour) : (s.setColour i c x).eng.arrivals = s.eng.arrivals := rfl
@[simp] theorem State.setColour_progs (s : State) (i c : Nat) (x : Colour) : (s.setColour i c x).eng.progs = s.eng.progs := rfl
@[simp] theorem State.setColour_acks (s : State) (i c : Nat) (x : Colour) : (s.setColour i c x).eng.acks = s.eng.acks := rfl
@[simp] theorem State.setColour_hmacks (s : State) (i c : Nat) (x : Colour) : (s.setColour i c x).eng.hmacks = s.eng.hmacks := rfl
@[simp] theorem State.setColour_notify (s : State) (i c : Nat) (x : Colour) : (s.setColour i c x).eng.notify = s.eng.notify := rfl
@[simp] theorem State.setColour_replays (s : State) (i c : Nat) (x : Colour) : (s.setColour i c x).eng.replays = s.eng.replays := rfl

@[simp] theorem State.setChart_cur (s : State) (i e : Nat) (v : W64) : (s.setChart i e v).cur = s.cur := rfl
@[simp] theorem State.setChart_turn (s : State) (i e : Nat) (v : W64) : (s.setChart i e v).turn = s.turn := rfl
@[simp] theorem State.setChart_inbox (s : State) (i e : Nat) (v : W64) : (s.setChart i e v).inbox = s.inbox := rfl
@[simp] theorem State.setChart_choices (s : State) (i e : Nat) (v : W64) : (s.setChart i e v).choices = s.choices := rfl
@[simp] theorem State.setChart_clock (s : State) (i e : Nat) (v : W64) : (s.setChart i e v).clock = s.clock := rfl
@[simp] theorem State.setChart_mem (s : State) (i e : Nat) (v : W64) : (s.setChart i e v).mem = s.mem := rfl
@[simp] theorem State.setChart_exe (s : State) (i e : Nat) (v : W64) : (s.setChart i e v).exe = s.exe := rfl
@[simp] theorem State.setChart_trn (s : State) (i e : Nat) (v : W64) : (s.setChart i e v).trn = s.trn := rfl
@[simp] theorem State.setChart_coh (s : State) (i e : Nat) (v : W64) : (s.setChart i e v).coh = s.coh := rfl
@[simp] theorem State.setChart_mgt (s : State) (i e : Nat) (v : W64) : (s.setChart i e v).mgt = s.mgt := rfl
@[simp] theorem State.setChart_tenders (s : State) (i e : Nat) (v : W64) : (s.setChart i e v).eng.tenders = s.eng.tenders := rfl
@[simp] theorem State.setChart_lastReq (s : State) (i e : Nat) (v : W64) : (s.setChart i e v).eng.lastReq = s.eng.lastReq := rfl
@[simp] theorem State.setChart_peqDue (s : State) (i e : Nat) (v : W64) : (s.setChart i e v).eng.peqDue = s.eng.peqDue := rfl
@[simp] theorem State.setChart_ops (s : State) (i e : Nat) (v : W64) : (s.setChart i e v).eng.ops = s.eng.ops := rfl
@[simp] theorem State.setChart_arrivals (s : State) (i e : Nat) (v : W64) : (s.setChart i e v).eng.arrivals = s.eng.arrivals := rfl
@[simp] theorem State.setChart_progs (s : State) (i e : Nat) (v : W64) : (s.setChart i e v).eng.progs = s.eng.progs := rfl
@[simp] theorem State.setChart_acks (s : State) (i e : Nat) (v : W64) : (s.setChart i e v).eng.acks = s.eng.acks := rfl
@[simp] theorem State.setChart_hmacks (s : State) (i e : Nat) (v : W64) : (s.setChart i e v).eng.hmacks = s.eng.hmacks := rfl
@[simp] theorem State.setChart_notify (s : State) (i e : Nat) (v : W64) : (s.setChart i e v).eng.notify = s.eng.notify := rfl
@[simp] theorem State.setChart_replays (s : State) (i e : Nat) (v : W64) : (s.setChart i e v).eng.replays = s.eng.replays := rfl

@[simp] theorem State.setUni_cur (s : State) (u : Uni) : (s.setUni u).cur = s.cur := by
  unfold State.setUni; split <;> rfl
@[simp] theorem State.setUni_turn (s : State) (u : Uni) : (s.setUni u).turn = s.turn := by
  unfold State.setUni; split <;> rfl
@[simp] theorem State.setUni_inbox (s : State) (u : Uni) : (s.setUni u).inbox = s.inbox := by
  unfold State.setUni; split <;> rfl
@[simp] theorem State.setUni_choices (s : State) (u : Uni) : (s.setUni u).choices = s.choices := by
  unfold State.setUni; split <;> rfl
@[simp] theorem State.setUni_clock (s : State) (u : Uni) : (s.setUni u).clock = s.clock := by
  unfold State.setUni; split <;> rfl
@[simp] theorem State.setUni_mem (s : State) (u : Uni) : (s.setUni u).mem = s.mem := by
  unfold State.setUni; split <;> rfl
@[simp] theorem State.setUni_trn (s : State) (u : Uni) : (s.setUni u).trn = s.trn := by
  unfold State.setUni; split <;> rfl
@[simp] theorem State.setUni_coh (s : State) (u : Uni) : (s.setUni u).coh = s.coh := by
  unfold State.setUni; split <;> rfl
@[simp] theorem State.setUni_eng (s : State) (u : Uni) : (s.setUni u).eng = s.eng := by
  unfold State.setUni; split <;> rfl
@[simp] theorem State.setUni_mgt (s : State) (u : Uni) : (s.setUni u).mgt = s.mgt := by
  unfold State.setUni; split <;> rfl

@[simp] theorem State.setCtl_cur (s : State) (c : Ctl) : (s.setCtl c).cur = s.cur := by
  unfold State.setCtl; split <;> rfl
@[simp] theorem State.setCtl_turn (s : State) (c : Ctl) : (s.setCtl c).turn = s.turn := by
  unfold State.setCtl; split <;> rfl
@[simp] theorem State.setCtl_inbox (s : State) (c : Ctl) : (s.setCtl c).inbox = s.inbox := by
  unfold State.setCtl; split <;> rfl
@[simp] theorem State.setCtl_choices (s : State) (c : Ctl) : (s.setCtl c).choices = s.choices := by
  unfold State.setCtl; split <;> rfl
@[simp] theorem State.setCtl_clock (s : State) (c : Ctl) : (s.setCtl c).clock = s.clock := by
  unfold State.setCtl; split <;> rfl
@[simp] theorem State.setCtl_mem (s : State) (c : Ctl) : (s.setCtl c).mem = s.mem := by
  unfold State.setCtl; split <;> rfl
@[simp] theorem State.setCtl_trn (s : State) (c : Ctl) : (s.setCtl c).trn = s.trn := by
  unfold State.setCtl; split <;> rfl
@[simp] theorem State.setCtl_coh (s : State) (c : Ctl) : (s.setCtl c).coh = s.coh := by
  unfold State.setCtl; split <;> rfl
@[simp] theorem State.setCtl_eng (s : State) (c : Ctl) : (s.setCtl c).eng = s.eng := by
  unfold State.setCtl; split <;> rfl
@[simp] theorem State.setCtl_mgt (s : State) (c : Ctl) : (s.setCtl c).mgt = s.mgt := by
  unfold State.setCtl; split <;> rfl

/-! The agent stays the agent. -/

@[simp] theorem State.setFrag_pilot (s : State) (f : Frag) : (s.setFrag f).pilot = s.pilot := rfl
@[simp] theorem State.setFrag_core (s : State) (f : Frag) : (s.setFrag f).core = s.core := rfl
@[simp] theorem State.setFrag_cluster (s : State) (f : Frag) : (s.setFrag f).cluster = s.cluster := rfl
@[simp] theorem State.setFrag_isl (s : State) (f : Frag) : (s.setFrag f).isl = s.isl := rfl
@[simp] theorem State.setFrag_entry (s : State) (f : Frag) : (s.setFrag f).entry = s.entry := rfl
@[simp] theorem State.setFrag_fkey (s : State) (f : Frag) : (s.setFrag f).fkey = s.fkey := rfl
@[simp] theorem State.setFrag_tkey (s : State) (f : Frag) : (s.setFrag f).tkey = s.tkey := rfl
@[simp] theorem State.setCrew_pilot (s : State) (c : Crew) : (s.setCrew c).pilot = s.pilot := rfl
@[simp] theorem State.setCrew_core (s : State) (c : Crew) : (s.setCrew c).core = s.core := rfl
@[simp] theorem State.setCrew_cluster (s : State) (c : Crew) : (s.setCrew c).cluster = s.cluster := rfl
@[simp] theorem State.setCrew_isl (s : State) (c : Crew) : (s.setCrew c).isl = s.isl := rfl
@[simp] theorem State.setCrew_entry (s : State) (c : Crew) : (s.setCrew c).entry = s.entry := rfl
@[simp] theorem State.setCrew_fkey (s : State) (c : Crew) : (s.setCrew c).fkey = s.fkey := rfl
@[simp] theorem State.setCrew_tkey (s : State) (c : Crew) : (s.setCrew c).tkey = s.tkey := rfl
@[simp] theorem State.setThread_pilot (s : State) (t : PThread) : (s.setThread t).pilot = s.pilot := rfl
@[simp] theorem State.setThread_core (s : State) (t : PThread) : (s.setThread t).core = s.core := rfl
@[simp] theorem State.setThread_cluster (s : State) (t : PThread) : (s.setThread t).cluster = s.cluster := rfl
@[simp] theorem State.setThread_isl (s : State) (t : PThread) : (s.setThread t).isl = s.isl := rfl
@[simp] theorem State.setThread_entry (s : State) (t : PThread) : (s.setThread t).entry = s.entry := rfl
@[simp] theorem State.setThread_fkey (s : State) (t : PThread) : (s.setThread t).fkey = s.fkey := rfl
@[simp] theorem State.setThread_tkey (s : State) (t : PThread) : (s.setThread t).tkey = s.tkey := rfl
@[simp] theorem State.putFrag_pilot (s : State) (k : Nat) (f : Frag) : (s.putFrag k f).pilot = s.pilot := rfl
@[simp] theorem State.putFrag_core (s : State) (k : Nat) (f : Frag) : (s.putFrag k f).core = s.core := rfl
@[simp] theorem State.putFrag_cluster (s : State) (k : Nat) (f : Frag) : (s.putFrag k f).cluster = s.cluster := rfl
@[simp] theorem State.putFrag_isl (s : State) (k : Nat) (f : Frag) : (s.putFrag k f).isl = s.isl := rfl
@[simp] theorem State.putFrag_entry (s : State) (k : Nat) (f : Frag) : (s.putFrag k f).entry = s.entry := rfl
@[simp] theorem State.putFrag_fkey (s : State) (k : Nat) (f : Frag) : (s.putFrag k f).fkey = s.fkey := rfl
@[simp] theorem State.putFrag_tkey (s : State) (k : Nat) (f : Frag) : (s.putFrag k f).tkey = s.tkey := rfl
@[simp] theorem State.putCrew_pilot (s : State) (k : Nat) (c : Crew) : (s.putCrew k c).pilot = s.pilot := rfl
@[simp] theorem State.putCrew_core (s : State) (k : Nat) (c : Crew) : (s.putCrew k c).core = s.core := rfl
@[simp] theorem State.putCrew_cluster (s : State) (k : Nat) (c : Crew) : (s.putCrew k c).cluster = s.cluster := rfl
@[simp] theorem State.putCrew_isl (s : State) (k : Nat) (c : Crew) : (s.putCrew k c).isl = s.isl := rfl
@[simp] theorem State.putCrew_entry (s : State) (k : Nat) (c : Crew) : (s.putCrew k c).entry = s.entry := rfl
@[simp] theorem State.putCrew_fkey (s : State) (k : Nat) (c : Crew) : (s.putCrew k c).fkey = s.fkey := rfl
@[simp] theorem State.putCrew_tkey (s : State) (k : Nat) (c : Crew) : (s.putCrew k c).tkey = s.tkey := rfl
@[simp] theorem State.setJoin_pilot (s : State) (c : Nat) (t : BitVec 12) (j : Join) : (s.setJoin c t j).pilot = s.pilot := rfl
@[simp] theorem State.setJoin_core (s : State) (c : Nat) (t : BitVec 12) (j : Join) : (s.setJoin c t j).core = s.core := rfl
@[simp] theorem State.setJoin_cluster (s : State) (c : Nat) (t : BitVec 12) (j : Join) : (s.setJoin c t j).cluster = s.cluster := rfl
@[simp] theorem State.setJoin_isl (s : State) (c : Nat) (t : BitVec 12) (j : Join) : (s.setJoin c t j).isl = s.isl := rfl
@[simp] theorem State.setJoin_entry (s : State) (c : Nat) (t : BitVec 12) (j : Join) : (s.setJoin c t j).entry = s.entry := rfl
@[simp] theorem State.setJoin_fkey (s : State) (c : Nat) (t : BitVec 12) (j : Join) : (s.setJoin c t j).fkey = s.fkey := rfl
@[simp] theorem State.setJoin_tkey (s : State) (c : Nat) (t : BitVec 12) (j : Join) : (s.setJoin c t j).tkey = s.tkey := rfl
@[simp] theorem State.setBar_pilot (s : State) (k : Nat) (b : Barrier) : (s.setBar k b).pilot = s.pilot := rfl
@[simp] theorem State.setBar_core (s : State) (k : Nat) (b : Barrier) : (s.setBar k b).core = s.core := rfl
@[simp] theorem State.setBar_cluster (s : State) (k : Nat) (b : Barrier) : (s.setBar k b).cluster = s.cluster := rfl
@[simp] theorem State.setBar_isl (s : State) (k : Nat) (b : Barrier) : (s.setBar k b).isl = s.isl := rfl
@[simp] theorem State.setBar_entry (s : State) (k : Nat) (b : Barrier) : (s.setBar k b).entry = s.entry := rfl
@[simp] theorem State.setBar_fkey (s : State) (k : Nat) (b : Barrier) : (s.setBar k b).fkey = s.fkey := rfl
@[simp] theorem State.setBar_tkey (s : State) (k : Nat) (b : Barrier) : (s.setBar k b).tkey = s.tkey := rfl
@[simp] theorem State.setPrecinct_pilot (s : State) (p : Nat) (x : Precinct) : (s.setPrecinct p x).pilot = s.pilot := rfl
@[simp] theorem State.setPrecinct_core (s : State) (p : Nat) (x : Precinct) : (s.setPrecinct p x).core = s.core := rfl
@[simp] theorem State.setPrecinct_cluster (s : State) (p : Nat) (x : Precinct) : (s.setPrecinct p x).cluster = s.cluster := rfl
@[simp] theorem State.setPrecinct_isl (s : State) (p : Nat) (x : Precinct) : (s.setPrecinct p x).isl = s.isl := rfl
@[simp] theorem State.setPrecinct_entry (s : State) (p : Nat) (x : Precinct) : (s.setPrecinct p x).entry = s.entry := rfl
@[simp] theorem State.setPrecinct_fkey (s : State) (p : Nat) (x : Precinct) : (s.setPrecinct p x).fkey = s.fkey := rfl
@[simp] theorem State.setPrecinct_tkey (s : State) (p : Nat) (x : Precinct) : (s.setPrecinct p x).tkey = s.tkey := rfl
@[simp] theorem State.putTask_pilot (s : State) (k : Nat) (t : Task) : (s.putTask k t).pilot = s.pilot := rfl
@[simp] theorem State.putTask_core (s : State) (k : Nat) (t : Task) : (s.putTask k t).core = s.core := rfl
@[simp] theorem State.putTask_cluster (s : State) (k : Nat) (t : Task) : (s.putTask k t).cluster = s.cluster := rfl
@[simp] theorem State.putTask_isl (s : State) (k : Nat) (t : Task) : (s.putTask k t).isl = s.isl := rfl
@[simp] theorem State.putTask_entry (s : State) (k : Nat) (t : Task) : (s.putTask k t).entry = s.entry := rfl
@[simp] theorem State.putTask_fkey (s : State) (k : Nat) (t : Task) : (s.putTask k t).fkey = s.fkey := rfl
@[simp] theorem State.putTask_tkey (s : State) (k : Nat) (t : Task) : (s.putTask k t).tkey = s.tkey := rfl
@[simp] theorem State.setQueue_pilot (s : State) (q : Nat) (x : Queue) : (s.setQueue q x).pilot = s.pilot := rfl
@[simp] theorem State.setQueue_core (s : State) (q : Nat) (x : Queue) : (s.setQueue q x).core = s.core := rfl
@[simp] theorem State.setQueue_cluster (s : State) (q : Nat) (x : Queue) : (s.setQueue q x).cluster = s.cluster := rfl
@[simp] theorem State.setQueue_isl (s : State) (q : Nat) (x : Queue) : (s.setQueue q x).isl = s.isl := rfl
@[simp] theorem State.setQueue_entry (s : State) (q : Nat) (x : Queue) : (s.setQueue q x).entry = s.entry := rfl
@[simp] theorem State.setQueue_fkey (s : State) (q : Nat) (x : Queue) : (s.setQueue q x).fkey = s.fkey := rfl
@[simp] theorem State.setQueue_tkey (s : State) (q : Nat) (x : Queue) : (s.setQueue q x).tkey = s.tkey := rfl
@[simp] theorem State.bumpCounter_pilot (s : State) (c k : Nat) : (s.bumpCounter c k).pilot = s.pilot := rfl
@[simp] theorem State.bumpCounter_core (s : State) (c k : Nat) : (s.bumpCounter c k).core = s.core := rfl
@[simp] theorem State.bumpCounter_cluster (s : State) (c k : Nat) : (s.bumpCounter c k).cluster = s.cluster := rfl
@[simp] theorem State.bumpCounter_isl (s : State) (c k : Nat) : (s.bumpCounter c k).isl = s.isl := rfl
@[simp] theorem State.bumpCounter_entry (s : State) (c k : Nat) : (s.bumpCounter c k).entry = s.entry := rfl
@[simp] theorem State.bumpCounter_fkey (s : State) (c k : Nat) : (s.bumpCounter c k).fkey = s.fkey := rfl
@[simp] theorem State.bumpCounter_tkey (s : State) (c k : Nat) : (s.bumpCounter c k).tkey = s.tkey := rfl
@[simp] theorem State.setCtx_pilot (s : State) (i n : Nat) (c : Ctx) : (s.setCtx i n c).pilot = s.pilot := rfl
@[simp] theorem State.setCtx_core (s : State) (i n : Nat) (c : Ctx) : (s.setCtx i n c).core = s.core := rfl
@[simp] theorem State.setCtx_cluster (s : State) (i n : Nat) (c : Ctx) : (s.setCtx i n c).cluster = s.cluster := rfl
@[simp] theorem State.setCtx_isl (s : State) (i n : Nat) (c : Ctx) : (s.setCtx i n c).isl = s.isl := rfl
@[simp] theorem State.setCtx_entry (s : State) (i n : Nat) (c : Ctx) : (s.setCtx i n c).entry = s.entry := rfl
@[simp] theorem State.setCtx_fkey (s : State) (i n : Nat) (c : Ctx) : (s.setCtx i n c).fkey = s.fkey := rfl
@[simp] theorem State.setCtx_tkey (s : State) (i n : Nat) (c : Ctx) : (s.setCtx i n c).tkey = s.tkey := rfl
@[simp] theorem State.setLine_pilot (s : State) (lk : Nat) (x : Line) : (s.setLine lk x).pilot = s.pilot := rfl
@[simp] theorem State.setLine_core (s : State) (lk : Nat) (x : Line) : (s.setLine lk x).core = s.core := rfl
@[simp] theorem State.setLine_cluster (s : State) (lk : Nat) (x : Line) : (s.setLine lk x).cluster = s.cluster := rfl
@[simp] theorem State.setLine_isl (s : State) (lk : Nat) (x : Line) : (s.setLine lk x).isl = s.isl := rfl
@[simp] theorem State.setLine_entry (s : State) (lk : Nat) (x : Line) : (s.setLine lk x).entry = s.entry := rfl
@[simp] theorem State.setLine_fkey (s : State) (lk : Nat) (x : Line) : (s.setLine lk x).fkey = s.fkey := rfl
@[simp] theorem State.setLine_tkey (s : State) (lk : Nat) (x : Line) : (s.setLine lk x).tkey = s.tkey := rfl
@[simp] theorem State.setCline_pilot (s : State) (i a ln : Nat) (x : CLine) : (s.setCline i a ln x).pilot = s.pilot := rfl
@[simp] theorem State.setCline_core (s : State) (i a ln : Nat) (x : CLine) : (s.setCline i a ln x).core = s.core := rfl
@[simp] theorem State.setCline_cluster (s : State) (i a ln : Nat) (x : CLine) : (s.setCline i a ln x).cluster = s.cluster := rfl
@[simp] theorem State.setCline_isl (s : State) (i a ln : Nat) (x : CLine) : (s.setCline i a ln x).isl = s.isl := rfl
@[simp] theorem State.setCline_entry (s : State) (i a ln : Nat) (x : CLine) : (s.setCline i a ln x).entry = s.entry := rfl
@[simp] theorem State.setCline_fkey (s : State) (i a ln : Nat) (x : CLine) : (s.setCline i a ln x).fkey = s.fkey := rfl
@[simp] theorem State.setCline_tkey (s : State) (i a ln : Nat) (x : CLine) : (s.setCline i a ln x).tkey = s.tkey := rfl
@[simp] theorem State.putReq_pilot (s : State) (r : Nat) (x : Req) : (s.putReq r x).pilot = s.pilot := rfl
@[simp] theorem State.putReq_core (s : State) (r : Nat) (x : Req) : (s.putReq r x).core = s.core := rfl
@[simp] theorem State.putReq_cluster (s : State) (r : Nat) (x : Req) : (s.putReq r x).cluster = s.cluster := rfl
@[simp] theorem State.putReq_isl (s : State) (r : Nat) (x : Req) : (s.putReq r x).isl = s.isl := rfl
@[simp] theorem State.putReq_entry (s : State) (r : Nat) (x : Req) : (s.putReq r x).entry = s.entry := rfl
@[simp] theorem State.putReq_fkey (s : State) (r : Nat) (x : Req) : (s.putReq r x).fkey = s.fkey := rfl
@[simp] theorem State.putReq_tkey (s : State) (r : Nat) (x : Req) : (s.putReq r x).tkey = s.tkey := rfl
@[simp] theorem State.setTender_pilot (s : State) (c : Nat) (q : List TReq) : (s.setTender c q).pilot = s.pilot := rfl
@[simp] theorem State.setTender_core (s : State) (c : Nat) (q : List TReq) : (s.setTender c q).core = s.core := rfl
@[simp] theorem State.setTender_cluster (s : State) (c : Nat) (q : List TReq) : (s.setTender c q).cluster = s.cluster := rfl
@[simp] theorem State.setTender_isl (s : State) (c : Nat) (q : List TReq) : (s.setTender c q).isl = s.isl := rfl
@[simp] theorem State.setTender_entry (s : State) (c : Nat) (q : List TReq) : (s.setTender c q).entry = s.entry := rfl
@[simp] theorem State.setTender_fkey (s : State) (c : Nat) (q : List TReq) : (s.setTender c q).fkey = s.fkey := rfl
@[simp] theorem State.setTender_tkey (s : State) (c : Nat) (q : List TReq) : (s.setTender c q).tkey = s.tkey := rfl
@[simp] theorem State.setPort_pilot (s : State) (i p : Nat) (x : Port) : (s.setPort i p x).pilot = s.pilot := rfl
@[simp] theorem State.setPort_core (s : State) (i p : Nat) (x : Port) : (s.setPort i p x).core = s.core := rfl
@[simp] theorem State.setPort_cluster (s : State) (i p : Nat) (x : Port) : (s.setPort i p x).cluster = s.cluster := rfl
@[simp] theorem State.setPort_isl (s : State) (i p : Nat) (x : Port) : (s.setPort i p x).isl = s.isl := rfl
@[simp] theorem State.setPort_entry (s : State) (i p : Nat) (x : Port) : (s.setPort i p x).entry = s.entry := rfl
@[simp] theorem State.setPort_fkey (s : State) (i p : Nat) (x : Port) : (s.setPort i p x).fkey = s.fkey := rfl
@[simp] theorem State.setPort_tkey (s : State) (i p : Nat) (x : Port) : (s.setPort i p x).tkey = s.tkey := rfl
@[simp] theorem State.setColour_pilot (s : State) (i c : Nat) (x : Colour) : (s.setColour i c x).pilot = s.pilot := rfl
@[simp] theorem State.setColour_core (s : State) (i c : Nat) (x : Colour) : (s.setColour i c x).core = s.core := rfl
@[simp] theorem State.setColour_cluster (s : State) (i c : Nat) (x : Colour) : (s.setColour i c x).cluster = s.cluster := rfl
@[simp] theorem State.setColour_isl (s : State) (i c : Nat) (x : Colour) : (s.setColour i c x).isl = s.isl := rfl
@[simp] theorem State.setColour_entry (s : State) (i c : Nat) (x : Colour) : (s.setColour i c x).entry = s.entry := rfl
@[simp] theorem State.setColour_fkey (s : State) (i c : Nat) (x : Colour) : (s.setColour i c x).fkey = s.fkey := rfl
@[simp] theorem State.setColour_tkey (s : State) (i c : Nat) (x : Colour) : (s.setColour i c x).tkey = s.tkey := rfl
@[simp] theorem State.setChart_pilot (s : State) (i e : Nat) (v : W64) : (s.setChart i e v).pilot = s.pilot := rfl
@[simp] theorem State.setChart_core (s : State) (i e : Nat) (v : W64) : (s.setChart i e v).core = s.core := rfl
@[simp] theorem State.setChart_cluster (s : State) (i e : Nat) (v : W64) : (s.setChart i e v).cluster = s.cluster := rfl
@[simp] theorem State.setChart_isl (s : State) (i e : Nat) (v : W64) : (s.setChart i e v).isl = s.isl := rfl
@[simp] theorem State.setChart_entry (s : State) (i e : Nat) (v : W64) : (s.setChart i e v).entry = s.entry := rfl
@[simp] theorem State.setChart_fkey (s : State) (i e : Nat) (v : W64) : (s.setChart i e v).fkey = s.fkey := rfl
@[simp] theorem State.setChart_tkey (s : State) (i e : Nat) (v : W64) : (s.setChart i e v).tkey = s.tkey := rfl
@[simp] theorem State.setUni_pilot (s : State) (u : Uni) : (s.setUni u).pilot = s.pilot := by
  unfold State.setUni; split <;> rfl
@[simp] theorem State.setUni_core (s : State) (u : Uni) : (s.setUni u).core = s.core := by
  unfold State.setUni; split <;> rfl
@[simp] theorem State.setUni_cluster (s : State) (u : Uni) : (s.setUni u).cluster = s.cluster := by
  unfold State.setUni; split <;> rfl
@[simp] theorem State.setUni_isl (s : State) (u : Uni) : (s.setUni u).isl = s.isl := by
  unfold State.setUni; split <;> rfl
@[simp] theorem State.setUni_entry (s : State) (u : Uni) : (s.setUni u).entry = s.entry := by
  unfold State.setUni; split <;> rfl
@[simp] theorem State.setUni_fkey (s : State) (u : Uni) : (s.setUni u).fkey = s.fkey := by
  unfold State.setUni; split <;> rfl
@[simp] theorem State.setUni_tkey (s : State) (u : Uni) : (s.setUni u).tkey = s.tkey := by
  unfold State.setUni; split <;> rfl
@[simp] theorem State.setCtl_pilot (s : State) (c : Ctl) : (s.setCtl c).pilot = s.pilot := by
  unfold State.setCtl; split <;> rfl
@[simp] theorem State.setCtl_core (s : State) (c : Ctl) : (s.setCtl c).core = s.core := by
  unfold State.setCtl; split <;> rfl
@[simp] theorem State.setCtl_cluster (s : State) (c : Ctl) : (s.setCtl c).cluster = s.cluster := by
  unfold State.setCtl; split <;> rfl
@[simp] theorem State.setCtl_isl (s : State) (c : Ctl) : (s.setCtl c).isl = s.isl := by
  unfold State.setCtl; split <;> rfl
@[simp] theorem State.setCtl_entry (s : State) (c : Ctl) : (s.setCtl c).entry = s.entry := by
  unfold State.setCtl; split <;> rfl
@[simp] theorem State.setCtl_fkey (s : State) (c : Ctl) : (s.setCtl c).fkey = s.fkey := by
  unfold State.setCtl; split <;> rfl
@[simp] theorem State.setCtl_tkey (s : State) (c : Ctl) : (s.setCtl c).tkey = s.tkey := by
  unfold State.setCtl; split <;> rfl

/-! Reads after writes. -/

@[simp] theorem State.frag_setFrag (s : State) (f : Frag) : (s.setFrag f).frag = f := by
  simp [State.frag, State.setFrag, State.fkey, State.core, State.entry]
@[simp] theorem State.thread_setThread (s : State) (t : PThread) : (s.setThread t).thread = t := by
  simp [State.thread, State.setThread, State.tkey]
@[simp] theorem State.crew_setCrew (s : State) (c : Crew) : (s.setCrew c).crew = c := by
  simp [State.crew, State.setCrew, State.ckey, State.frag, State.fkey, State.core, State.entry]
@[simp] theorem State.frag_setCrew (s : State) (c : Crew) : (s.setCrew c).frag = s.frag := rfl
@[simp] theorem State.thread_setCrew (s : State) (c : Crew) : (s.setCrew c).thread = s.thread := rfl
@[simp] theorem State.thread_setFrag (s : State) (f : Frag) : (s.setFrag f).thread = s.thread := rfl
@[simp] theorem State.frag_setThread (s : State) (t : PThread) : (s.setThread t).frag = s.frag := rfl
@[simp] theorem State.crew_setThread (s : State) (t : PThread) : (s.setThread t).crew = s.crew := rfl
theorem State.crew_setFrag (s : State) (f : Frag) (h : f.crew = s.frag.crew) : (s.setFrag f).crew = s.crew := by
  show Tbl.get {} s.exe.crews (s.core * 64 + (s.setFrag f).frag.crew) = _
  rw [State.frag_setFrag, h]; rfl
theorem State.fragAt_putFrag (s : State) (k j : Nat) (f : Frag) : (s.putFrag k f).fragAt j = if j = k then f else s.fragAt j := by
  simp [State.fragAt, State.putFrag, Tbl.get_put]
theorem State.crewAt_putCrew (s : State) (k j : Nat) (c : Crew) : (s.putCrew k c).crewAt j = if j = k then c else s.crewAt j := by
  simp [State.crewAt, State.putCrew, Tbl.get_put]
theorem State.fragAt_setFrag (s : State) (j : Nat) (f : Frag) : (s.setFrag f).fragAt j = if j = s.fkey then f else s.fragAt j := by
  simp [State.fragAt, State.setFrag, Tbl.get_put]
theorem State.crewAt_setCrew (s : State) (j : Nat) (c : Crew) : (s.setCrew c).crewAt j = if j = s.ckey then c else s.crewAt j := by
  simp [State.crewAt, State.setCrew, Tbl.get_put]
theorem State.precinct_setPrecinct (s : State) (p q : Nat) (x : Precinct) : (s.setPrecinct p x).precinct q = if q = p then x else s.precinct q := by
  simp [State.precinct, State.setPrecinct, Tbl.get_put]
theorem State.queue_setQueue (s : State) (p q : Nat) (x : Queue) : (s.setQueue p x).queue q = if q = p then x else s.queue q := by
  simp [State.queue, State.setQueue, Tbl.get_put]
theorem State.line_setLine (s : State) (p q : Nat) (x : Line) : (s.setLine p x).line q = if q = p then x else s.line q := by
  simp [State.line, State.setLine, Tbl.get_put]
theorem State.barAt_setBar (s : State) (p q : Nat) (x : Barrier) : (s.setBar p x).barAt q = if q = p then x else s.barAt q := by
  simp [State.barAt, State.setBar, Tbl.get_put]
@[simp] theorem State.ctl_setCtl (s : State) (c : Ctl) : (s.setCtl c).ctl = c := by
  unfold State.setCtl State.ctl; by_cases h : s.pilot = true <;> simp [h]
@[simp] theorem State.uni_setUni (s : State) (u : Uni) : (s.setUni u).uni = u := by
  unfold State.setUni State.uni; by_cases h : s.pilot = true <;> simp [h]
@[simp] theorem State.uni_setCtl (s : State) (c : Ctl) : (s.setCtl c).uni = s.uni := by
  unfold State.setCtl State.uni; by_cases h : s.pilot = true
  · simp [h]
  · simp [h, State.crew_setFrag]
@[simp] theorem State.ctl_setUni (s : State) (u : Uni) : (s.setUni u).ctl = s.ctl := by
  unfold State.setUni State.ctl; by_cases h : s.pilot = true <;> simp [h]

/-! Time and turn. -/

@[simp] theorem State.tick_mem (s : State) : s.tick.mem = s.mem := rfl
@[simp] theorem State.tick_exe (s : State) : s.tick.exe = s.exe := rfl
@[simp] theorem State.tick_mgt (s : State) : s.tick.mgt = s.mgt := rfl
@[simp] theorem State.tick_inbox (s : State) : s.tick.inbox = s.inbox := rfl
@[simp] theorem State.forAgent_cur (s : State) (a : Agent) : (s.forAgent a).cur = a := rfl
@[simp] theorem State.forAgent_mem (s : State) (a : Agent) : (s.forAgent a).mem = s.mem := rfl
@[simp] theorem State.forAgent_exe (s : State) (a : Agent) : (s.forAgent a).exe = s.exe := rfl

/-! Writes of memory and the codes beside it. -/

@[simp] theorem State.cleanCovered_mem (s : State) (ps : List (Nat × Nat)) : (s.cleanCovered ps).mem = s.mem := rfl
@[simp] theorem State.cleanCovered_exe (s : State) (ps : List (Nat × Nat)) : (s.cleanCovered ps).exe = s.exe := rfl
@[simp] theorem State.cleanCovered_trn (s : State) (ps : List (Nat × Nat)) : (s.cleanCovered ps).trn = s.trn := rfl
@[simp] theorem State.cleanCovered_eng (s : State) (ps : List (Nat × Nat)) : (s.cleanCovered ps).eng = s.eng := rfl
@[simp] theorem State.cleanCovered_mgt (s : State) (ps : List (Nat × Nat)) : (s.cleanCovered ps).mgt = s.mgt := rfl
@[simp] theorem State.cleanCovered_lines (s : State) (ps : List (Nat × Nat)) : (s.cleanCovered ps).coh.lines = s.coh.lines := rfl
@[simp] theorem State.cleanCovered_l1 (s : State) (ps : List (Nat × Nat)) : (s.cleanCovered ps).coh.l1 = s.coh.l1 := rfl
@[simp] theorem State.cleanCovered_wbuf (s : State) (ps : List (Nat × Nat)) : (s.cleanCovered ps).coh.wbuf = s.coh.wbuf := rfl
@[simp] theorem State.store_mem (s : State) (loc : Nat) (bs : List Byte) : (s.store loc bs).mem = Memory.writeBytes s.mem loc bs := rfl
@[simp] theorem State.store_exe (s : State) (loc : Nat) (bs : List Byte) : (s.store loc bs).exe = s.exe := rfl
@[simp] theorem State.store_trn (s : State) (loc : Nat) (bs : List Byte) : (s.store loc bs).trn = s.trn := rfl
@[simp] theorem State.store_eng (s : State) (loc : Nat) (bs : List Byte) : (s.store loc bs).eng = s.eng := rfl
@[simp] theorem State.store_mgt (s : State) (loc : Nat) (bs : List Byte) : (s.store loc bs).mgt = s.mgt := rfl
@[simp] theorem State.applyBytes_mem (s : State) (bs : List (Nat × Byte)) : (s.applyBytes bs).mem = Memory.writeAll s.mem bs := rfl
@[simp] theorem State.applyBytes_exe (s : State) (bs : List (Nat × Byte)) : (s.applyBytes bs).exe = s.exe := rfl
@[simp] theorem State.applyBytes_trn (s : State) (bs : List (Nat × Byte)) : (s.applyBytes bs).trn = s.trn := rfl

end Sys2Proof.Machine
end

