-- ==== Sys2Proof/Laws/Ops.lean ====
section
/-! SUPPORT. What each shared operation can do: register writes and walker reads touch execution state only, and every operation over memory
keeps its canonical form. -/

namespace Sys2Proof.Machine

open Sys2Proof

/-- Only execution state differs. -/
def State.ExeOnly (s t : State) : Prop := t = { s with exe := t.exe }

theorem State.exeOnly_refl (s : State) : s.ExeOnly s := rfl

theorem State.exeOnly_trans {s t u : State} (h : s.ExeOnly t) (k : t.ExeOnly u) : s.ExeOnly u := by
  unfold State.ExeOnly at *
  rw [k, h]

theorem State.setUni_exeOnly (s : State) (u : Uni) : s.ExeOnly (s.setUni u) := by
  unfold State.setUni; split <;> rfl

theorem State.setCtl_exeOnly (s : State) (c : Ctl) : s.ExeOnly (s.setCtl c) := by
  unfold State.setCtl; split <;> rfl

theorem State.putS_exeOnly (s : State) (n : Nat) (v : W32) : s.ExeOnly (s.putS n v) := s.setUni_exeOnly _

theorem State.wrS_exeOnly (s : State) (o : Opnd) (v : W32) : s.ExeOnly (s.wrS o v) := by
  unfold State.wrS; split
  · exact s.putS_exeOnly _ v
  · rfl

theorem State.wrS64_exeOnly (s : State) (o : Opnd) (v : W64) : s.ExeOnly (s.wrS64 o v) := by
  unfold State.wrS64; split
  · exact State.exeOnly_trans (s.putS_exeOnly _ _) (State.putS_exeOnly _ _ _)
  · rfl

theorem State.putQ_exeOnly (s : State) (k : Nat) (b : Bool) : s.ExeOnly (s.putQ k b) := by
  unfold State.putQ; split
  · rfl
  · exact s.setUni_exeOnly _

theorem State.wrQ_exeOnly (s : State) (o : Opnd) (b : Bool) : s.ExeOnly (s.wrQ o b) := by
  unfold State.wrQ; split
  · exact s.putQ_exeOnly _ b
  · rfl

theorem State.wrV_exeOnly (s : State) (n : Nat) (m : Mask) (f : Nat → W32) : s.ExeOnly (s.wrV n m f) := by
  unfold State.wrV; split <;> rfl

theorem State.wrV64_exeOnly (s : State) (n : Nat) (m : Mask) (f : Nat → W64) : s.ExeOnly (s.wrV64 n m f) :=
  State.exeOnly_trans (s.wrV_exeOnly n m _) (State.wrV_exeOnly _ _ m _)

theorem State.wrP_exeOnly (s : State) (o : Opnd) (m : Mask) (f : Nat → Bool) : s.ExeOnly (s.wrP o m f) := by
  unfold State.wrP; split
  · split <;> rfl
  · rfl

theorem State.setWalker_exeOnly (s : State) (n : Nat) (w : Walker) : s.ExeOnly (s.setWalker n w) := s.setUni_exeOnly _

theorem State.readWalker_exeOnly (s : State) (n : BitVec 3) : s.ExeOnly (s.readWalker n).2 :=
  State.exeOnly_trans (s.setWalker_exeOnly _ _) (State.setCtl_exeOnly _ _)

/-- A walker operand is read once: a replayed read changes nothing, and no read changes more than execution state. -/
theorem State.walk_exeOnly (s : State) (os : List Opnd) : s.ExeOnly (s.walk os).2 := by
  unfold State.walk
  split
  · rfl
  · split
    · split
      · rfl
      · exact s.readWalker_exeOnly _
    · exact s.readWalker_exeOnly _

theorem State.stall_exeOnly (s : State) (wait : Nat) (why : WaitFor) : s.ExeOnly (s.stall wait why) := by
  unfold State.stall; split <;> rfl

/-! Caches: a touch changes marks and recency, and nothing that an access reads. -/

theorem State.touch_eq (s : State) (isl a ln hint : Nat) (t : IssueNo) :
    ∃ l n, s.touch isl a ln hint t = { s with coh := { s.coh with l1 := l }, choices := n } := by
  by_cases h : (decide (hint = 3) || decide ((s.cline isl a ln).tokens = 0)) = true
  all_goals simp only [State.touch, h, if_true, if_false]
  · exact ⟨_, _, rfl⟩
  · exact ⟨_, _, rfl⟩

theorem State.touchL2_eq (s : State) (lk hint : Nat) (t : IssueNo) :
    ∃ l n, s.touchL2 lk hint t = { s with coh := { s.coh with lines := l }, choices := n } := by
  by_cases h : (decide (hint = 3) || !(s.line lk).inL2) = true
  all_goals simp only [State.touchL2, h, if_true, if_false]
  · exact ⟨_, _, rfl⟩
  · exact ⟨_, _, rfl⟩

theorem State.placeL2_eq (s : State) (lk hint way : Nat) (t : IssueNo) :
    ∃ l, s.placeL2 lk hint way t = { s with coh := { s.coh with lines := l }, choices := s.choices + 1 } := ⟨_, rfl⟩

/-! Memory. -/

theorem State.reset_memOk : State.reset.MemOk := rfl

theorem State.store_memOk (s : State) (loc : Nat) (bs : List Byte) (h : s.MemOk) : (s.store loc bs).MemOk := by
  show Memory.wf (s.store loc bs).mem = true
  rw [State.store_mem]
  exact Memory.wf_writeBytes h loc bs

theorem State.writePieces_memOk (ls : List (Nat × Nat)) : ∀ (s : State) (bs : List Byte), s.MemOk → (s.writePieces ls bs).MemOk := by
  induction ls with
  | nil => intro s bs h; exact h
  | cons p r ih => intro s bs h; exact ih _ _ (s.store_memOk _ _ h)

theorem State.applyBytes_memOk (s : State) (bs : List (Nat × Byte)) (h : s.MemOk) : (s.applyBytes bs).MemOk := by
  show Memory.wf (s.applyBytes bs).mem = true
  rw [State.applyBytes_mem]
  exact Memory.wf_writeAll h bs

theorem State.applyRed_memOk (op w : Nat) : ∀ (n : Nat) (s : State) (bs : List (Nat × Byte)), s.MemOk → (State.applyRed op w n s bs).MemOk := by
  intro n
  induction n with
  | zero => intro s bs h; exact h
  | succ n ih =>
    intro s bs h
    unfold State.applyRed
    split
    · exact h
    · exact ih _ _ (Memory.wf_writeN h _ _ _)

theorem State.applyEntry_memOk (s : State) (e : WEnt) (h : s.MemOk) : (s.applyEntry e).MemOk := by
  unfold State.applyEntry; split
  · exact State.applyRed_memOk _ _ _ s _ h
  · exact s.applyBytes_memOk _ h

theorem State.zeroRange_memOk (s : State) (loc n : Nat) (h : s.MemOk) : (s.zeroRange loc n).MemOk := Memory.wf_filter h _

theorem State.clearClusters_memOk (s : State) (p : Nat) (h : s.MemOk) : (s.clearClusters p).MemOk := Memory.wf_filter h _

theorem State.afterReset_memOk (s : State) (h : s.MemOk) : (s.afterReset).MemOk := Memory.wf_filter h _

end Sys2Proof.Machine
end

