-- ==== Sys2Proof/Laws/PerInstr.lean ====
section
/-! SUPPORT. Families of statements about every instruction, one lemma for each constructor. -/

open Sys2Proof

/-- An instruction word's major code leads back to the instruction, and the format of its fields is the code's (R217, R232). -/
def Sys2Proof.Laws.OpcodeMap.Statement (i : Instr) : Prop :=
  ∀ op f, i.parts = some (op, f) →
    Instr.build op.toNat f = some i
    ∧ fmtOf op.toNat = some (match f with | .r _ => .r | .i _ => .i | .m _ => .m | .b _ => .b | .e _ => .e)

theorem Sys2Proof.Laws.OpcodeMap.sadd (x : RI) : Sys2Proof.Laws.OpcodeMap.Statement (.sadd x) := by intro _ _ h; cases h; exact ⟨rfl, rfl⟩
theorem Sys2Proof.Laws.OpcodeMap.ssub (x : RI) : Sys2Proof.Laws.OpcodeMap.Statement (.ssub x) := by intro _ _ h; cases h; exact ⟨rfl, rfl⟩
theorem Sys2Proof.Laws.OpcodeMap.smul (x : RI) : Sys2Proof.Laws.OpcodeMap.Statement (.smul x) := by intro _ _ h; cases h; exact ⟨rfl, rfl⟩
theorem Sys2Proof.Laws.OpcodeMap.smulh (x : RI) : Sys2Proof.Laws.OpcodeMap.Statement (.smulh x) := by intro _ _ h; cases h; exact ⟨rfl, rfl⟩
theorem Sys2Proof.Laws.OpcodeMap.smad (x : RI) : Sys2Proof.Laws.OpcodeMap.Statement (.smad x) := by intro _ _ h; cases h; exact ⟨rfl, rfl⟩
theorem Sys2Proof.Laws.OpcodeMap.sdiv (x : RI) : Sys2Proof.Laws.OpcodeMap.Statement (.sdiv x) := by intro _ _ h; cases h; exact ⟨rfl, rfl⟩
theorem Sys2Proof.Laws.OpcodeMap.srem (x : RI) : Sys2Proof.Laws.OpcodeMap.Statement (.srem x) := by intro _ _ h; cases h; exact ⟨rfl, rfl⟩
theorem Sys2Proof.Laws.OpcodeMap.sand (x : RI) : Sys2Proof.Laws.OpcodeMap.Statement (.sand x) := by intro _ _ h; cases h; exact ⟨rfl, rfl⟩
theorem Sys2Proof.Laws.OpcodeMap.sor (x : RI) : Sys2Proof.Laws.OpcodeMap.Statement (.sor x) := by intro _ _ h; cases h; exact ⟨rfl, rfl⟩
theorem Sys2Proof.Laws.OpcodeMap.sxor (x : RI) : Sys2Proof.Laws.OpcodeMap.Statement (.sxor x) := by intro _ _ h; cases h; exact ⟨rfl, rfl⟩
theorem Sys2Proof.Laws.OpcodeMap.sandn (x : RI) : Sys2Proof.Laws.OpcodeMap.Statement (.sandn x) := by intro _ _ h; cases h; exact ⟨rfl, rfl⟩
theorem Sys2Proof.Laws.OpcodeMap.sshl (x : RI) : Sys2Proof.Laws.OpcodeMap.Statement (.sshl x) := by intro _ _ h; cases h; exact ⟨rfl, rfl⟩
theorem Sys2Proof.Laws.OpcodeMap.sshr (x : RI) : Sys2Proof.Laws.OpcodeMap.Statement (.sshr x) := by intro _ _ h; cases h; exact ⟨rfl, rfl⟩
theorem Sys2Proof.Laws.OpcodeMap.ssar (x : RI) : Sys2Proof.Laws.OpcodeMap.Statement (.ssar x) := by intro _ _ h; cases h; exact ⟨rfl, rfl⟩
theorem Sys2Proof.Laws.OpcodeMap.srot (x : RI) : Sys2Proof.Laws.OpcodeMap.Statement (.srot x) := by intro _ _ h; cases h; exact ⟨rfl, rfl⟩
theorem Sys2Proof.Laws.OpcodeMap.smin (x : RI) : Sys2Proof.Laws.OpcodeMap.Statement (.smin x) := by intro _ _ h; cases h; exact ⟨rfl, rfl⟩
theorem Sys2Proof.Laws.OpcodeMap.smax (x : RI) : Sys2Proof.Laws.OpcodeMap.Statement (.smax x) := by intro _ _ h; cases h; exact ⟨rfl, rfl⟩
theorem Sys2Proof.Laws.OpcodeMap.ssel (x : RI) : Sys2Proof.Laws.OpcodeMap.Statement (.ssel x) := by intro _ _ h; cases h; exact ⟨rfl, rfl⟩
theorem Sys2Proof.Laws.OpcodeMap.scmp (x : RI) : Sys2Proof.Laws.OpcodeMap.Statement (.scmp x) := by intro _ _ h; cases h; exact ⟨rfl, rfl⟩
theorem Sys2Proof.Laws.OpcodeMap.smov (x : RI) : Sys2Proof.Laws.OpcodeMap.Statement (.smov x) := by intro _ _ h; cases h; exact ⟨rfl, rfl⟩
theorem Sys2Proof.Laws.OpcodeMap.sli (x : II) : Sys2Proof.Laws.OpcodeMap.Statement (.sli x) := by intro _ _ h; cases h; exact ⟨rfl, rfl⟩
theorem Sys2Proof.Laws.OpcodeMap.spopc (x : RI) : Sys2Proof.Laws.OpcodeMap.Statement (.spopc x) := by intro _ _ h; cases h; exact ⟨rfl, rfl⟩
theorem Sys2Proof.Laws.OpcodeMap.sclz (x : RI) : Sys2Proof.Laws.OpcodeMap.Statement (.sclz x) := by intro _ _ h; cases h; exact ⟨rfl, rfl⟩
theorem Sys2Proof.Laws.OpcodeMap.sbfe (x : RI) : Sys2Proof.Laws.OpcodeMap.Statement (.sbfe x) := by intro _ _ h; cases h; exact ⟨rfl, rfl⟩
theorem Sys2Proof.Laws.OpcodeMap.sbfi (x : RI) : Sys2Proof.Laws.OpcodeMap.Statement (.sbfi x) := by intro _ _ h; cases h; exact ⟨rfl, rfl⟩
theorem Sys2Proof.Laws.OpcodeMap.sadd64 (x : RI) : Sys2Proof.Laws.OpcodeMap.Statement (.sadd64 x) := by intro _ _ h; cases h; exact ⟨rfl, rfl⟩
theorem Sys2Proof.Laws.OpcodeMap.ssub64 (x : RI) : Sys2Proof.Laws.OpcodeMap.Statement (.ssub64 x) := by intro _ _ h; cases h; exact ⟨rfl, rfl⟩
theorem Sys2Proof.Laws.OpcodeMap.slea (x : RI) : Sys2Proof.Laws.OpcodeMap.Statement (.slea x) := by intro _ _ h; cases h; exact ⟨rfl, rfl⟩
theorem Sys2Proof.Laws.OpcodeMap.bra (x : BI) : Sys2Proof.Laws.OpcodeMap.Statement (.bra x) := by intro _ _ h; cases h; exact ⟨rfl, rfl⟩
theorem Sys2Proof.Laws.OpcodeMap.brx (x : BI) : Sys2Proof.Laws.OpcodeMap.Statement (.brx x) := by intro _ _ h; cases h; exact ⟨rfl, rfl⟩
theorem Sys2Proof.Laws.OpcodeMap.bri (x : RI) : Sys2Proof.Laws.OpcodeMap.Statement (.bri x) := by intro _ _ h; cases h; exact ⟨rfl, rfl⟩
theorem Sys2Proof.Laws.OpcodeMap.join (x : BI) : Sys2Proof.Laws.OpcodeMap.Statement (.join x) := by intro _ _ h; cases h; exact ⟨rfl, rfl⟩
theorem Sys2Proof.Laws.OpcodeMap.call (x : BI) : Sys2Proof.Laws.OpcodeMap.Statement (.call x) := by intro _ _ h; cases h; exact ⟨rfl, rfl⟩
theorem Sys2Proof.Laws.OpcodeMap.ret (x : RI) : Sys2Proof.Laws.OpcodeMap.Statement (.ret x) := by intro _ _ h; cases h; exact ⟨rfl, rfl⟩
theorem Sys2Proof.Laws.OpcodeMap.exit (x : RI) : Sys2Proof.Laws.OpcodeMap.Statement (.exit x) := by intro _ _ h; cases h; exact ⟨rfl, rfl⟩
theorem Sys2Proof.Laws.OpcodeMap.yield (x : RI) : Sys2Proof.Laws.OpcodeMap.Statement (.yield x) := by intro _ _ h; cases h; exact ⟨rfl, rfl⟩
theorem Sys2Proof.Laws.OpcodeMap.nop (x : RI) : Sys2Proof.Laws.OpcodeMap.Statement (.nop x) := by intro _ _ h; cases h; exact ⟨rfl, rfl⟩
theorem Sys2Proof.Laws.OpcodeMap.brw (x : BI) : Sys2Proof.Laws.OpcodeMap.Statement (.brw x) := by intro _ _ h; cases h; exact ⟨rfl, rfl⟩
theorem Sys2Proof.Laws.OpcodeMap.wbind (x : RI) : Sys2Proof.Laws.OpcodeMap.Statement (.wbind x) := by intro _ _ h; cases h; exact ⟨rfl, rfl⟩
theorem Sys2Proof.Laws.OpcodeMap.wset (x : RI) : Sys2Proof.Laws.OpcodeMap.Statement (.wset x) := by intro _ _ h; cases h; exact ⟨rfl, rfl⟩
theorem Sys2Proof.Laws.OpcodeMap.wget (x : RI) : Sys2Proof.Laws.OpcodeMap.Statement (.wget x) := by intro _ _ h; cases h; exact ⟨rfl, rfl⟩
theorem Sys2Proof.Laws.OpcodeMap.vadd (x : RI) : Sys2Proof.Laws.OpcodeMap.Statement (.vadd x) := by intro _ _ h; cases h; exact ⟨rfl, rfl⟩
theorem Sys2Proof.Laws.OpcodeMap.vsub (x : RI) : Sys2Proof.Laws.OpcodeMap.Statement (.vsub x) := by intro _ _ h; cases h; exact ⟨rfl, rfl⟩
theorem Sys2Proof.Laws.OpcodeMap.vmul (x : RI) : Sys2Proof.Laws.OpcodeMap.Statement (.vmul x) := by intro _ _ h; cases h; exact ⟨rfl, rfl⟩
theorem Sys2Proof.Laws.OpcodeMap.vmulh (x : RI) : Sys2Proof.Laws.OpcodeMap.Statement (.vmulh x) := by intro _ _ h; cases h; exact ⟨rfl, rfl⟩
theorem Sys2Proof.Laws.OpcodeMap.vmad (x : RI) : Sys2Proof.Laws.OpcodeMap.Statement (.vmad x) := by intro _ _ h; cases h; exact ⟨rfl, rfl⟩
theorem Sys2Proof.Laws.OpcodeMap.vmin (x : RI) : Sys2Proof.Laws.OpcodeMap.Statement (.vmin x) := by intro _ _ h; cases h; exact ⟨rfl, rfl⟩
theorem Sys2Proof.Laws.OpcodeMap.vmax (x : RI) : Sys2Proof.Laws.OpcodeMap.Statement (.vmax x) := by intro _ _ h; cases h; exact ⟨rfl, rfl⟩
theorem Sys2Proof.Laws.OpcodeMap.vabs (x : RI) : Sys2Proof.Laws.OpcodeMap.Statement (.vabs x) := by intro _ _ h; cases h; exact ⟨rfl, rfl⟩
theorem Sys2Proof.Laws.OpcodeMap.vabsd (x : RI) : Sys2Proof.Laws.OpcodeMap.Statement (.vabsd x) := by intro _ _ h; cases h; exact ⟨rfl, rfl⟩
theorem Sys2Proof.Laws.OpcodeMap.vand (x : RI) : Sys2Proof.Laws.OpcodeMap.Statement (.vand x) := by intro _ _ h; cases h; exact ⟨rfl, rfl⟩
theorem Sys2Proof.Laws.OpcodeMap.vor (x : RI) : Sys2Proof.Laws.OpcodeMap.Statement (.vor x) := by intro _ _ h; cases h; exact ⟨rfl, rfl⟩
theorem Sys2Proof.Laws.OpcodeMap.vxor (x : RI) : Sys2Proof.Laws.OpcodeMap.Statement (.vxor x) := by intro _ _ h; cases h; exact ⟨rfl, rfl⟩
theorem Sys2Proof.Laws.OpcodeMap.vandn (x : RI) : Sys2Proof.Laws.OpcodeMap.Statement (.vandn x) := by intro _ _ h; cases h; exact ⟨rfl, rfl⟩
theorem Sys2Proof.Laws.OpcodeMap.vshl (x : RI) : Sys2Proof.Laws.OpcodeMap.Statement (.vshl x) := by intro _ _ h; cases h; exact ⟨rfl, rfl⟩
theorem Sys2Proof.Laws.OpcodeMap.vshr (x : RI) : Sys2Proof.Laws.OpcodeMap.Statement (.vshr x) := by intro _ _ h; cases h; exact ⟨rfl, rfl⟩
theorem Sys2Proof.Laws.OpcodeMap.vsar (x : RI) : Sys2Proof.Laws.OpcodeMap.Statement (.vsar x) := by intro _ _ h; cases h; exact ⟨rfl, rfl⟩
theorem Sys2Proof.Laws.OpcodeMap.vrot (x : RI) : Sys2Proof.Laws.OpcodeMap.Statement (.vrot x) := by intro _ _ h; cases h; exact ⟨rfl, rfl⟩
theorem Sys2Proof.Laws.OpcodeMap.vpopc (x : RI) : Sys2Proof.Laws.OpcodeMap.Statement (.vpopc x) := by intro _ _ h; cases h; exact ⟨rfl, rfl⟩
theorem Sys2Proof.Laws.OpcodeMap.vclz (x : RI) : Sys2Proof.Laws.OpcodeMap.Statement (.vclz x) := by intro _ _ h; cases h; exact ⟨rfl, rfl⟩
theorem Sys2Proof.Laws.OpcodeMap.vbfe (x : RI) : Sys2Proof.Laws.OpcodeMap.Statement (.vbfe x) := by intro _ _ h; cases h; exact ⟨rfl, rfl⟩
theorem Sys2Proof.Laws.OpcodeMap.vbfi (x : RI) : Sys2Proof.Laws.OpcodeMap.Statement (.vbfi x) := by intro _ _ h; cases h; exact ⟨rfl, rfl⟩
theorem Sys2Proof.Laws.OpcodeMap.vsel (x : RI) : Sys2Proof.Laws.OpcodeMap.Statement (.vsel x) := by intro _ _ h; cases h; exact ⟨rfl, rfl⟩
theorem Sys2Proof.Laws.OpcodeMap.vcmp (x : RI) : Sys2Proof.Laws.OpcodeMap.Statement (.vcmp x) := by intro _ _ h; cases h; exact ⟨rfl, rfl⟩
theorem Sys2Proof.Laws.OpcodeMap.vmov (x : RI) : Sys2Proof.Laws.OpcodeMap.Statement (.vmov x) := by intro _ _ h; cases h; exact ⟨rfl, rfl⟩
theorem Sys2Proof.Laws.OpcodeMap.vli (x : II) : Sys2Proof.Laws.OpcodeMap.Statement (.vli x) := by intro _ _ h; cases h; exact ⟨rfl, rfl⟩
theorem Sys2Proof.Laws.OpcodeMap.vdot4 (x : RI) : Sys2Proof.Laws.OpcodeMap.Statement (.vdot4 x) := by intro _ _ h; cases h; exact ⟨rfl, rfl⟩
theorem Sys2Proof.Laws.OpcodeMap.vadd64 (x : RI) : Sys2Proof.Laws.OpcodeMap.Statement (.vadd64 x) := by intro _ _ h; cases h; exact ⟨rfl, rfl⟩
theorem Sys2Proof.Laws.OpcodeMap.vlea (x : RI) : Sys2Proof.Laws.OpcodeMap.Statement (.vlea x) := by intro _ _ h; cases h; exact ⟨rfl, rfl⟩
theorem Sys2Proof.Laws.OpcodeMap.fadd (x : RI) : Sys2Proof.Laws.OpcodeMap.Statement (.fadd x) := by intro _ _ h; cases h; exact ⟨rfl, rfl⟩
theorem Sys2Proof.Laws.OpcodeMap.fsub (x : RI) : Sys2Proof.Laws.OpcodeMap.Statement (.fsub x) := by intro _ _ h; cases h; exact ⟨rfl, rfl⟩
theorem Sys2Proof.Laws.OpcodeMap.fmul (x : RI) : Sys2Proof.Laws.OpcodeMap.Statement (.fmul x) := by intro _ _ h; cases h; exact ⟨rfl, rfl⟩
theorem Sys2Proof.Laws.OpcodeMap.ffma (x : RI) : Sys2Proof.Laws.OpcodeMap.Statement (.ffma x) := by intro _ _ h; cases h; exact ⟨rfl, rfl⟩
theorem Sys2Proof.Laws.OpcodeMap.fmin (x : RI) : Sys2Proof.Laws.OpcodeMap.Statement (.fmin x) := by intro _ _ h; cases h; exact ⟨rfl, rfl⟩
theorem Sys2Proof.Laws.OpcodeMap.fmax (x : RI) : Sys2Proof.Laws.OpcodeMap.Statement (.fmax x) := by intro _ _ h; cases h; exact ⟨rfl, rfl⟩
theorem Sys2Proof.Laws.OpcodeMap.fcmp (x : RI) : Sys2Proof.Laws.OpcodeMap.Statement (.fcmp x) := by intro _ _ h; cases h; exact ⟨rfl, rfl⟩
theorem Sys2Proof.Laws.OpcodeMap.frcp (x : RI) : Sys2Proof.Laws.OpcodeMap.Statement (.frcp x) := by intro _ _ h; cases h; exact ⟨rfl, rfl⟩
theorem Sys2Proof.Laws.OpcodeMap.frsq (x : RI) : Sys2Proof.Laws.OpcodeMap.Statement (.frsq x) := by intro _ _ h; cases h; exact ⟨rfl, rfl⟩
theorem Sys2Proof.Laws.OpcodeMap.fsqrt (x : RI) : Sys2Proof.Laws.OpcodeMap.Statement (.fsqrt x) := by intro _ _ h; cases h; exact ⟨rfl, rfl⟩
theorem Sys2Proof.Laws.OpcodeMap.fexp2 (x : RI) : Sys2Proof.Laws.OpcodeMap.Statement (.fexp2 x) := by intro _ _ h; cases h; exact ⟨rfl, rfl⟩
theorem Sys2Proof.Laws.OpcodeMap.flog2 (x : RI) : Sys2Proof.Laws.OpcodeMap.Statement (.flog2 x) := by intro _ _ h; cases h; exact ⟨rfl, rfl⟩
theorem Sys2Proof.Laws.OpcodeMap.fsin (x : RI) : Sys2Proof.Laws.OpcodeMap.Statement (.fsin x) := by intro _ _ h; cases h; exact ⟨rfl, rfl⟩
theorem Sys2Proof.Laws.OpcodeMap.fcos (x : RI) : Sys2Proof.Laws.OpcodeMap.Statement (.fcos x) := by intro _ _ h; cases h; exact ⟨rfl, rfl⟩
theorem Sys2Proof.Laws.OpcodeMap.ftanh (x : RI) : Sys2Proof.Laws.OpcodeMap.Statement (.ftanh x) := by intro _ _ h; cases h; exact ⟨rfl, rfl⟩
theorem Sys2Proof.Laws.OpcodeMap.frnd (x : RI) : Sys2Proof.Laws.OpcodeMap.Statement (.frnd x) := by intro _ _ h; cases h; exact ⟨rfl, rfl⟩
theorem Sys2Proof.Laws.OpcodeMap.fclass (x : RI) : Sys2Proof.Laws.OpcodeMap.Statement (.fclass x) := by intro _ _ h; cases h; exact ⟨rfl, rfl⟩
theorem Sys2Proof.Laws.OpcodeMap.fscale (x : RI) : Sys2Proof.Laws.OpcodeMap.Statement (.fscale x) := by intro _ _ h; cases h; exact ⟨rfl, rfl⟩
theorem Sys2Proof.Laws.OpcodeMap.cvt (x : RI) : Sys2Proof.Laws.OpcodeMap.Statement (.cvt x) := by intro _ _ h; cases h; exact ⟨rfl, rfl⟩
theorem Sys2Proof.Laws.OpcodeMap.cvtb (x : RI) : Sys2Proof.Laws.OpcodeMap.Statement (.cvtb x) := by intro _ _ h; cases h; exact ⟨rfl, rfl⟩
theorem Sys2Proof.Laws.OpcodeMap.pack (x : RI) : Sys2Proof.Laws.OpcodeMap.Statement (.pack x) := by intro _ _ h; cases h; exact ⟨rfl, rfl⟩
theorem Sys2Proof.Laws.OpcodeMap.unpk (x : RI) : Sys2Proof.Laws.OpcodeMap.Statement (.unpk x) := by intro _ _ h; cases h; exact ⟨rfl, rfl⟩
theorem Sys2Proof.Laws.OpcodeMap.fdot2 (x : RI) : Sys2Proof.Laws.OpcodeMap.Statement (.fdot2 x) := by intro _ _ h; cases h; exact ⟨rfl, rfl⟩
theorem Sys2Proof.Laws.OpcodeMap.shfl (x : RI) : Sys2Proof.Laws.OpcodeMap.Statement (.shfl x) := by intro _ _ h; cases h; exact ⟨rfl, rfl⟩
theorem Sys2Proof.Laws.OpcodeMap.qswz (x : RI) : Sys2Proof.Laws.OpcodeMap.Statement (.qswz x) := by intro _ _ h; cases h; exact ⟨rfl, rfl⟩
theorem Sys2Proof.Laws.OpcodeMap.vote (x : RI) : Sys2Proof.Laws.OpcodeMap.Statement (.vote x) := by intro _ _ h; cases h; exact ⟨rfl, rfl⟩
theorem Sys2Proof.Laws.OpcodeMap.matchEq (x : RI) : Sys2Proof.Laws.OpcodeMap.Statement (.matchEq x) := by intro _ _ h; cases h; exact ⟨rfl, rfl⟩
theorem Sys2Proof.Laws.OpcodeMap.elect (x : RI) : Sys2Proof.Laws.OpcodeMap.Statement (.elect x) := by intro _ _ h; cases h; exact ⟨rfl, rfl⟩
theorem Sys2Proof.Laws.OpcodeMap.redx (x : RI) : Sys2Proof.Laws.OpcodeMap.Statement (.redx x) := by intro _ _ h; cases h; exact ⟨rfl, rfl⟩
theorem Sys2Proof.Laws.OpcodeMap.scanx (x : RI) : Sys2Proof.Laws.OpcodeMap.Statement (.scanx x) := by intro _ _ h; cases h; exact ⟨rfl, rfl⟩
theorem Sys2Proof.Laws.OpcodeMap.help (x : RI) : Sys2Proof.Laws.OpcodeMap.Statement (.help x) := by intro _ _ h; cases h; exact ⟨rfl, rfl⟩
theorem Sys2Proof.Laws.OpcodeMap.mask (x : RI) : Sys2Proof.Laws.OpcodeMap.Statement (.mask x) := by intro _ _ h; cases h; exact ⟨rfl, rfl⟩
theorem Sys2Proof.Laws.OpcodeMap.bara (x : RI) : Sys2Proof.Laws.OpcodeMap.Statement (.bara x) := by intro _ _ h; cases h; exact ⟨rfl, rfl⟩
theorem Sys2Proof.Laws.OpcodeMap.barw (x : RI) : Sys2Proof.Laws.OpcodeMap.Statement (.barw x) := by intro _ _ h; cases h; exact ⟨rfl, rfl⟩
theorem Sys2Proof.Laws.OpcodeMap.bars (x : RI) : Sys2Proof.Laws.OpcodeMap.Statement (.bars x) := by intro _ _ h; cases h; exact ⟨rfl, rfl⟩
theorem Sys2Proof.Laws.OpcodeMap.bard (x : RI) : Sys2Proof.Laws.OpcodeMap.Statement (.bard x) := by intro _ _ h; cases h; exact ⟨rfl, rfl⟩
theorem Sys2Proof.Laws.OpcodeMap.barj (x : RI) : Sys2Proof.Laws.OpcodeMap.Statement (.barj x) := by intro _ _ h; cases h; exact ⟨rfl, rfl⟩
theorem Sys2Proof.Laws.OpcodeMap.bart (x : RI) : Sys2Proof.Laws.OpcodeMap.Statement (.bart x) := by intro _ _ h; cases h; exact ⟨rfl, rfl⟩
theorem Sys2Proof.Laws.OpcodeMap.ld (x : MI) : Sys2Proof.Laws.OpcodeMap.Statement (.ld x) := by intro _ _ h; cases h; exact ⟨rfl, rfl⟩
theorem Sys2Proof.Laws.OpcodeMap.st (x : MI) : Sys2Proof.Laws.OpcodeMap.Statement (.st x) := by intro _ _ h; cases h; exact ⟨rfl, rfl⟩
theorem Sys2Proof.Laws.OpcodeMap.ldf (x : EI) : Sys2Proof.Laws.OpcodeMap.Statement (.ldf x) := by intro _ _ h; cases h; exact ⟨rfl, rfl⟩
theorem Sys2Proof.Laws.OpcodeMap.atomArith (x : MI) : Sys2Proof.Laws.OpcodeMap.Statement (.atomArith x) := by intro _ _ h; cases h; exact ⟨rfl, rfl⟩
theorem Sys2Proof.Laws.OpcodeMap.atomBitwise (x : MI) : Sys2Proof.Laws.OpcodeMap.Statement (.atomBitwise x) := by intro _ _ h; cases h; exact ⟨rfl, rfl⟩
theorem Sys2Proof.Laws.OpcodeMap.redArith (x : MI) : Sys2Proof.Laws.OpcodeMap.Statement (.redArith x) := by intro _ _ h; cases h; exact ⟨rfl, rfl⟩
theorem Sys2Proof.Laws.OpcodeMap.redBitwise (x : MI) : Sys2Proof.Laws.OpcodeMap.Statement (.redBitwise x) := by intro _ _ h; cases h; exact ⟨rfl, rfl⟩
theorem Sys2Proof.Laws.OpcodeMap.pref (x : MI) : Sys2Proof.Laws.OpcodeMap.Statement (.pref x) := by intro _ _ h; cases h; exact ⟨rfl, rfl⟩
theorem Sys2Proof.Laws.OpcodeMap.cctl (x : MI) : Sys2Proof.Laws.OpcodeMap.Statement (.cctl x) := by intro _ _ h; cases h; exact ⟨rfl, rfl⟩
theorem Sys2Proof.Laws.OpcodeMap.fence (x : MI) : Sys2Proof.Laws.OpcodeMap.Statement (.fence x) := by intro _ _ h; cases h; exact ⟨rfl, rfl⟩
theorem Sys2Proof.Laws.OpcodeMap.twin (x : RI) : Sys2Proof.Laws.OpcodeMap.Statement (.twin x) := by intro _ _ h; cases h; exact ⟨rfl, rfl⟩
theorem Sys2Proof.Laws.OpcodeMap.setc (x : MI) : Sys2Proof.Laws.OpcodeMap.Statement (.setc x) := by intro _ _ h; cases h; exact ⟨rfl, rfl⟩
theorem Sys2Proof.Laws.OpcodeMap.waitc (x : MI) : Sys2Proof.Laws.OpcodeMap.Statement (.waitc x) := by intro _ _ h; cases h; exact ⟨rfl, rfl⟩
theorem Sys2Proof.Laws.OpcodeMap.testc (x : MI) : Sys2Proof.Laws.OpcodeMap.Statement (.testc x) := by intro _ _ h; cases h; exact ⟨rfl, rfl⟩
theorem Sys2Proof.Laws.OpcodeMap.put (x : EI) : Sys2Proof.Laws.OpcodeMap.Statement (.put x) := by intro _ _ h; cases h; exact ⟨rfl, rfl⟩
theorem Sys2Proof.Laws.OpcodeMap.puts (x : EI) : Sys2Proof.Laws.OpcodeMap.Statement (.puts x) := by intro _ _ h; cases h; exact ⟨rfl, rfl⟩
theorem Sys2Proof.Laws.OpcodeMap.get (x : EI) : Sys2Proof.Laws.OpcodeMap.Statement (.get x) := by intro _ _ h; cases h; exact ⟨rfl, rfl⟩
theorem Sys2Proof.Laws.OpcodeMap.radd (x : EI) : Sys2Proof.Laws.OpcodeMap.Statement (.radd x) := by intro _ _ h; cases h; exact ⟨rfl, rfl⟩
theorem Sys2Proof.Laws.OpcodeMap.notify (x : EI) : Sys2Proof.Laws.OpcodeMap.Statement (.notify x) := by intro _ _ h; cases h; exact ⟨rfl, rfl⟩
theorem Sys2Proof.Laws.OpcodeMap.waitn (x : RI) : Sys2Proof.Laws.OpcodeMap.Statement (.waitn x) := by intro _ _ h; cases h; exact ⟨rfl, rfl⟩
theorem Sys2Proof.Laws.OpcodeMap.testn (x : RI) : Sys2Proof.Laws.OpcodeMap.Statement (.testn x) := by intro _ _ h; cases h; exact ⟨rfl, rfl⟩
theorem Sys2Proof.Laws.OpcodeMap.rfence (x : RI) : Sys2Proof.Laws.OpcodeMap.Statement (.rfence x) := by intro _ _ h; cases h; exact ⟨rfl, rfl⟩
theorem Sys2Proof.Laws.OpcodeMap.mma (x : EI) : Sys2Proof.Laws.OpcodeMap.Statement (.mma x) := by intro _ _ h; cases h; exact ⟨rfl, rfl⟩
theorem Sys2Proof.Laws.OpcodeMap.aclr (x : EI) : Sys2Proof.Laws.OpcodeMap.Statement (.aclr x) := by intro _ _ h; cases h; exact ⟨rfl, rfl⟩
theorem Sys2Proof.Laws.OpcodeMap.ald (x : EI) : Sys2Proof.Laws.OpcodeMap.Statement (.ald x) := by intro _ _ h; cases h; exact ⟨rfl, rfl⟩
theorem Sys2Proof.Laws.OpcodeMap.adrn (x : EI) : Sys2Proof.Laws.OpcodeMap.Statement (.adrn x) := by intro _ _ h; cases h; exact ⟨rfl, rfl⟩
theorem Sys2Proof.Laws.OpcodeMap.setfb (x : RI) : Sys2Proof.Laws.OpcodeMap.Statement (.setfb x) := by intro _ _ h; cases h; exact ⟨rfl, rfl⟩
theorem Sys2Proof.Laws.OpcodeMap.kick (x : RI) : Sys2Proof.Laws.OpcodeMap.Statement (.kick x) := by intro _ _ h; cases h; exact ⟨rfl, rfl⟩
theorem Sys2Proof.Laws.OpcodeMap.trap (x : II) : Sys2Proof.Laws.OpcodeMap.Statement (.trap x) := by intro _ _ h; cases h; exact ⟨rfl, rfl⟩
theorem Sys2Proof.Laws.OpcodeMap.rett (x : RI) : Sys2Proof.Laws.OpcodeMap.Statement (.rett x) := by intro _ _ h; cases h; exact ⟨rfl, rfl⟩
theorem Sys2Proof.Laws.OpcodeMap.sysrd (x : II) : Sys2Proof.Laws.OpcodeMap.Statement (.sysrd x) := by intro _ _ h; cases h; exact ⟨rfl, rfl⟩
theorem Sys2Proof.Laws.OpcodeMap.syswr (x : II) : Sys2Proof.Laws.OpcodeMap.Statement (.syswr x) := by intro _ _ h; cases h; exact ⟨rfl, rfl⟩
theorem Sys2Proof.Laws.OpcodeMap.bkpt (x : II) : Sys2Proof.Laws.OpcodeMap.Statement (.bkpt x) := by intro _ _ h; cases h; exact ⟨rfl, rfl⟩
theorem Sys2Proof.Laws.OpcodeMap.poolpop (x : RI) : Sys2Proof.Laws.OpcodeMap.Statement (.poolpop x) := by intro _ _ h; cases h; exact ⟨rfl, rfl⟩
theorem Sys2Proof.Laws.OpcodeMap.poolpush (x : RI) : Sys2Proof.Laws.OpcodeMap.Statement (.poolpush x) := by intro _ _ h; cases h; exact ⟨rfl, rfl⟩
theorem Sys2Proof.Laws.OpcodeMap.evpop (x : RI) : Sys2Proof.Laws.OpcodeMap.Statement (.evpop x) := by intro _ _ h; cases h; exact ⟨rfl, rfl⟩
theorem Sys2Proof.Laws.OpcodeMap.evwait (x : RI) : Sys2Proof.Laws.OpcodeMap.Statement (.evwait x) := by intro _ _ h; cases h; exact ⟨rfl, rfl⟩
theorem Sys2Proof.Laws.OpcodeMap.tlaunch (x : RI) : Sys2Proof.Laws.OpcodeMap.Statement (.tlaunch x) := by intro _ _ h; cases h; exact ⟨rfl, rfl⟩
theorem Sys2Proof.Laws.OpcodeMap.halt (x : RI) : Sys2Proof.Laws.OpcodeMap.Statement (.halt x) := by intro _ _ h; cases h; exact ⟨rfl, rfl⟩
theorem Sys2Proof.Laws.OpcodeMap.idle (x : RI) : Sys2Proof.Laws.OpcodeMap.Statement (.idle x) := by intro _ _ h; cases h; exact ⟨rfl, rfl⟩
theorem Sys2Proof.Laws.OpcodeMap.clauseHeader (h : Header) : Sys2Proof.Laws.OpcodeMap.Statement (.clauseHeader h) := by intro _ _ h; cases h
theorem Sys2Proof.Laws.OpcodeMap.handlerEntry (core entry : Nat) : Sys2Proof.Laws.OpcodeMap.Statement (.handlerEntry core entry) := by intro _ _ h; cases h
theorem Sys2Proof.Laws.OpcodeMap.fragmentWake (a : Agent) : Sys2Proof.Laws.OpcodeMap.Statement (.fragmentWake a) := by intro _ _ h; cases h
theorem Sys2Proof.Laws.OpcodeMap.longLatencyComplete (crew op : Nat) : Sys2Proof.Laws.OpcodeMap.Statement (.longLatencyComplete crew op) := by intro _ _ h; cases h
theorem Sys2Proof.Laws.OpcodeMap.gangFree (gang : Nat) : Sys2Proof.Laws.OpcodeMap.Statement (.gangFree gang) := by intro _ _ h; cases h
theorem Sys2Proof.Laws.OpcodeMap.launch (q : Nat) : Sys2Proof.Laws.OpcodeMap.Statement (.launch q) := by intro _ _ h; cases h
theorem Sys2Proof.Laws.OpcodeMap.wait (q : Nat) : Sys2Proof.Laws.OpcodeMap.Statement (.wait q) := by intro _ _ h; cases h
theorem Sys2Proof.Laws.OpcodeMap.notifyCommand (q : Nat) : Sys2Proof.Laws.OpcodeMap.Statement (.notifyCommand q) := by intro _ _ h; cases h
theorem Sys2Proof.Laws.OpcodeMap.copy (q : Nat) : Sys2Proof.Laws.OpcodeMap.Statement (.copy q) := by intro _ _ h; cases h
theorem Sys2Proof.Laws.OpcodeMap.mark (q : Nat) : Sys2Proof.Laws.OpcodeMap.Statement (.mark q) := by intro _ _ h; cases h
theorem Sys2Proof.Laws.OpcodeMap.queueDoorbell (q : Nat) (v : W64) : Sys2Proof.Laws.OpcodeMap.Statement (.queueDoorbell q v) := by intro _ _ h; cases h
theorem Sys2Proof.Laws.OpcodeMap.queueControlWrite (q : Nat) (v : W64) : Sys2Proof.Laws.OpcodeMap.Statement (.queueControlWrite q v) := by intro _ _ h; cases h
theorem Sys2Proof.Laws.OpcodeMap.queueBaseWrite (q : Nat) (v : W64) : Sys2Proof.Laws.OpcodeMap.Statement (.queueBaseWrite q v) := by intro _ _ h; cases h
theorem Sys2Proof.Laws.OpcodeMap.taskEnterWindow (isl : Nat) : Sys2Proof.Laws.OpcodeMap.Statement (.taskEnterWindow isl) := by intro _ _ h; cases h
theorem Sys2Proof.Laws.OpcodeMap.taskReady (isl task : Nat) : Sys2Proof.Laws.OpcodeMap.Statement (.taskReady isl task) := by intro _ _ h; cases h
theorem Sys2Proof.Laws.OpcodeMap.gangPlace (isl task : Nat) : Sys2Proof.Laws.OpcodeMap.Statement (.gangPlace isl task) := by intro _ _ h; cases h
theorem Sys2Proof.Laws.OpcodeMap.precinctHalt (p : Nat) : Sys2Proof.Laws.OpcodeMap.Statement (.precinctHalt p) := by intro _ _ h; cases h
theorem Sys2Proof.Laws.OpcodeMap.haltComplete (p : Nat) : Sys2Proof.Laws.OpcodeMap.Statement (.haltComplete p) := by intro _ _ h; cases h
theorem Sys2Proof.Laws.OpcodeMap.resume (p : Nat) : Sys2Proof.Laws.OpcodeMap.Statement (.resume p) := by intro _ _ h; cases h
theorem Sys2Proof.Laws.OpcodeMap.exchange (p : Nat) : Sys2Proof.Laws.OpcodeMap.Statement (.exchange p) := by intro _ _ h; cases h
theorem Sys2Proof.Laws.OpcodeMap.exchangeComplete (p : Nat) : Sys2Proof.Laws.OpcodeMap.Statement (.exchangeComplete p) := by intro _ _ h; cases h
theorem Sys2Proof.Laws.OpcodeMap.abort (p : Nat) (tag : W32) : Sys2Proof.Laws.OpcodeMap.Statement (.abort p tag) := by intro _ _ h; cases h
theorem Sys2Proof.Laws.OpcodeMap.abortComplete (p : Nat) (tag : W32) : Sys2Proof.Laws.OpcodeMap.Statement (.abortComplete p tag) := by intro _ _ h; cases h
theorem Sys2Proof.Laws.OpcodeMap.release (p core slot : Nat) : Sys2Proof.Laws.OpcodeMap.Statement (.release p core slot) := by intro _ _ h; cases h
theorem Sys2Proof.Laws.OpcodeMap.wake (p cl : Nat) (threads : BitVec 4) : Sys2Proof.Laws.OpcodeMap.Statement (.wake p cl threads) := by intro _ _ h; cases h
theorem Sys2Proof.Laws.OpcodeMap.armbpClear (p : Nat) : Sys2Proof.Laws.OpcodeMap.Statement (.armbpClear p) := by intro _ _ h; cases h
theorem Sys2Proof.Laws.OpcodeMap.debugHalt (isl : Nat) : Sys2Proof.Laws.OpcodeMap.Statement (.debugHalt isl) := by intro _ _ h; cases h
theorem Sys2Proof.Laws.OpcodeMap.debugHaltClear (isl : Nat) : Sys2Proof.Laws.OpcodeMap.Statement (.debugHaltClear isl) := by intro _ _ h; cases h
theorem Sys2Proof.Laws.OpcodeMap.precinctCreate (p : Nat) (v : W64) : Sys2Proof.Laws.OpcodeMap.Statement (.precinctCreate p v) := by intro _ _ h; cases h
theorem Sys2Proof.Laws.OpcodeMap.precinctFree (p : Nat) : Sys2Proof.Laws.OpcodeMap.Statement (.precinctFree p) := by intro _ _ h; cases h
theorem Sys2Proof.Laws.OpcodeMap.poolDoorbell (p : Nat) : Sys2Proof.Laws.OpcodeMap.Statement (.poolDoorbell p) := by intro _ _ h; cases h
theorem Sys2Proof.Laws.OpcodeMap.pfpoolWrite (p : Nat) (v : W64) : Sys2Proof.Laws.OpcodeMap.Statement (.pfpoolWrite p v) := by intro _ _ h; cases h
theorem Sys2Proof.Laws.OpcodeMap.contextCreate (p : Nat) : Sys2Proof.Laws.OpcodeMap.Statement (.contextCreate p) := by intro _ _ h; cases h
theorem Sys2Proof.Laws.OpcodeMap.contextUpdate (p : Nat) : Sys2Proof.Laws.OpcodeMap.Statement (.contextUpdate p) := by intro _ _ h; cases h
theorem Sys2Proof.Laws.OpcodeMap.contextDestroy (p : Nat) (spn : BitVec 12) : Sys2Proof.Laws.OpcodeMap.Statement (.contextDestroy p spn) := by intro _ _ h; cases h
theorem Sys2Proof.Laws.OpcodeMap.hostPageOwnerChange (v : W64) : Sys2Proof.Laws.OpcodeMap.Statement (.hostPageOwnerChange v) := by intro _ _ h; cases h
theorem Sys2Proof.Laws.OpcodeMap.pwrcapWrite (v : W64) : Sys2Proof.Laws.OpcodeMap.Statement (.pwrcapWrite v) := by intro _ _ h; cases h
theorem Sys2Proof.Laws.OpcodeMap.steerWrite (isl port : Nat) (v : W64) : Sys2Proof.Laws.OpcodeMap.Statement (.steerWrite isl port v) := by intro _ _ h; cases h
theorem Sys2Proof.Laws.OpcodeMap.chartWrite (isl e : Nat) (v : W64) : Sys2Proof.Laws.OpcodeMap.Statement (.chartWrite isl e v) := by intro _ _ h; cases h
theorem Sys2Proof.Laws.OpcodeMap.peerEntryWrite (isl off : Nat) (v : W64) : Sys2Proof.Laws.OpcodeMap.Statement (.peerEntryWrite isl off v) := by intro _ _ h; cases h
theorem Sys2Proof.Laws.OpcodeMap.colourFaultClear (isl colour : Nat) : Sys2Proof.Laws.OpcodeMap.Statement (.colourFaultClear isl colour) := by intro _ _ h; cases h
theorem Sys2Proof.Laws.OpcodeMap.counterClear (core k : Nat) : Sys2Proof.Laws.OpcodeMap.Statement (.counterClear core k) := by intro _ _ h; cases h
theorem Sys2Proof.Laws.OpcodeMap.registerWrite (off : Nat) (v : W64) : Sys2Proof.Laws.OpcodeMap.Statement (.registerWrite off v) := by intro _ _ h; cases h
theorem Sys2Proof.Laws.OpcodeMap.moduleReset (plan : BootPlan) : Sys2Proof.Laws.OpcodeMap.Statement (.moduleReset plan) := by intro _ _ h; cases h
theorem Sys2Proof.Laws.OpcodeMap.bootAttemptFailed (reason : BitVec 8) (plan : BootPlan) : Sys2Proof.Laws.OpcodeMap.Statement (.bootAttemptFailed reason plan) := by intro _ _ h; cases h
theorem Sys2Proof.Laws.OpcodeMap.thermalLimit (isl deg : Nat) : Sys2Proof.Laws.OpcodeMap.Statement (.thermalLimit isl deg) := by intro _ _ h; cases h
theorem Sys2Proof.Laws.OpcodeMap.powerShareAdjust (isl draw : Nat) : Sys2Proof.Laws.OpcodeMap.Statement (.powerShareAdjust isl draw) := by intro _ _ h; cases h
theorem Sys2Proof.Laws.OpcodeMap.getCertificate (off len : Nat) : Sys2Proof.Laws.OpcodeMap.Statement (.getCertificate off len) := by intro _ _ h; cases h
theorem Sys2Proof.Laws.OpcodeMap.challenge (nonce : BitVec 256) : Sys2Proof.Laws.OpcodeMap.Statement (.challenge nonce) := by intro _ _ h; cases h
theorem Sys2Proof.Laws.OpcodeMap.getMeasurements (index : Nat) : Sys2Proof.Laws.OpcodeMap.Statement (.getMeasurements index) := by intro _ _ h; cases h
theorem Sys2Proof.Laws.OpcodeMap.walk (isl tlb : Nat) (spn : BitVec 12) (va : W64) (k : AKind) (sup : Bool) : Sys2Proof.Laws.OpcodeMap.Statement (.walk isl tlb spn va k sup) := by intro _ _ h; cases h
theorem Sys2Proof.Laws.OpcodeMap.tinv (isl tlb line : Nat) : Sys2Proof.Laws.OpcodeMap.Statement (.tinv isl tlb line) := by intro _ _ h; cases h
theorem Sys2Proof.Laws.OpcodeMap.tack (isl tlb line : Nat) : Sys2Proof.Laws.OpcodeMap.Statement (.tack isl tlb line) := by intro _ _ h; cases h
theorem Sys2Proof.Laws.OpcodeMap.homeRequest (req : Nat) : Sys2Proof.Laws.OpcodeMap.Statement (.homeRequest req) := by intro _ _ h; cases h
theorem Sys2Proof.Laws.OpcodeMap.forward (isl line holder : Nat) (k : FwdKind) : Sys2Proof.Laws.OpcodeMap.Statement (.forward isl line holder k) := by intro _ _ h; cases h
theorem Sys2Proof.Laws.OpcodeMap.tokenArrival (isl line : Nat) (dest : TokDest) (n : Nat) (owner : Bool) : Sys2Proof.Laws.OpcodeMap.Statement (.tokenArrival isl line dest n owner) := by intro _ _ h; cases h
theorem Sys2Proof.Laws.OpcodeMap.lineEviction (isl agent line : Nat) : Sys2Proof.Laws.OpcodeMap.Statement (.lineEviction isl agent line) := by intro _ _ h; cases h
theorem Sys2Proof.Laws.OpcodeMap.requestRetry (req : Nat) : Sys2Proof.Laws.OpcodeMap.Statement (.requestRetry req) := by intro _ _ h; cases h
theorem Sys2Proof.Laws.OpcodeMap.persistentRequest (req : Nat) : Sys2Proof.Laws.OpcodeMap.Statement (.persistentRequest req) := by intro _ _ h; cases h
theorem Sys2Proof.Laws.OpcodeMap.persistentDeactivate (req : Nat) : Sys2Proof.Laws.OpcodeMap.Statement (.persistentDeactivate req) := by intro _ _ h; cases h
theorem Sys2Proof.Laws.OpcodeMap.hotLineReplicate (isl line : Nat) : Sys2Proof.Laws.OpcodeMap.Statement (.hotLineReplicate isl line) := by intro _ _ h; cases h
theorem Sys2Proof.Laws.OpcodeMap.hostMemrd (off : Nat) (snp : Snp) : Sys2Proof.Laws.OpcodeMap.Statement (.hostMemrd off snp) := by intro _ _ h; cases h
theorem Sys2Proof.Laws.OpcodeMap.hostMemwr (off : Nat) (mv : HS) (mask : W64) (data : List Byte) : Sys2Proof.Laws.OpcodeMap.Statement (.hostMemwr off mv mask data) := by intro _ _ h; cases h
theorem Sys2Proof.Laws.OpcodeMap.hostMeminv (off : Nat) (mv : HS) : Sys2Proof.Laws.OpcodeMap.Statement (.hostMeminv off mv) := by intro _ _ h; cases h
theorem Sys2Proof.Laws.OpcodeMap.hostMemspecrd (off : Nat) : Sys2Proof.Laws.OpcodeMap.Statement (.hostMemspecrd off) := by intro _ _ h; cases h
theorem Sys2Proof.Laws.OpcodeMap.hostM2sUnsupported (opcode : Nat) : Sys2Proof.Laws.OpcodeMap.Statement (.hostM2sUnsupported opcode) := by intro _ _ h; cases h
theorem Sys2Proof.Laws.OpcodeMap.bisnpResponse (isl line half : Nat) (data : Option (List Byte)) : Sys2Proof.Laws.OpcodeMap.Statement (.bisnpResponse isl line half data) := by intro _ _ h; cases h
theorem Sys2Proof.Laws.OpcodeMap.biConflict (isl line half : Nat) : Sys2Proof.Laws.OpcodeMap.Statement (.biConflict isl line half) := by intro _ _ h; cases h
theorem Sys2Proof.Laws.OpcodeMap.hostSnoop (isl line half : Nat) (inv : Bool) : Sys2Proof.Laws.OpcodeMap.Statement (.hostSnoop isl line half inv) := by intro _ _ h; cases h
theorem Sys2Proof.Laws.OpcodeMap.cxlCacheResponse (lk half : Nat) (own : Bool) (data : List Byte) : Sys2Proof.Laws.OpcodeMap.Statement (.cxlCacheResponse lk half own data) := by intro _ _ h; cases h
theorem Sys2Proof.Laws.OpcodeMap.tenderRequestStart (core : Nat) : Sys2Proof.Laws.OpcodeMap.Statement (.tenderRequestStart core) := by intro _ _ h; cases h
theorem Sys2Proof.Laws.OpcodeMap.tenderGranuleDone (core req k : Nat) : Sys2Proof.Laws.OpcodeMap.Statement (.tenderGranuleDone core req k) := by intro _ _ h; cases h
theorem Sys2Proof.Laws.OpcodeMap.peqPost (cl : Nat) : Sys2Proof.Laws.OpcodeMap.Statement (.peqPost cl) := by intro _ _ h; cases h
theorem Sys2Proof.Laws.OpcodeMap.islandOpLocalComplete (op : Nat) : Sys2Proof.Laws.OpcodeMap.Statement (.islandOpLocalComplete op) := by intro _ _ h; cases h
theorem Sys2Proof.Laws.OpcodeMap.islandOpArrival (isl n : Nat) : Sys2Proof.Laws.OpcodeMap.Statement (.islandOpArrival isl n) := by intro _ _ h; cases h
theorem Sys2Proof.Laws.OpcodeMap.heldArrivalPlace (isl n : Nat) : Sys2Proof.Laws.OpcodeMap.Statement (.heldArrivalPlace isl n) := by intro _ _ h; cases h
theorem Sys2Proof.Laws.OpcodeMap.positiveAcknowledgement (op : Nat) : Sys2Proof.Laws.OpcodeMap.Statement (.positiveAcknowledgement op) := by intro _ _ h; cases h
theorem Sys2Proof.Laws.OpcodeMap.negativeAcknowledgement (op : Nat) (cause : Byte) : Sys2Proof.Laws.OpcodeMap.Statement (.negativeAcknowledgement op cause) := by intro _ _ h; cases h
theorem Sys2Proof.Laws.OpcodeMap.getReply (op ofs : Nat) (data : List Byte) (last : Bool) : Sys2Proof.Laws.OpcodeMap.Statement (.getReply op ofs data last) := by intro _ _ h; cases h
theorem Sys2Proof.Laws.OpcodeMap.flitReceive (isl port : Nat) (f : Flit) : Sys2Proof.Laws.OpcodeMap.Statement (.flitReceive isl port f) := by intro _ _ h; cases h
theorem Sys2Proof.Laws.OpcodeMap.repeatRequest (isl port seq : Nat) : Sys2Proof.Laws.OpcodeMap.Statement (.repeatRequest isl port seq) := by intro _ _ h; cases h
theorem Sys2Proof.Laws.OpcodeMap.linkAcknowledgement (isl port seq : Nat) : Sys2Proof.Laws.OpcodeMap.Statement (.linkAcknowledgement isl port seq) := by intro _ _ h; cases h
theorem Sys2Proof.Laws.OpcodeMap.resendTimeout (isl port seq : Nat) : Sys2Proof.Laws.OpcodeMap.Statement (.resendTimeout isl port seq) := by intro _ _ h; cases h
theorem Sys2Proof.Laws.OpcodeMap.linkDown (isl port : Nat) : Sys2Proof.Laws.OpcodeMap.Statement (.linkDown isl port) := by intro _ _ h; cases h
theorem Sys2Proof.Laws.OpcodeMap.linkUp (isl port : Nat) : Sys2Proof.Laws.OpcodeMap.Statement (.linkUp isl port) := by intro _ _ h; cases h
theorem Sys2Proof.Laws.OpcodeMap.operationTimeout (isl n : Nat) : Sys2Proof.Laws.OpcodeMap.Statement (.operationTimeout isl n) := by intro _ _ h; cases h
theorem Sys2Proof.Laws.OpcodeMap.creditReturn (isl dst cls : Nat) : Sys2Proof.Laws.OpcodeMap.Statement (.creditReturn isl dst cls) := by intro _ _ h; cases h
theorem Sys2Proof.Laws.OpcodeMap.steerWindow (isl : Nat) : Sys2Proof.Laws.OpcodeMap.Statement (.steerWindow isl) := by intro _ _ h; cases h
theorem Sys2Proof.Laws.OpcodeMap.quadratureAlarm (isl colour : Nat) (phase : BitVec 8) : Sys2Proof.Laws.OpcodeMap.Statement (.quadratureAlarm isl colour phase) := by intro _ _ h; cases h
theorem Sys2Proof.Laws.OpcodeMap.colourRecover (isl colour : Nat) : Sys2Proof.Laws.OpcodeMap.Statement (.colourRecover isl colour) := by intro _ _ h; cases h
theorem Sys2Proof.Laws.OpcodeMap.circuitRetry (isl task : Nat) : Sys2Proof.Laws.OpcodeMap.Statement (.circuitRetry isl task) := by intro _ _ h; cases h
theorem Sys2Proof.Laws.OpcodeMap.uePacketReceive (isl ep : Nat) (p : UePacket) : Sys2Proof.Laws.OpcodeMap.Statement (.uePacketReceive isl ep p) := by intro _ _ h; cases h
theorem Sys2Proof.Laws.OpcodeMap.uePacketAbandon (op : Nat) : Sys2Proof.Laws.OpcodeMap.Statement (.uePacketAbandon op) := by intro _ _ h; cases h
theorem Sys2Proof.Laws.OpcodeMap.steeringMessage (isl port : Nat) (m : SteerMsg) : Sys2Proof.Laws.OpcodeMap.Statement (.steeringMessage isl port m) := by intro _ _ h; cases h
theorem Sys2Proof.Laws.OpcodeMap.getVersion : Sys2Proof.Laws.OpcodeMap.Statement (.getVersion) := by intro _ _ h; cases h
theorem Sys2Proof.Laws.OpcodeMap.getCapabilities : Sys2Proof.Laws.OpcodeMap.Statement (.getCapabilities) := by intro _ _ h; cases h
theorem Sys2Proof.Laws.OpcodeMap.negotiateAlgorithms : Sys2Proof.Laws.OpcodeMap.Statement (.negotiateAlgorithms) := by intro _ _ h; cases h
theorem Sys2Proof.Laws.OpcodeMap.getDigests : Sys2Proof.Laws.OpcodeMap.Statement (.getDigests) := by intro _ _ h; cases h
end

