-- ==== Sys2Proof/Tests/Slice0.lean ====
section
/-! SUPPORT. Small tests: refused ill-formed terms, one word for every instruction written out from the spec's encodings, and witnesses
that the hypotheses of the statements are met by concrete states and operands. -/

set_option Elab.async false

namespace Sys2Proof.Tests

open Sys2Proof Sys2Proof.Machine

/-! Operands and small states. -/

def pt : Guard := ⟨false, 7⟩
def p1 : Guard := ⟨false, 1⟩
def n2 : Guard := ⟨true, 2⟩
/-- A guard that is true nowhere (R217). -/
def never : Guard := ⟨true, 7⟩

def ri : RI := ⟨pt, .s8, 0, 0, none, .none, .none, .none, .none⟩
def ii : II := ⟨pt, .none, .none, 0, 0⟩
def mi : MI := ⟨pt, .none, .none, false, .none, 0, 0, 0, 0, 0, false, 0⟩
def bi : BI := ⟨pt, 0, 0, 0⟩
def ei : EI := ⟨pt, .none, .none, .none, .none, 0, 0⟩

/-- A fragment of two lanes at the first word of a clause at 0x20000. -/
def fr : Frag := { mask := 3, ctl := { pc := 0x20000, cpos := 1 }, run := 1 }
def frSup : Frag := { fr with ctl := { fr.ctl with sup := true }, state := .handling, token := 0x101 }
def cr : Crew := { used := true, live := 3, granules := 32 }

/-- The task of the crew's gang, in SPN 1. -/
def task1 : Task :=
  { isl := 0, id := 1, tag := 1, spn := 1, precinct := 0, sup := false, prio := 0, origin := none, pilot := none, record := [],
    kdesc := [], deps := [], circ := [], order := 0, state := .placed }

/-- The page of 64 KiB at 0x20000, mapped to itself: readable, writable, executable, accessed and dirty, of tag 1. -/
def page (tlb : Nat) : TlbE :=
  { isl := 0, tlb := tlb, spn := 1, precinct := 0, page := 0x20000, size := 65536, pte := 0x2131D, addr := 0, level := 4, lines := [] }

/-- A core with one gang of one crew, whose scratchpad aperture begins at 2^32 and its Basin aperture at 2^33, in a running precinct of tag 1; the page
of its code is in its cluster's TLB. -/
def world (f : Frag) (c : Crew) : State :=
  { exe := { frags := [(0, f)], crews := [(0, c)], gangs := [(0, { used := true, lanes := 2, crews := [0], spSize := 4, tiles := 64 })] }
    trn := { ctxs := [(1, { live := true, aps := [(1, 0x100000003), (3, 0x200000003)], bsnwin := 0x10000 })], tlb := [page 0, page 16, page 17] }
    mgt := { precincts := [(0, { valid := true, tag := 1, ncount := 4 })], tasks := [(0, task1)], mod := { mode := 1, healthy := 0xFFFFF, pop := 0xFFFFF } } }

/-- A Pilot thread of that precinct. -/
def pilotWorld (t : PThread) : State :=
  { world {} {} with cur := .pilot 0 0, exe.threads := [(0, { t with spn := 1 })] }
def th : PThread := { state := .running, ctl := { pc := 0x20000, cpos := 1 } }

/-- Scalar registers s2 and s3 hold the address 2^32 + 16 of the scratchpad aperture. -/
def crAt : Crew := { cr with uni := { sregs := [(2, 16), (3, 1)] } }

/-! What well-formedness refuses, one term for each check. -/

theorem test_wf_header : Header.wf ⟨0, 12, 15, 0, false, false⟩ = false ∧ Header.wf ⟨0, 15, 14, 0, false, false⟩ = false
    ∧ Header.wf ⟨4, 0, 11, 7, true, true⟩ = true := by decide

/-- Format R: a type the code does not admit, each operand out of its space, a literal not admitted or missing, two walkers, and
nonzero reserved bits of BRI's literal. -/
theorem test_wf_register_format :
    Instr.wf false (.sadd { ri with ty := .f32, d := .s 1, a := .s 2, b := .s 3 }) = false
    ∧ Instr.wf false (.sadd { ri with ty := .s32, d := .v 1, a := .s 2, b := .s 3 }) = false
    ∧ Instr.wf false (.sadd64 { ri with d := .s 1, a := .s 2, b := .s 4 }) = false
    ∧ Instr.wf false (.sadd { ri with ty := .s32, d := .s 1, a := .lit, b := .s 3 }) = false
    ∧ Instr.wf false (.sadd { ri with ty := .s32, d := .s 1, a := .s 2, b := .none }) = false
    ∧ Instr.wf false (.ssel { ri with ty := .b32, d := .s 1, a := .s 2, b := .s 3, c := .s 9 }) = false
    ∧ Instr.wf false (.nop { ri with lit := some 0 }) = false
    ∧ Instr.wf false (.bri { ri with a := .v 6, b := .imm 5 }) = false
    ∧ Instr.wf false (.bri { ri with a := .v 6, b := .imm 5, c := .lit, lit := some 1 }) = false
    ∧ Instr.wf false (.vadd { ri with ty := .s32, d := .v 1, a := .w 1, b := .w 2, u := 3 }) = false
    ∧ Instr.wf false (.vadd { ri with ty := .s32, d := .v 1, a := .w 1, b := .w 1, u := 3 }) = true := by decide

/-- Formats I and B. -/
theorem test_wf_immediate_and_branch :
    Instr.wf false (.sli { ii with d := .s 1, sub := 2 }) = false ∧ Instr.wf false (.sli { ii with d := .v 1 }) = false
    ∧ Instr.wf false (.syswr { ii with a := .v 1, imm := 0x80 }) = false ∧ Instr.wf false (.trap { ii with imm := 64 }) = false
    ∧ Instr.wf false (.bra { bi with join := 1 }) = false ∧ Instr.wf false (.brw { bi with x := 64 }) = false
    ∧ Instr.wf false (.join { bi with guard := p1 }) = false ∧ Instr.wf false (.call { bi with x := 3 }) = false
    ∧ Instr.wf false (.bra bi) = true := by decide

/-- Format M: fields that the code does not admit, each operand out of its space, an offset of more than 12 bits beside a third
operand, an offset without an address, two walkers. -/
theorem test_wf_memory_format :
    Instr.wf false (.ld { mi with d := .v 1, a := .s 2, wid := 5 }) = false
    ∧ Instr.wf false (.ld { mi with d := .s 1, a := .s 2, wid := 2 }) = false ∧ Instr.wf false (.ld { mi with d := .v 1, a := .s 3, wid := 2 }) = false
    ∧ Instr.wf false (.ld { mi with d := .v 1, a := .s 2, wid := 2, os := true, x := .v 3 }) = false
    ∧ Instr.wf false (.ld { mi with d := .v 1, a := .s 2, wid := 2, os := true, x := .s 3, ofs := 0x800 }) = false
    ∧ Instr.wf false (.fence { mi with sem := 1, scope := 1, ofs := 8 }) = false
    ∧ Instr.wf false (.ld { mi with d := .v 1, a := .w 1, wid := 2, os := true, x := .w 2 }) = false
    ∧ Instr.wf false (.ld { mi with d := .v 1, a := .s 2, wid := 2, os := true, x := .s 3, ofs := 0x7FF }) = true := by decide

/-- Format E, the units, and events, which have no word. -/
theorem test_wf_matrix_format_and_units :
    Instr.wf false (.aclr { ei with d := .tile 1, fb := 1 }) = false ∧ Instr.wf false (.aclr { ei with d := .v 1 }) = false
    ∧ Instr.wf false (.mma { ei with d := .tile 1, a := .v 4, b := .v 16 }) = false
    ∧ Instr.wf false (.put { ei with d := .s 4, a := .s 6, b := .s 7, sub := 3 }) = false
    ∧ Instr.wf false (.mma { ei with d := .tile 1, a := .v 8, b := .v 16, c := .s 1 }) = false
    ∧ Instr.wf false (.put { ei with d := .w 1, a := .w 2, b := .s 8, sub := 3 }) = false
    ∧ Instr.wf false (.halt ri) = false ∧ Instr.wf true (.halt ri) = true ∧ Instr.wf true (.vadd { ri with ty := .s32, d := .v 1, a := .v 2, b := .v 3 }) = false
    ∧ Instr.wf false (.gangFree 0) = false := by decide

/-! A word for every instruction, its fields placed as R217 lays them out. -/

/-- Scalar class, first half (R217, R221, R222, R232, R243). -/
theorem test_decode_scalar :
    (decodeWord false 0x0070405FF0060001 0).toOption = some (.sadd ⟨pt, .n32, 0x1, 0, none, (.s 4), (.s 5), (.imm 63), .none⟩)
    ∧ (decodeWord false 0x017FF83900028000 0x123456789ABCDEF0).toOption = some (.ssub ⟨pt, .s32, 0x0, 0, some 0x123456789ABCDEF0, .discard, (.w 3), .lit, .none⟩)
    ∧ (decodeWord false 0x0217F00DF0060000 0).toOption = some (.smul ⟨p1, .n32, 0x0, 0, none, (.s 127), (.s 0), (.imm 31), .none⟩)
    ∧ (decodeWord false 0x0370908070020000 0).toOption = some (.smulh ⟨pt, .s32, 0x0, 0, none, (.s 9), (.s 8), (.s 7), .none⟩)
    ∧ (decodeWord false 0x04A010203E020001 0).toOption = some (.smad ⟨n2, .s32, 0x1, 0, none, (.s 1), (.s 2), (.s 3), (.imm 32)⟩)
    ∧ (decodeWord false 0x0570102CA0060000 0).toOption = some (.sdiv ⟨pt, .n32, 0x0, 0, none, (.s 1), (.s 2), (.imm 10), .none⟩)
    ∧ (decodeWord false 0x0670102CA0020000 0).toOption = some (.srem ⟨pt, .s32, 0x0, 0, none, (.s 1), (.s 2), (.imm 10), .none⟩)
    ∧ (decodeWord false 0x0770102030080000 0).toOption = some (.sand ⟨pt, .b32, 0x0, 0, none, (.s 1), (.s 2), (.s 3), .none⟩)
    ∧ (decodeWord false 0x0870102030080000 0).toOption = some (.sor ⟨pt, .b32, 0x0, 0, none, (.s 1), (.s 2), (.s 3), .none⟩)
    ∧ (decodeWord false 0x0970102030080000 0).toOption = some (.sxor ⟨pt, .b32, 0x0, 0, none, (.s 1), (.s 2), (.s 3), .none⟩)
    ∧ (decodeWord false 0x0A70102030080000 0).toOption = some (.sandn ⟨pt, .b32, 0x0, 0, none, (.s 1), (.s 2), (.s 3), .none⟩)
    ∧ (decodeWord false 0x0B70102C40080000 0).toOption = some (.sshl ⟨pt, .b32, 0x0, 0, none, (.s 1), (.s 2), (.imm 4), .none⟩)
    ∧ (decodeWord false 0x0C70102C40080000 0).toOption = some (.sshr ⟨pt, .b32, 0x0, 0, none, (.s 1), (.s 2), (.imm 4), .none⟩)
    ∧ (decodeWord false 0x0D70102C40080000 0).toOption = some (.ssar ⟨pt, .b32, 0x0, 0, none, (.s 1), (.s 2), (.imm 4), .none⟩)
    ∧ (decodeWord false 0x0E70102C40080000 0).toOption = some (.srot ⟨pt, .b32, 0x0, 0, none, (.s 1), (.s 2), (.imm 4), .none⟩) := by
  decide

/-- Scalar class, second half. -/
theorem test_decode_scalar_more :
    (decodeWord false 0x0F70102030020000 0).toOption = some (.smin ⟨pt, .s32, 0x0, 0, none, (.s 1), (.s 2), (.s 3), .none⟩)
    ∧ (decodeWord false 0x1070102030060000 0).toOption = some (.smax ⟨pt, .n32, 0x0, 0, none, (.s 1), (.s 2), (.s 3), .none⟩)
    ∧ (decodeWord false 0x11702047E0690000 0).toOption = some (.ssel ⟨pt, .b64, 0x0, 0, none, (.s 2), (.s 4), (.s 126), (.p 6)⟩)
    ∧ (decodeWord false 0x1270304C00030005 0).toOption = some (.scmp ⟨pt, .s64, 0x5, 0, none, (.p 3), (.s 4), (.imm 0), .none⟩)
    ∧ (decodeWord false 0x1370287000090000 0).toOption = some (.smov ⟨pt, .b64, 0x0, 0, none, (.s 2), (.w 7), .none, .none⟩)
    ∧ (decodeWord false 0x1477E0089ABCDEF1 0).toOption = some (.sli ⟨pt, (.s 126), .none, 0x89ABCDEF, 1⟩)
    ∧ (decodeWord false 0x1570102000090000 0).toOption = some (.spopc ⟨pt, .b64, 0x0, 0, none, (.s 1), (.s 2), .none, .none⟩)
    ∧ (decodeWord false 0x1670102000080000 0).toOption = some (.sclz ⟨pt, .b32, 0x0, 0, none, (.s 1), (.s 2), .none, .none⟩)
    ∧ (decodeWord false 0x1770102900028000 0x123456789ABCDEF0).toOption = some (.sbfe ⟨pt, .s32, 0x0, 0, some 0x123456789ABCDEF0, (.s 1), (.s 2), .lit, .none⟩)
    ∧ (decodeWord false 0x1870102030480000 0).toOption = some (.sbfi ⟨pt, .b32, 0x0, 0, none, (.s 1), (.s 2), (.s 3), (.s 4)⟩)
    ∧ (decodeWord false 0x1970204060000000 0).toOption = some (.sadd64 ⟨pt, .s8, 0x0, 0, none, (.s 2), (.s 4), (.s 6), .none⟩)
    ∧ (decodeWord false 0x1A70204C10000000 0).toOption = some (.ssub64 ⟨pt, .s8, 0x0, 0, none, (.s 2), (.s 4), (.imm 1), .none⟩)
    ∧ (decodeWord false 0x1B7020405006001F 0).toOption = some (.slea ⟨pt, .n32, 0x1F, 0, none, (.s 2), (.s 4), (.s 5), .none⟩) := by
  decide

/-- Control transfers and walkers (R249-R261). -/
theorem test_decode_control :
    (decodeWord false 0x207FFFFFF0000000 0).toOption = some (.bra ⟨pt, 0xFFFFFF, 0x0, 0⟩)
    ∧ (decodeWord false 0x2117FFFFFFFFFE00 0).toOption = some (.brx ⟨p1, 0x7FFFFF, 0xFFFFE, 0⟩)
    ∧ (decodeWord false 0x2270006C59008000 0x0000000200004000).toOption = some (.bri ⟨pt, .s8, 0x0, 0, some 0x0000000200004000, .none, (.v 6), (.imm 5), .lit⟩)
    ∧ (decodeWord false 0x2378000007FFFF00 0).toOption = some (.join ⟨pt, 0x800000, 0x7FFFF, 0⟩)
    ∧ (decodeWord false 0x24700001000000FC 0).toOption = some (.call ⟨pt, 0x10, 0x0, 252⟩)
    ∧ (decodeWord false 0x25700FC000000000 0).toOption = some (.ret ⟨pt, .s8, 0x0, 0, none, .none, (.v 252), .none, .none⟩)
    ∧ (decodeWord false 0x26700C3000004000 0).toOption = some (.exit ⟨pt, .s8, 0x0, 1, none, .none, (.imm 3), .none, .none⟩)
    ∧ (decodeWord false 0x2770000000000000 0).toOption = some (.yield ⟨pt, .s8, 0x0, 0, none, .none, .none, .none, .none⟩)
    ∧ (decodeWord false 0x2870000000000000 0).toOption = some (.nop ⟨pt, .s8, 0x0, 0, none, .none, .none, .none, .none⟩)
    ∧ (decodeWord false 0x297000005000003F 0).toOption = some (.brw ⟨pt, 0x5, 0x0, 63⟩)
    ∧ (decodeWord false 0x2A70004000000007 0).toOption = some (.wbind ⟨pt, .s8, 0x7, 0, none, .none, (.s 4), .none, .none⟩)
    ∧ (decodeWord false 0x2B700050000000DB 0).toOption = some (.wset ⟨pt, .s8, 0xDB, 0, none, .none, (.s 5), .none, .none⟩)
    ∧ (decodeWord false 0x2C70900000000029 0).toOption = some (.wget ⟨pt, .s8, 0x29, 0, none, (.s 9), .none, .none, .none⟩) := by
  decide

/-- Vector integer class, first half (R265). -/
theorem test_decode_vector :
    (decodeWord false 0x4010402060022001 0).toOption = some (.vadd ⟨p1, .s32, 0x1, 2, none, (.v 4), (.v 2), (.s 6), .none⟩)
    ∧ (decodeWord false 0x417FFFE000060000 0).toOption = some (.vsub ⟨pt, .n32, 0x0, 0, none, (.v 255), (.v 254), (.v 0), .none⟩)
    ∧ (decodeWord false 0x4270102030020000 0).toOption = some (.vmul ⟨pt, .s32, 0x0, 0, none, (.v 1), (.v 2), (.v 3), .none⟩)
    ∧ (decodeWord false 0x4370102030060000 0).toOption = some (.vmulh ⟨pt, .n32, 0x0, 0, none, (.v 1), (.v 2), (.v 3), .none⟩)
    ∧ (decodeWord false 0x4470102C78523000 0).toOption = some (.vmad ⟨pt, .s32, 0x0, 6, none, (.v 1), (.v 2), (.imm 7), (.w 5)⟩)
    ∧ (decodeWord false 0x4570102030020000 0).toOption = some (.vmin ⟨pt, .s32, 0x0, 0, none, (.v 1), (.v 2), (.v 3), .none⟩)
    ∧ (decodeWord false 0x4670102030020000 0).toOption = some (.vmax ⟨pt, .s32, 0x0, 0, none, (.v 1), (.v 2), (.v 3), .none⟩)
    ∧ (decodeWord false 0x4770102000020000 0).toOption = some (.vabs ⟨pt, .s32, 0x0, 0, none, (.v 1), (.v 2), .none, .none⟩)
    ∧ (decodeWord false 0x4870102030060000 0).toOption = some (.vabsd ⟨pt, .n32, 0x0, 0, none, (.v 1), (.v 2), (.v 3), .none⟩)
    ∧ (decodeWord false 0x4970204060090000 0).toOption = some (.vand ⟨pt, .b64, 0x0, 0, none, (.v 2), (.v 4), (.v 6), .none⟩)
    ∧ (decodeWord false 0x4A70204060090000 0).toOption = some (.vor ⟨pt, .b64, 0x0, 0, none, (.v 2), (.v 4), (.v 6), .none⟩)
    ∧ (decodeWord false 0x4B70204060090000 0).toOption = some (.vxor ⟨pt, .b64, 0x0, 0, none, (.v 2), (.v 4), (.v 6), .none⟩)
    ∧ (decodeWord false 0x4C70204060090000 0).toOption = some (.vandn ⟨pt, .b64, 0x0, 0, none, (.v 2), (.v 4), (.v 6), .none⟩)
    ∧ (decodeWord false 0x4D70102C40082000 0).toOption = some (.vshl ⟨pt, .b32, 0x0, 2, none, (.v 1), (.v 2), (.imm 4), .none⟩)
    ∧ (decodeWord false 0x4E70102C40082000 0).toOption = some (.vshr ⟨pt, .b32, 0x0, 2, none, (.v 1), (.v 2), (.imm 4), .none⟩)
    ∧ (decodeWord false 0x4F70102C40082000 0).toOption = some (.vsar ⟨pt, .b32, 0x0, 2, none, (.v 1), (.v 2), (.imm 4), .none⟩)
    ∧ (decodeWord false 0x5070102C40082000 0).toOption = some (.vrot ⟨pt, .b32, 0x0, 2, none, (.v 1), (.v 2), (.imm 4), .none⟩) := by
  decide

/-- Vector integer class, second half. -/
theorem test_decode_vector_more :
    (decodeWord false 0x5170102000090000 0).toOption = some (.vpopc ⟨pt, .b64, 0x0, 0, none, (.v 1), (.v 2), .none, .none⟩)
    ∧ (decodeWord false 0x5270103000080000 0).toOption = some (.vclz ⟨pt, .b32, 0x0, 0, none, (.v 1), (.v 3), .none, .none⟩)
    ∧ (decodeWord false 0x5370102030020000 0).toOption = some (.vbfe ⟨pt, .s32, 0x0, 0, none, (.v 1), (.v 2), (.v 3), .none⟩)
    ∧ (decodeWord false 0x5470102030480000 0).toOption = some (.vbfi ⟨pt, .b32, 0x0, 0, none, (.v 1), (.v 2), (.v 3), (.v 4)⟩)
    ∧ (decodeWord false 0x5570102030780000 0).toOption = some (.vsel ⟨pt, .b32, 0x0, 0, none, (.v 1), (.v 2), (.v 3), (.p 7)⟩)
    ∧ (decodeWord false 0x5670502040070002 0).toOption = some (.vcmp ⟨pt, .n64, 0x2, 0, none, (.p 5), (.v 2), (.v 4), .none⟩)
    ∧ (decodeWord false 0x577019000008C000 0x123456789ABCDEF0).toOption = some (.vmov ⟨pt, .b32, 0x0, 1, some 0x123456789ABCDEF0, (.v 1), .lit, .none, .none⟩)
    ∧ (decodeWord false 0x58A0900FFFFFFFF0 0).toOption = some (.vli ⟨n2, (.v 9), .none, 0xFFFFFFFF, 0⟩)
    ∧ (decodeWord false 0x5970102030440003 0).toOption = some (.vdot4 ⟨pt, .n8, 0x3, 0, none, (.v 1), (.v 2), (.v 3), (.v 4)⟩)
    ∧ (decodeWord false 0x5A70204FC0000000 0).toOption = some (.vadd64 ⟨pt, .s8, 0x0, 0, none, (.v 2), (.v 4), (.v 252), .none⟩)
    ∧ (decodeWord false 0x5B70204050020004 0).toOption = some (.vlea ⟨pt, .s32, 0x4, 0, none, (.v 2), (.v 4), (.v 5), .none⟩) := by
  decide

/-- Floating-point class (R237, R267). -/
theorem test_decode_floating :
    (decodeWord false 0x6070102030002828 0).toOption = some (.fadd ⟨pt, .f32, 0x28, 2, none, (.v 1), (.v 2), (.s 3), .none⟩)
    ∧ (decodeWord false 0x6170102030012829 0).toOption = some (.fsub ⟨pt, .f16, 0x29, 2, none, (.v 1), (.v 2), (.s 3), .none⟩)
    ∧ (decodeWord false 0x627010203002282A 0).toOption = some (.fmul ⟨pt, .bf16, 0x2A, 2, none, (.v 1), (.v 2), (.s 3), .none⟩)
    ∧ (decodeWord false 0x6370102030400803 0).toOption = some (.ffma ⟨pt, .f32, 0x3, 0, none, (.v 1), (.v 2), (.v 3), (.v 4)⟩)
    ∧ (decodeWord false 0x6470102030000820 0).toOption = some (.fmin ⟨pt, .f32, 0x20, 0, none, (.v 1), (.v 2), (.v 3), .none⟩)
    ∧ (decodeWord false 0x6570102030020800 0).toOption = some (.fmax ⟨pt, .bf16, 0x0, 0, none, (.v 1), (.v 2), (.v 3), .none⟩)
    ∧ (decodeWord false 0x66701020300009C0 0).toOption = some (.fcmp ⟨pt, .f32, 0x1C0, 0, none, (.p 1), (.v 2), (.v 3), .none⟩)
    ∧ (decodeWord false 0x6770102000000800 0).toOption = some (.frcp ⟨pt, .f32, 0x0, 0, none, (.v 1), (.v 2), .none, .none⟩)
    ∧ (decodeWord false 0x6870102000000801 0).toOption = some (.frsq ⟨pt, .f32, 0x1, 0, none, (.v 1), (.v 2), .none, .none⟩)
    ∧ (decodeWord false 0x6970102000000802 0).toOption = some (.fsqrt ⟨pt, .f32, 0x2, 0, none, (.v 1), (.v 2), .none, .none⟩)
    ∧ (decodeWord false 0x6A70102000000803 0).toOption = some (.fexp2 ⟨pt, .f32, 0x3, 0, none, (.v 1), (.v 2), .none, .none⟩)
    ∧ (decodeWord false 0x6B70102000000800 0).toOption = some (.flog2 ⟨pt, .f32, 0x0, 0, none, (.v 1), (.v 2), .none, .none⟩)
    ∧ (decodeWord false 0x6C70102000000801 0).toOption = some (.fsin ⟨pt, .f32, 0x1, 0, none, (.v 1), (.v 2), .none, .none⟩)
    ∧ (decodeWord false 0x6D70102000000802 0).toOption = some (.fcos ⟨pt, .f32, 0x2, 0, none, (.v 1), (.v 2), .none, .none⟩)
    ∧ (decodeWord false 0x6E70102000000803 0).toOption = some (.ftanh ⟨pt, .f32, 0x3, 0, none, (.v 1), (.v 2), .none, .none⟩)
    ∧ (decodeWord false 0x6F70102000010803 0).toOption = some (.frnd ⟨pt, .f16, 0x3, 0, none, (.v 1), (.v 2), .none, .none⟩)
    ∧ (decodeWord false 0x7070102000000800 0).toOption = some (.fclass ⟨pt, .f32, 0x0, 0, none, (.v 1), (.v 2), .none, .none⟩)
    ∧ (decodeWord false 0x7170102030020808 0).toOption = some (.fscale ⟨pt, .bf16, 0x8, 0, none, (.v 1), (.v 2), (.v 3), .none⟩) := by
  decide

/-- Conversions (R274-R278). -/
theorem test_decode_conversion :
    (decodeWord false 0x7270102000030C14 0).toOption = some (.cvt ⟨pt, .e4m3, 0x414, 0, none, (.v 1), (.v 2), .none, .none⟩)
    ∧ (decodeWord false 0x7370810000070C00 0).toOption = some (.cvtb ⟨pt, .e2m1, 0x400, 0, none, (.v 8), (.v 16), .none, (.num 0)⟩)
    ∧ (decodeWord false 0x7470102030010C00 0).toOption = some (.pack ⟨pt, .f16, 0x400, 0, none, (.v 1), (.v 2), (.v 3), (.num 0)⟩)
    ∧ (decodeWord false 0x7570102000300D00 0).toOption = some (.unpk ⟨pt, .f32, 0x500, 0, none, (.v 1), (.v 2), .none, (.num 3)⟩)
    ∧ (decodeWord false 0x7670102030400C88 0).toOption = some (.fdot2 ⟨pt, .f32, 0x488, 0, none, (.v 1), (.v 2), (.v 3), (.v 4)⟩) := by
  decide

/-- Crew instructions (R280). -/
theorem test_decode_crew :
    (decodeWord false 0x8070302C10182017 0).toOption = some (.shfl ⟨pt, .b32, 0x17, 2, none, (.v 3), (.v 2), (.imm 1), (.p 1)⟩)
    ∧ (decodeWord false 0x81702040000900E4 0).toOption = some (.qswz ⟨pt, .b64, 0xE4, 0, none, (.v 2), (.v 4), .none, .none⟩)
    ∧ (decodeWord false 0x827010200000000B 0).toOption = some (.vote ⟨pt, .s8, 0xB, 0, none, (.v 1), (.p 2), .none, .none⟩)
    ∧ (decodeWord false 0x8370102000090000 0).toOption = some (.matchEq ⟨pt, .b64, 0x0, 0, none, (.v 1), (.v 2), .none, .none⟩)
    ∧ (decodeWord false 0x8470400000000001 0).toOption = some (.elect ⟨pt, .s8, 0x1, 0, none, (.p 4), .none, .none, .none⟩)
    ∧ (decodeWord false 0x8570204000090005 0).toOption = some (.redx ⟨pt, .b64, 0x5, 0, none, (.v 2), (.v 4), .none, .none⟩)
    ∧ (decodeWord false 0x867010200002000A 0).toOption = some (.scanx ⟨pt, .s32, 0xA, 0, none, (.v 1), (.v 2), .none, .none⟩)
    ∧ (decodeWord false 0x8770000000000000 0).toOption = some (.help ⟨pt, .s8, 0x0, 0, none, (.p 0), .none, .none, .none⟩)
    ∧ (decodeWord false 0x8870700000000003 0).toOption = some (.mask ⟨pt, .s8, 0x3, 0, none, (.v 7), .none, .none, .none⟩) := by
  decide

/-- Barriers (R239, R333). -/
theorem test_decode_barrier :
    (decodeWord false 0x9070000000000004 0).toOption = some (.bara ⟨pt, .s8, 0x4, 0, none, .none, .none, .none, .none⟩)
    ∧ (decodeWord false 0x917000000000003D 0).toOption = some (.barw ⟨pt, .s8, 0x3D, 0, none, .none, .none, .none, .none⟩)
    ∧ (decodeWord false 0x927000000000001E 0).toOption = some (.bars ⟨pt, .s8, 0x1E, 0, none, .none, .none, .none, .none⟩)
    ∧ (decodeWord false 0x937000000000000F 0).toOption = some (.bard ⟨pt, .s8, 0xF, 0, none, .none, .none, .none, .none⟩)
    ∧ (decodeWord false 0x9470000000000001 0).toOption = some (.barj ⟨pt, .s8, 0x1, 0, none, .none, .none, .none, .none⟩)
    ∧ (decodeWord false 0x9570200000000000 0).toOption = some (.bart ⟨pt, .s8, 0x0, 0, none, (.p 2), .none, .none, .none⟩) := by
  decide

/-- Memory (R217, R238, R285-R302). -/
theorem test_decode_memory :
    (decodeWord false 0xA07070204FFF9579 0).toOption = some (.ld ⟨pt, (.v 7), (.v 2), true, (.s 4), 0xFFFFF, 1, 1, 1, 3, true, 1⟩)
    ∧ (decodeWord false 0xA17040A800004AA0 0).toOption = some (.st ⟨pt, (.v 4), (.s 10), false, .none, 0x80000, 4, 2, 2, 5, false, 0⟩)
    ∧ (decodeWord false 0xA27100406C570016 0).toOption = some (.ldf ⟨pt, (.v 16), (.v 4), (.s 6), (.imm 5), 7, 0x16⟩)
    ∧ (decodeWord false 0xA37061408010238F 0).toOption = some (.atomArith ⟨pt, (.v 6), (.s 20), true, (.v 8), 0x10, 2, 0, 3, 4, false, 7⟩)
    ∧ (decodeWord false 0xA47FF8108000300A 0).toOption = some (.atomBitwise ⟨pt, (.v 255), (.w 1), true, (.v 8), 0x0, 3, 0, 0, 0, false, 2⟩)
    ∧ (decodeWord false 0xA57080400008C006 0).toOption = some (.redArith ⟨pt, (.v 8), (.v 4), false, .none, 0x8, 4, 0, 0, 0, false, 6⟩)
    ∧ (decodeWord false 0xA670804C2FFC2E29 0).toOption = some (.redBitwise ⟨pt, (.v 8), (.s 4), true, (.imm 2), 0xFFFFC, 2, 3, 2, 1, false, 1⟩)
    ∧ (decodeWord false 0xA770004820008009 0).toOption = some (.pref ⟨pt, .none, (.v 4), true, (.w 2), 0x0, 0, 0, 0, 0, false, 1⟩)
    ∧ (decodeWord false 0xA870000000000002 0).toOption = some (.cctl ⟨pt, .none, .none, false, .none, 0x0, 0, 0, 0, 0, false, 2⟩)
    ∧ (decodeWord false 0xA970000000000120 0).toOption = some (.fence ⟨pt, .none, .none, false, .none, 0x0, 0, 0, 1, 1, false, 0⟩)
    ∧ (decodeWord false 0xAA70004FF0006003 0).toOption = some (.twin ⟨pt, .s8, 0x3, 3, none, .none, (.s 4), (.imm 63), .none⟩)
    ∧ (decodeWord false 0xAB70406000000000 0).toOption = some (.setc ⟨pt, (.v 4), (.s 6), false, .none, 0x0, 0, 0, 0, 0, false, 0⟩)
    ∧ (decodeWord false 0xAC70406020048008 0).toOption = some (.waitc ⟨pt, (.v 4), (.v 6), true, (.s 2), 0x4, 0, 0, 0, 0, false, 0⟩)
    ∧ (decodeWord false 0xAD70306000100000 0).toOption = some (.testc ⟨pt, (.p 3), (.s 6), false, .none, 0x10, 0, 0, 0, 0, false, 0⟩) := by
  decide

/-- Island operations (R303-R307). -/
theorem test_decode_island :
    (decodeWord false 0xC070204080000022 0).toOption = some (.put ⟨pt, (.v 2), (.s 4), (.s 8), .none, 0, 0x22⟩)
    ∧ (decodeWord false 0xC110406100000003 0).toOption = some (.puts ⟨p1, (.s 4), (.s 6), (.s 16), .none, 0, 0x3⟩)
    ∧ (decodeWord false 0xC270406100000011 0).toOption = some (.get ⟨pt, (.s 4), (.v 6), (.s 16), .none, 0, 0x11⟩)
    ∧ (decodeWord false 0xC37020418000000C 0).toOption = some (.radd ⟨pt, (.v 2), (.v 4), (.s 24), .none, 0, 0xC⟩)
    ∧ (decodeWord false 0xC4700007800002D0 0).toOption = some (.notify ⟨pt, .none, .none, (.s 120), .none, 0, 0x2D0⟩)
    ∧ (decodeWord false 0xC570004C10006004 0).toOption = some (.waitn ⟨pt, .s8, 0x4, 3, none, .none, (.s 4), (.imm 1), .none⟩)
    ∧ (decodeWord false 0xC670204050006005 0).toOption = some (.testn ⟨pt, .s8, 0x5, 3, none, (.p 2), (.s 4), (.s 5), .none⟩)
    ∧ (decodeWord false 0xC770000000000000 0).toOption = some (.rfence ⟨pt, .s8, 0x0, 0, none, .none, .none, .none, .none⟩) := by
  decide

/-- Matrix and engines (R314-R324). -/
theorem test_decode_matrix :
    (decodeWord false 0xD073F1020037000E 0).toOption = some (.mma ⟨pt, (.tile 63), (.v 16), (.v 32), (.s 3), 7, 0xE⟩)
    ∧ (decodeWord false 0xD17050000000003F 0).toOption = some (.aclr ⟨pt, (.tile 5), .none, .none, .none, 0, 0x3F⟩)
    ∧ (decodeWord false 0xD270102030401011 0).toOption = some (.ald ⟨pt, (.tile 1), (.s 2), (.s 3), (.v 4), 0, 0x1011⟩)
    ∧ (decodeWord false 0xD37030A0C0000801 0).toOption = some (.adrn ⟨pt, (.tile 3), (.s 10), (.s 12), .none, 0, 0x801⟩)
    ∧ (decodeWord false 0xD470704000004000 0).toOption = some (.setfb ⟨pt, .s8, 0x0, 1, none, (.num 7), (.s 4), .none, .none⟩)
    ∧ (decodeWord false 0xD570014160006000 0).toOption = some (.kick ⟨pt, .s8, 0x0, 3, none, .none, (.s 20), (.s 22), .none⟩) := by
  decide

/-- System instructions (R337-R342). -/
theorem test_decode_system :
    (decodeWord false 0xE0100000000003F0 0).toOption = some (.trap ⟨p1, .none, .none, 0x3F, 0⟩)
    ∧ (decodeWord false 0xE170082000000001 0).toOption = some (.rett ⟨pt, .s8, 0x1, 0, none, .none, (.w 2), .none, .none⟩)
    ∧ (decodeWord false 0xE270400000000933 0).toOption = some (.sysrd ⟨pt, (.v 4), .none, 0x93, 3⟩)
    ∧ (decodeWord false 0xE370006000000802 0).toOption = some (.syswr ⟨pt, .none, (.s 6), 0x80, 2⟩)
    ∧ (decodeWord false 0xE4700000000FFFF0 0).toOption = some (.bkpt ⟨pt, .none, .none, 0xFFFF, 0⟩)
    ∧ (decodeWord false 0xE570400000300001 0).toOption = some (.poolpop ⟨pt, .s8, 0x1, 0, none, (.s 4), .none, .none, (.p 3)⟩)
    ∧ (decodeWord false 0xE6704C2000000000 0).toOption = some (.poolpush ⟨pt, .s8, 0x0, 0, none, (.p 4), (.imm 2), .none, .none⟩) := by
  decide

/-- Pilot instructions (R343-R347). -/
theorem test_decode_pilot :
    (decodeWord true 0xF077800000200000 0).toOption = some (.evpop ⟨pt, .s8, 0x0, 0, none, (.s 120), .none, .none, (.p 2)⟩)
    ∧ (decodeWord true 0xF170800000000000 0).toOption = some (.evwait ⟨pt, .s8, 0x0, 0, none, (.s 8), .none, .none, .none⟩)
    ∧ (decodeWord true 0xF270304000500001 0).toOption = some (.tlaunch ⟨pt, .s8, 0x1, 0, none, (.s 3), (.s 4), .none, (.p 5)⟩)
    ∧ (decodeWord true 0xF370000000000000 0).toOption = some (.halt ⟨pt, .s8, 0x0, 0, none, .none, .none, .none, .none⟩)
    ∧ (decodeWord true 0xF470000000000000 0).toOption = some (.idle ⟨pt, .s8, 0x0, 0, none, .none, .none, .none, .none⟩)
    ∧ (decodeWord true 0xE270400000001030 0).toOption = some (.sysrd ⟨pt, (.s 4), .none, 0x103, 0⟩) := by
  decide
/-! Witnesses for the statements on registers, walkers, scalar and vector results: the guard is true, the type is one the class has, and
every operand form that a clause names is taken. -/

/-- s4 and s5, a walker and a pair of vector registers with values. -/
def regs : State := world fr { cr with uni := { sregs := [(4, 7), (5, 9)], walkers := [(2, { base := 64, d0 := { count := 2, stride := 8, idx := 1 }, d1 := { count := 3, stride := 4 } })] }, vregs := [(2, List.replicate 32 5)] }

theorem test_meets_ScalarResults : Claims.IntTy { ri with ty := .s32, d := .s 1, a := .w 2, b := .s 4 }
    ∧ (regs.walk [.w 2, .s 4, .none]).2.qguard pt = true := by decide +kernel

theorem test_meets_ScalarPairResults : (regs.walk [.s 4, .s 4, .p 1]).2.qguard pt = true
    ∧ ({ ri with ty := .b64, c := .p 1 } : RI).c = .p 1 ∧ ({ ri with ty := .n64, sub := 5 } : RI).cond ≤ 5 := by decide +kernel

theorem test_meets_ImmediateResults : regs.qguard pt = true := by decide +kernel

theorem test_meets_VectorResults : Claims.IntTy { ri with ty := .b32 } ∧ ({ ri with sub := 5 } : RI).cond ≤ 5
    ∧ ({ ri with c := .p 7 } : RI).c = .p 7 := by decide

theorem test_meets_VectorPairResults : ({ ri with ty := .n8 } : RI).sat = false
    ∧ ({ ri with ty := .s8, sub := 1 } : RI).sat = true ∧ ({ ri with ty := .s8, sub := 1 } : RI).sub.getLsbD 1 = false := by decide

theorem test_meets_WalkerReadAdvances : regs.ctl.wrv = none ∧ (∀ d ∈ (regs.walker 2).dims, d.idx.toNat < d.count.toNat)
    ∧ (regs.walker 2).dims ≠ [] ∧ 1 < (regs.walker 2).dims.length := by decide +kernel

theorem test_meets_WalkerReadOnce : (regs.setCtl { regs.ctl with wrv := some (2, 5) }).ctl.wrv = some (2, 5) := by decide +kernel

theorem test_meets_ScalarRegisterWrite : (0 : BitVec 7) ≠ 127 ∧ (126 : BitVec 7).toNat + 1 < 128 ∧ (126 : BitVec 7).toNat % 2 = 0 := by decide

theorem test_meets_SupervisorBank : (world frSup cr).ctl.sup = true ∧ fr.ctl.sup = false ∧ 112 ≤ (112 : BitVec 7).toNat
    ∧ (111 : BitVec 7).toNat < 112 := by decide +kernel

theorem test_meets_AdvanceInClause :
    let h (n : BitVec 3) : State := regs.setCtl { regs.ctl with hdr := { regs.ctl.hdr with len := n } }
    (h 1).ctl.cpos + 1 ≤ (h 1).ctl.hdr.len.toNat + 1 ∧ (h 0).ctl.hdr.len.toNat + 1 < (h 0).ctl.cpos + 1
    ∧ (h 0).ctl.pc.toNat + 8 * ((h 0).ctl.hdr.len.toNat + 2) < 2 ^ 52 := by decide +kernel

/-! Floating point, conversions and crew instructions. -/

theorem test_meets_FloatResults : Claims.FloatTy { ri with ty := .bf16 } ∧ ({ ri with sub := 0x480 } : RI).sty = .bf16 := by decide

theorem test_meets_Rounding : 127 < Claims.codes (fmtOfTy .e4m3) ∧ (decodeF (fmtOfTy .e4m3) 126).isNan = false
    ∧ (cvtFloat (fmtOfTy .e4m3) {} (.dy false 3 (-9))).2 &&& fOF = 0 ∧ (decodeF (fmtOfTy .f32) 0x7F7FFFFF).isInf = false := by decide +kernel

theorem test_meets_ConversionResults : ({ ri with sub := 0x400, c := .num 3 } : RI).sty = .f32 ∧ ({ ri with c := .num 3 } : RI).c = .num 3 := by
  decide

theorem test_meets_CrewResults : Ty.b32.regs = 1 ∧ ({ ri with sub := 11 } : RI).subN % 8 = 3 ∧ ({ ri with sub := 11 } : RI).sub.getLsbD 3 = true
    ∧ ({ ri with a := .p 2 } : RI).a = .p 2 := by decide

/-! Control transfers. -/

/-- A crew whose two-lane fragment carries token 0x101, of which one or both branches are out. -/
def joined (n : Nat) : State :=
  { world { fr with token := 0x101 } cr with exe.joins := [(1, { used := true, gen := 1, jaddr := some 0x20100, pend := n })] }

theorem test_meets_ClauseEntryWithoutJoin : Claims.NoJoinAt regs 0x20010 ∧ Claims.NoJoinAt (joined 2) 0x20108 := by
  refine ⟨⟨.inl ?_, ?_⟩, .inr ?_, ?_⟩ <;> decide +kernel

theorem test_meets_JoinWaitsOrFuses : (∀ n ∈ [1, 2], State.newestSpill (joined n).crew (joined n).entry = none ∧ (joined n).frag.window = none
      ∧ (joined n).frag.token ≠ 0 ∧ ((joined n).joinAt 0 0x101).jaddr = some 0x20100 ∧ ((joined n).joinAt 0 0x101).pend = n)
    ∧ ((joined 1).joinAt 0 0x101).ptoken = 0 ∧ Tbl.wf (joined 1).exe.frags = true
    ∧ ∀ k, k ≠ (joined 1).fkey → ((joined 1).fragAt k).token ≠ 0x101 := by
  refine ⟨by decide +kernel, by decide +kernel, by decide +kernel, fun k h => ?_⟩
  have h0 : (joined 1).fkey = 0 := by decide +kernel
  rw [h0] at h
  have : (joined 1).fragAt k = ({} : Frag) := by
    show Tbl.get ({} : Frag) [(0, _)] k = _
    simp [Tbl.get, h]
  rw [this]; decide

theorem test_meets_UniformBranches : Claims.Moves regs ∧ Claims.Target regs (Claims.away regs 4) ∧ regs.qguard pt = true ∧ regs.qguard never = false := by
  refine ⟨.inr ?_, ⟨?_, ?_, ?_, ?_⟩, ?_, ?_⟩ <;> decide +kernel

/-- A pair v2, v3 of a crew that holds the address 0x20040 in both lanes. -/
def callRet : State := world fr { cr with vregs := [(2, List.replicate 32 0x20040)] }

theorem test_meets_CallAndReturn : callRet.fallPc < 2 ^ 52 ∧ oneWalker [.v 2] = none ∧ Claims.Target callRet 0x20040 ∧ callRet.branchLanes ≠ 0
    ∧ (∀ L ∈ lanesOf callRet.branchLanes, callRet.v64 0 none (.v 2) L = 0x20040)
    ∧ (pilotWorld { th with uni := { sregs := [(2, 0x20040)] } }).u64 0 none (.s 2) = 0x20040 := by
  refine ⟨?_, ?_, ⟨?_, ?_, ?_, ?_⟩, ?_, ?_, ?_⟩ <;> decide +kernel

/-- Lane 0 has p1, lane 1 has not: the branch divides the fragment. -/
def divided : State := world fr { cr with preds := [(1, 1)] }

theorem test_meets_DivergentBranch : (divided.joinAddr 8).toOption = some 0x20040 ∧ divided.branchLanes = 3 ∧ divided.guardMask p1 = 1 ∧ divided.guardMask never = 0
    ∧ divided.guardMask pt = 0xFFFFFFFF ∧ (Claims.away divided 4).toNat ≠ divided.fallPc ∧ divided.frag.window = none := by
  decide +kernel

theorem test_meets_SplitIntoTwo : divided.sup = false ∧ divided.frag.state = .ready ∧ divided.frag.token = 0 ∧ (divided.freshToken 0).isSome = true
    ∧ (divided.freeEntry 0 0).any (· ≠ 0) = true ∧ (divided.freeEntry 0 0).any (· < 320) = true ∧ Tbl.wf divided.exe.frags = true
    ∧ divided.crew.spills = [] := by decide +kernel

/-- A jump table at 0x20080 whose entry 1 leads 16 words on. -/
def tabled : State := { world { fr with mask := 1 } { cr with vregs := [(2, List.replicate 32 1)] } with mem := [(0x20084, 16)] }

theorem test_meets_TableBranchAndJoin : (tabled.joinAddr 8).toOption = some 0x20040
    ∧ (briDests 2 (tabled.relTarget 16) (fun L => tabled.rdV 2 L) (lanesOf 1) tabled).2 = some [(0, .to 0x20100)]
    ∧ tabled.branchLanes &&& tabled.guardMask pt = 1
    ∧ (tabled.freshToken 0).isSome = true ∧ Claims.Target tabled (Claims.away tabled 16) := by
  refine ⟨?_, ?_, ?_, ?_, ?_, ?_, ?_, ?_⟩ <;> decide +kernel

theorem test_meets_ExitLeavesLanes : oneWalker [.imm 0] = none ∧ regs.frag.errs = [] ∧ regs.act pt = 3 ∧ regs.act never = 0
    ∧ divided.act p1 = 1 ∧ divided.frag.mask &&& ~~~1 ≠ 0 ∧ (world { fr with errs := [(1, 64)] } cr).frag.errs = [(1, 64)] ∧ regs.gang.lanes = 2
    ∧ regs.released (regs.exitScope 3) = true
    ∧ (let s := world fr { cr with ops := [(0, { kind := .ld mi, owners := [0], accs := [{}] })] }; s.released (s.exitScope 3)) = false := by decide +kernel

theorem test_meets_WalkerInstructions : regs.qguard pt = true ∧ (List.range 6).map (fun k => RI.wfield { ri with sub := BitVec.ofNat 11 (8 * k) }) = List.range 6
    ∧ (match (world fr crAt).partLocs (world fr crAt).me (world fr crAt).firstLane 0x100000010 8 4 with
        | (s1, .ok _ ca, ps) => ps.all (fun p => !s1.badLine p.1)
            && s1.crew.ops = [] && s1.coh.wbuf = [] && (s1.readAll (world fr crAt).me 0 ca ps).1.coh.wbuf = [] && (s1.readAll (world fr crAt).me 0 ca ps).1.coh.wow = []
            && (s1.readAll (world fr crAt).me 0 ca ps).2.any (fun bs => bs.length = 32)
        | _ => false) = true := by decide +kernel
/-! Barriers, memory and landing counters. -/

/-- The crew's barrier 0 with two lanes as members; each may have arrived. -/
def barred (b : Barrier) : State := { world fr cr with exe.barriers := [(0, b)] }
def bar0 : Barrier := { exp := 2, units := [(0, { member := true }), (1, { member := true })] }
/-- A barrier of the gang, at which its one crew is a member. -/
def gangBar (b : Barrier) : State := { world fr cr with exe.barriers := [(1, b)] }
def crewUnit : Barrier := { exp := 1, units := [(0, { member := true })] }

theorem test_meets_LaneArrivals : RI.barLvl ri = 0 ∧ Claims.arrivers ri (barred bar0) = 3 ∧ (barred bar0).released 0 = true
    ∧ ∀ L ∈ lanesOf 3, ((((barred bar0).barAt (Claims.barOf ri (barred bar0))).units.get {} L).ph ≠ some 0
        ∧ (((barred bar0).barAt (Claims.barOf ri (barred bar0))).units.get {} L).member = true) := by decide +kernel

theorem test_meets_ArrivalRefused : ((barred { bar0 with obs := 1 }).barAt (Claims.barOf ri (barred { bar0 with obs := 1 }))).obs ≠ 0
    ∧ (barred { bar0 with obs := 1 }).released 0 = true := by decide +kernel

theorem test_meets_CrewArrivals :
    let x : RI := { ri with sub := 1 }
    RI.barLvl x = 1 ∧ Claims.barOf x (gangBar crewUnit) = 1 ∧ Claims.arrivers x (gangBar crewUnit) = 3 ∧ (gangBar crewUnit).released 1 = true
    ∧ State.barLanes (gangBar crewUnit).crew &&& ~~~3 = 0 ∧ Claims.arrivers { x with guard := never } (gangBar crewUnit) = 0
    ∧ State.barLanes divided.crew &&& ~~~1 ≠ 0 := by decide +kernel

theorem test_meets_BarrierWait :
    let s := barred { bar0 with units := [(0, { member := true, ph := some 0 }), (1, { member := true })] }
    1 ∈ lanesOf (Claims.arrivers ri s) ∧ (((s.barAt 0).units.get {} 0).ph = some 0) ∧ (barred bar0).acquired 0 = true
    ∧ (let u := world fr { cr with ops := [(0, { kind := .ld mi, owners := [0], accs := [{}] })] }; u.acquired 0) = false
    ∧ ((bar0.units.get {} 0).lanes &&& 3 = 0) := by decide +kernel

theorem test_meets_ExitLeavesBarrier :
    let a : Barrier := { bar0 with units := [(0, { member := true, ph := some 0 }), (1, { member := true, ph := some 0, bard := true })] }
    ((a.units.get {} 0).ph = some a.ph ∧ (a.units.get {} 1).bard = true) ∧ (bar0.units.get {} 0).ph ≠ some bar0.ph ∧ bar0.owed = 0
    ∧ (bar0.units.get {} 9).member = false := by decide +kernel

/-- A crew's accesses at 2^32 + 16, in its scratchpad. -/
def lds : MI := { mi with d := .v 1, a := .s 2, wid := 2 }
def scr : State := world fr crAt

theorem test_meets_EffectiveAddress : lds.a = .s 2 ∧ lds.os = false ∧ ({ lds with a := .v 4, x := .s 7, os := true } : MI).x = .s 7 := by decide

theorem test_meets_AddressTests : scr.apHit scr.me 0x20000 [0, 1, 2, 3, 4, 5] = none ∧ scr.apHit scr.me 0x100000010 [0, 1, 2, 3, 4, 5] = some (1, 0x100000000)
    ∧ (scr.apReg scr.me 1).getLsbD 1 = true ∧ State.apAdmits scr.me 1 .load = true ∧ scr.apLimit scr.me 1 = 8192 := by decide +kernel

def allAcc (rs : Option (List LaneR)) : Bool :=
  rs.any fun rs => rs ≠ [] && rs.all fun r => match r with | .acc a => !a.parked | _ => false

theorem test_meets_LoadIssues :
    let r := State.resolveLanes scr.me .load (MI.bytes lds) lds.skw [] (Claims.laneAddrs lds scr 0 (scr.mlanes lds.guard)) scr
    allAcc r.2 = true ∧ r.1.frag.window = none ∧ scr.mlanes lds.guard = [0, 1] ∧ scr.mlanes never = [] := by decide +kernel

theorem test_meets_StoresAndReds :
    let r := Claims.storeLanes lds scr 0 .store false
    let q := Claims.storeLanes { lds with wid := 4, sub := 6 } scr 0 .atomic true
    allAcc r.2 = true ∧ allAcc q.2 = true ∧ r.2.all (fun rs => Claims.storePieces lds scr rs ≠ [] && !r.1.bufferFull scr.me (Claims.storePieces lds scr rs)
      && (State.accsOf rs).all fun a => !r.1.holdBack (MI.bytes lds) r.1.relsLeft (State.accsOf rs) a) = true := by decide +kernel

theorem test_meets_OnChipStoreFrame : isGlobal (locScratch 0 8191) = false ∧ scr.coh.wbuf = [] ∧ 0 < [(7 : Byte)].length ∧ Memory.wf scr.mem = true := by decide +kernel

theorem test_meets_BufferedStore : let e : WEnt := { core := 0, line := 0, bytes := [(0x20000, 1), (0x20001, 2)] }
    e.red = none ∧ e.bytes.find? (·.1 = 0x20002) = none ∧ 1 < e.bytes.length ∧ (e.bytes.map (·.1)).Nodup := by decide

/-- A Pilot thread's accesses at 2^33 + 16, in the Basin. -/
def pil : State := pilotWorld { th with uni := { sregs := [(2, 16), (3, 2)] } }

theorem test_meets_AtomicIssues :
    let x : MI := { lds with x := .v 3, os := true }
    let y : MI := { x with d := .s 1, x := .s 3 }
    let rs := State.resolveLanes scr.me .atomic (MI.bytes x) false [] ((scr.mlanes x.guard).map fun L => (L, scr.ea x true 0 L)) scr
    allAcc rs.2 = true
    ∧ (match pil.resolveLane pil.me .atomic 4 false [] 0 (pil.ea y true 0 0) with
        | (s1, some (.acc c)) => c.locs.any (fun p => c.locs = [p] && (atomReady s1 s1.me 0 c.ca p.1 p.2.1 p.2.2).2)
        | _ => false) = true ∧ pil.mlanes y.guard = [0] ∧ pil.relsLeft = [] := by decide +kernel

theorem test_meets_CacheControl :
    let s : State := world { fr with mask := 1 } { cr with uni := { sregs := [(4, 0x20010)] } }
    let x : MI := { mi with a := .s 4 }
    s.mlanes pt = [0] ∧ s.apHit { s.me with acc := 0 } (s.ea x false 0 0).toNat [0, 1, 2, 3, 4, 5] = none ∧ s.parkedHere = none ∧ s.coh.wbuf = []
    ∧ (scr.apHit { scr.me with acc := 0 } (scr.ea x false 0 0).toNat [0, 1, 2, 3, 4, 5] = none)
    ∧ (scr.apHit { scr.me with acc := 0 } (scr.ea { x with a := .s 2 } false 0 0).toNat [0, 1, 2, 3, 4, 5]).isSome = true
    ∧ (s.laneAccess s.me 0 (s.ea x false 0 0) 1 .prefetch false).2 = .ok [(0x20010, 1)] 0
    ∧ (State.resolveLanes s.me .cctl 1 false [] [(0, s.ea x false 0 0)] s).2
        = some [.acc { lane := 0, va := 0x20010, locs := [(0x20010, 1, 0x20010)] }] ∧ isGlobal 0x20010 = true
    ∧ earlierWrite s [(0x20010, 1, 0x20010)] = none := by decide +kernel

/-- A load of the crew is still in flight. -/
def busy : State := world fr { cr with ops := [(0, { kind := .ld lds, owners := [0], accs := [{}] })] }

/-- The same, its lane parked, and with a pending error of an add-on-store. -/
def stuck : State := world { fr with errs := [(1, 64)] } { cr with ops := [(0, { kind := .ld lds, owners := [0], accs := [{ parked := true }] })] }

theorem test_meets_Fences : regs.acts pt = true ∧ regs.fenceDone true 1 (regs.exe.ids + 1) = true ∧ busy.fenceDone false 3 (busy.exe.ids + 1) = false
    ∧ busy.mayGo busy.myPrecinct true = true ∧ regs.transDone = true ∧ stuck.transDone = false ∧ stuck.frag.errs = [(1, 64)] ∧ regs.frag.errs = [] := by
  decide +kernel

theorem test_meets_TileWindow : regs.acts pt = true ∧ regs.acts never = false ∧ (0 + 64) * 128 ≤ regs.gang.spSize * 2048
    ∧ regs.gang.spSize * 2048 < (1 + 64) * 128 := by decide +kernel

theorem test_meets_LandingCounters : let s := world { fr with mask := 1 } crAt
    s.counters lds 0 [8] = ([(0, locScratch 0 16)], []) ∧ s.counters lds 0 [0, 8] = ([(0, locScratch 0 16)], []) ∧ s.helpers = 0 ∧ s.relsLeft = []
    ∧ s.counterBusy [(0, locScratch 0 16)] = none ∧ (world { fr with mask := 0 } crAt).counters lds 0 [8] = ([], [])
    ∧ Memory.readN ({ s with mem := [(locScratch 0 16, 8)] } : State).mem (locScratch 0 16) 4 ≠ 0 := by decide +kernel

/-! Matrices. -/

/-- Format block 0 of a signed byte operand pair without scales, and block 1 of nothing valid. -/
def mat : State := world fr { crAt with fbs := [(0, [0x80000000, 0, 0x80000000, 0])] }

theorem test_meets_MmaOfBytes : mat.act pt = 3 ∧ mat.act never = 0 ∧ mmaDescs (mat.fblock 1) = none
    ∧ (mmaDescs (mat.fblock 0)).any (fun d => d.1.ty = .s8 && d.2.ty = .s8 && !d.1.sc && !d.2.sc) = true := by decide +kernel

theorem test_meets_AldFromMemory :
    let rows := (List.range 16).map fun i => (i, scr.u64 0 none (.s 2) + BitVec.ofNat 64 (i * 64))
    let far := (List.range 16).map fun i => (i, scr.u64 0 none (.s 2) + BitVec.ofNat 64 (i * 8192))
    let r := State.rowsGo scr.me .load false 16 (fun _ => false) rows scr
    scr.released 3 = true ∧ scr.parkWait = false
    ∧ r.2.any (fun rs => State.rowFault rs = none && (State.rowAccs rs).all (!·.parked) && (Claims.readRows r.1.unpark rs).2.isSome) = true
    ∧ (State.rowsGo scr.me .load false 16 (fun _ => false) far scr).2.any (fun rs => (State.rowFault rs).isSome) = true := by decide +kernel

theorem test_meets_DrainOfTile :
    let x : EI := { ei with d := .tile 3, a := .s 2, b := .imm 16, sub := 1 }
    let rows := (List.range 16).map fun i => (i, scr.u64 0 none x.a + BitVec.ofNat 64 (i * 16))
    (State.rowsGo scr.me (adrnKind x) false (adrnRow x) (fun _ => false) rows scr).2.any
        (fun rs => State.rowFault rs = none && (State.rowAccs rs).all (!·.parked)) = true
    ∧ scr.parkWait = false ∧ EI.dt { x with sub := 0 } = 0 ∧ x.sub.extractLsb' 0 2 ≠ 0 := by decide +kernel

theorem test_meets_FragmentLoad :
    let rows := mat.rowAddrs (mat.u64 0 none (.s 2)) 128 (some (4, 3))
    opDesc ((mat.fblock 0).getD 0 0) 0 ≠ none ∧ opDesc ((mat.fblock 1).getD 0 0) 0 = none
    ∧ rows.all (fun q => match ldfRow mat { mat.me with acc := q.1 } false q.1 q.2 with | .acc _ => true | _ => false) = true ∧ rows.length = 2 := by decide +kernel

theorem test_meets_OperationCompletes :
    let s := world fr { cr with ops := [(5, { kind := .mma, lanes := 1, values := [(7, 0, 9)] })] }
    (s.precinct (s.precinctOfCore 0)).state = .running ∧ ((s.crewAt 0).ops.find 5).any (fun o => o.accs = [] && o.kind = .mma && o.values = [(7, 0, 9)]
      && o.lanes.getLsbD 0) = true ∧ Tbl.wf s.exe.crews = true ∧ Tbl.wf (s.crewAt 0).ops = true := by decide +kernel
/-! Exceptions, system registers and the frame pool. -/

def armed : State := { regs with mgt.precincts := [(0, { valid := true, tag := 1, armbp := true })] }

theorem test_meets_TrapMoors : regs.qguard pt = true ∧ regs.sup = false ∧ regs.qguard never = false ∧ (pilotWorld th).qguard pt = true
    ∧ (pilotWorld th).pilot = true := by decide +kernel

theorem test_meets_Breakpoint : (armed.precinct armed.myPrecinct).armbp = true ∧ (regs.precinct regs.myPrecinct).armbp = false := by decide +kernel

theorem test_meets_FragmentFault : regs.pilot = false ∧ regs.sup = false ∧ 1 ∈ lanesOf regs.frag.mask ∧ 2 ∉ lanesOf regs.frag.mask := by decide +kernel

theorem test_meets_DoubleFault : let s := world frSup cr
    s.sup = true ∧ s.frag.mask ≠ 0 ∧ Tbl.wf s.exe.frags = true ∧ (s.fkey, s.frag) ∈ s.exe.frags := by decide +kernel

/-- A fragment moored by TRAP 0, the vector table at 0x20000 whose entry for cause 0x40 holds 0x20800, and a Pilot thread of the same context. -/
def moored : State :=
  let w := world { fr with state := .moored, cause := 0x40, whole := true } cr
  { w with trn.ctxs := [(1, { live := true, tvec := 0x20001 })], mem := [(0x20201, 8), (0x20202, 2)], exe.threads := [(0, { th with spn := 1 })] }

theorem test_meets_HandlerEntry :
    let r := { moored with cur := Agent.frag 0 0 }.readVector moored.me 0x40
    (moored.fragAt 0).mask ≠ 0 ∧ (moored.fragAt 0).state = .moored ∧ (moored.crewAt 0).handling = none ∧ moored.nextMoored 0 0 = some 0
    ∧ (moored.precinct (moored.precinctOfCore 0)).state = .running ∧ moored.mayGo 0 true = true ∧ (moored.gangOfFrag 0 (moored.fragAt 0)).aborted = false
    ∧ (moored.freshToken 0).isSome = true ∧ r.2 = some (some 0x20800) ∧ r.1.cur = .frag 0 0 ∧ r.1.fragAt 0 = moored.fragAt 0 := by decide +kernel

theorem test_meets_PilotEntersHandler : let s := { moored with cur := .pilot 0 0 }
    s.thread.ctl.sup = false ∧ ((s.setThread s.thread).readVector (s.setThread s.thread).me 0x40).2 = some (some 0x20800) := by decide +kernel

/-- A handler that holds its crew's slot. -/
def handler : State := world frSup { cr with handling := some 0x101 }

theorem test_meets_ReturnFromHandler : handler.sup = true ∧ handler.crew.handling = some handler.frag.token ∧ handler.frag.xmask = 0
    ∧ (world frSup cr).crew.handling ≠ some (world frSup cr).frag.token ∧ Claims.Target handler 0x20008 := by
  refine ⟨?_, ?_, ?_, ?_, ?_, ?_, ?_, ?_⟩ <;> decide +kernel

theorem test_meets_SystemRegisters : State.supOnly 0x090 = true ∧ State.supOnly 0x080 = false ∧ regs.sup = false ∧ handler.sup = true
    ∧ (world { fr with window := some { scope := 3, fence := fr.ctl, after := fr.ctl, snap := cr } } cr).frag.window ≠ none := by
  decide +kernel

/-- A frame pool with its header at 0x20000, a ring of 64 entries at 0x21000 and so many entries. -/
def pool (n : Byte) : State :=
  { handler with
    mem := [(0x20001, 0x10), (0x20002, 2), (0x20008, 6)] ++ (if n = 0 then [] else [(0x20014, n)])
    mgt.precincts := [(0, { valid := true, tag := 1, fpool := 0x20001 })] }

theorem test_meets_PoolInstructions : ∀ n ∈ [(0 : Byte), 1, 64],
    let s := pool n
    let h := s.poolLoc
    let g := s.gatherPieces s.isl 0 true [(h, 128)]
    let s1 := g.1.countSoft s.me [(h, 128)]
    let two (k : Nat) : State × Bool := s1.gatherPieces s1.isl 0 true [(s1.poolLoc, 128), (s1.poolSlot s1.poolLoc k, 4)]
    s.sup = true ∧ s.qguard pt = true ∧ fld (s.precinct s.myPrecinct).fpool 0 1 = 1 ∧ State.unbacked s.poolPA = false ∧ s.relsLeft = [] ∧ s.released 3 = true
    ∧ g.2 = true ∧ g.1.badRead h 128 = false ∧ s1.poolLoc = h ∧ s1.poolBad h = false ∧ s1.poolCount h = n.toNat ∧ s1.poolFull h = decide (n = 64)
    ∧ ∀ k ∈ [Memory.readN s1.mem (h + 16) 4, s1.slotBefore h],
        State.unbacked (s1.slotPA h k) = false ∧ (two k).2 = true ∧ (two k).1.badRead (s1.poolSlot h k) 4 = false := by decide +kernel

/-! Clauses, waking, the Pilot, the Tender, tasks and gangs. -/

theorem test_meets_ClauseBegins : let s := world fr { cr with flags := [(3, 1)] }
    State.flag s.crew 3 ≠ 0 ∧ (⟨8, 0, 1, 7, false, false⟩ : Header).wait.getLsbD 3 = true
    ∧ (∀ k, k < 12 → (⟨4, 0, 1, 7, false, false⟩ : Header).wait.getLsbD k = true → State.flag s.crew k = 0) ∧ s.frag.errs = [] ∧ s.frag.tested = false
    ∧ State.runFits s.crew (State.runFlags ⟨4, 0, 1, 7, false, false⟩ (2, 1)) = true := by decide +kernel

/-- A fragment that waits for an operation of its crew, in flight or not, and a thread that waits for room. -/
def waits (ops : Tbl LOp) : State :=
  { world { fr with state := .waiting, wait := 4, waitFor := .op 5 } { cr with ops := ops } with
    exe.threads := [(0, { th with state := .wait, waitFor := .room }), (1, { th with state := .wait, waitFor := .op 5 })] }

theorem test_meets_Waking : (waits []).waitOver (.op 5) = true ∧ (waits [(5, {})]).waitOver (.op 5) = false ∧ ((waits []).fragAt 0).state = .waiting
    ∧ ((waits []).fragAt 0).window = none ∧ (waits []).mayGo (waits []).myPrecinct true = true ∧ ((waits []).gangOfFrag 0 ((waits []).fragAt 0)).aborted = false
    ∧ (let s := { waits [] with cur := Agent.pilot 0 0 }
       s.thread.state = .wait ∧ s.waitOver s.thread.waitFor = true ∧ (s.precinct (s.precinctOf 0)).aborts = []) := by decide +kernel

def record : List Byte := List.replicate 32 1
/-- A Pilot with an event record in its queue. -/
def posted : State := { pilotWorld th with exe.pilots := [(0, { peq := [record] })] }

theorem test_meets_EventQueue : posted.recordFree = true ∧ (pilotWorld th).recordFree = false ∧ (posted.pilotQ posted.cluster).peq = [record] := by
  decide +kernel

theorem test_meets_HaltAndIdle : (pilotWorld th).qguard pt = true ∧ (pilotWorld th).thread.idleDone = false ∧ ((pilotWorld th).pilotQ 0).peq = []
    ∧ (posted.pilotQ posted.cluster).peq ≠ [] := by decide +kernel

/-- A launch record at the start of the Basin, whose kernel descriptor follows it; s2 and s3 of the thread hold its address. -/
def launching (tasks : Nat) : State :=
  let p := pilotWorld { th with uni := { sregs := [(3, 2)] } }
  { p with mem := [(locBasin 0 0, 0x80), (locBasin 0 4, 2)], mgt.tasks := (List.range tasks).map fun k => (k, task1) }

def ok? (r : State.PRead) : Option (List Byte) := match r with | .ok bs => some bs | _ => none

theorem test_meets_TaskLaunch : ∀ n ∈ [0, 255, 256],
    let s := launching n
    let a := s.u64 0 none (.s 2)
    let r := s.resolve s.me a 128 .load
    let r2 := r.1.threadRead a 128
    (match r.2 with | .fault _ _ => false | _ => true) = true ∧ r.1.released 3 = true ∧ (r2.1.windowOf r2.1.isl).length = n
    ∧ (ok? r2.2).any (fun b => !recFlag b 6 && recF b 88 8 % 2 ^ 52 = 0 && recF b 96 8 % 2 ^ 52 = 0
        && (ok? (r2.1.threadRead (BitVec.ofNat 64 (recF b 0 8 % 2 ^ 52)) 64).2).isSome) = true
    ∧ (match (s.resolve s.me 0x10 128 .load).2 with | .fault _ _ => true | _ => false) = true := by decide +kernel

theorem test_meets_TaskLaunch_ids : (launching 0).mgt.nextTask.get 0 0 + 1 ≠ 0 ∧ (launching 0).mgt.nextTag + 1 ≠ 0 := by decide +kernel

/-- s2 and s3 name the record at the first multiple of 64 of the scratchpad, or, under `far`, one beyond its end. -/
def kicked (far : Bool) : State := world fr { cr with uni := { sregs := [(2, if far then 8192 else 64), (3, 1)] } }

theorem test_meets_TenderKick : (kicked false).kickFault 0x100000040 1 = none ∧ (kicked false).kickFault 0x100000040 127 = none
    ∧ (kicked false).kickFault 0x100000040 128 = some 7 ∧ (kicked true).kickFault ((kicked true).u64 0 none (.s 2)) 1 = some 7
    ∧ (kicked false).acts pt = true ∧ ((kicked false).tender 0).length + 127 ≤ 1024 := by decide +kernel

/-- A copy of 64 bytes within the scratchpad, with the bits of its first word that a test adds. -/
def copyRec (b2 : Byte) : List Byte :=
  [0, b2, 0, 0, 0, 0, 0, 0] ++ byteList 8 0x100000100 ++ byteList 8 0x100000200 ++ [64] ++ List.replicate 39 0

def request : TReq := { id := 3, loc := locScratch 0 64, gang := 0, crew := 0, sup := false, spn := 1, pred := 0, owners := [0] }
def queued (b2 : Byte) : State :=
  { regs with eng.tenders := [(0, [request])], mem := Memory.writeBytes [] (locScratch 0 64) (copyRec b2) }

theorem test_meets_TenderStarts : (queued 3).nextReq 0 = some request ∧ (queued 0).nextReq 0 = some request ∧ (tenderRec (copyRec 3)).malformed 8192 = false
    ∧ (tenderRec (copyRec 0)).malformed 8192 = true ∧ (tenderRec (copyRec 3)).remote = false ∧ (tenderRec (copyRec 0x23)).sphys = true
    ∧ (tenderRec (copyRec 0x23)).malformed 8192 = false ∧ Memory.readBytes (queued 3).mem (locScratch 0 64) 64 = copyRec 3
    ∧ (queued 3).badRead (locScratch 0 64) 64 = false ∧ ({ queued 3 with coh.badWords := [(locScratch 0 64) / 4] } : State).badRead (locScratch 0 64) 64 = true := by decide +kernel

theorem test_meets_TenderGranule :
    let r : TReq := { request with started := true, words := copyRec 3, flight := [0, 1] }
    let s : State := { regs with eng.tenders := [(0, [r])] }
    let t := tenderRec r.words
    (match s.resolveGranule 0 r t 0 with
      | (s1, g) =>
        let m := State.moveRows r t 0 g.todo.length g.todo s1
        m.2.1 = [] && m.2.2 = [] && g.out = [] && g.fault.isNone && ((m.1.tender 0).find? (·.id = 3)).isSome && !m.1.hostOwes (State.ownGran 3 0)
          && s1.reqForked r 5 && g.todo ≠ [] && g.todo.all fun q => q.src.length = 1 && q.dst.length = 1 && (q.src ++ q.dst).all fun p => !isGlobal p.1)
      = true ∧ Memory.wf s.mem = true ∧ t.counts? = false ∧ t.granules ≤ 1 ∧ r.next < t.granules := by decide +kernel

theorem test_meets_TenderReports : let s : State := { posted with eng.peqDue := [(0, record)] }
    (s.pilotQ 0).peq.length < 256 ∧ (s.precinct (s.precinctOf 0)).state = .running ∧ s.reqsDue 0 = [] ∧ (tenderRec (copyRec 3)).counts? = false
    ∧ Memory.wf s.mem = true := by
  decide +kernel

theorem test_meets_TaskWindow :
    let s : State := { launching 3 with mgt.tasks := [(0, { task1 with state := .entering }), (1, { task1 with state := .held })] }
    (s.windowOf 0).length < 256 ∧ s.mgt.tasks.filter (fun u => u.2.isl = 0 && u.2.state = .entering) = [(0, { task1 with state := .entering })]
    ∧ s.task 1 = some { task1 with state := .held } ∧ 256 ≤ ((launching 256).windowOf 0).length := by decide +kernel

/-- A task of one gang of 32 lanes that is ready, on an island with room. -/
def ready (n : Byte) : State :=
  { regs with mgt.tasks := [(0, task1), (1, { task1 with state := .ready, record := List.replicate 8 0 ++ [n] ++ List.replicate 119 0,
                                                         kdesc := [0, 0, 2, 0, 0, 0, 0, 0, 32] ++ List.replicate 55 0 })] }

theorem test_meets_GangPlacement : ∀ n ∈ [(0 : Byte), 1],
    (ready n).placing 0 = true ∧ ((ready n).headTask 0).any (fun h => h.1 = 1) = true ∧ ((ready n).placeNext 1).isSome = decide (n = 1) := by decide +kernel

theorem test_meets_PlacedGang : let f : State.Fit := { slot := 15, crews := [(63, 0)], sp := 0, tile := 0, cm := 0 }
    f.crews = [(63, 0)] ∧ 63 < 64 ∧ f.slot < 16 := by decide

theorem test_meets_GangFreed :
    let s : State := { regs with exe.gangs := [(0, { used := true, lanes := 2, left := 2, crews := [0], written := true })] }
    (s.gangAt 0).left = (s.gangAt 0).lanes ∧ (s.gangAt 0).written = true ∧ (s.sweepReqs 0).gangJoined 0 = true ∧ Tbl.wf s.exe.gangs = true
    ∧ (s.gangAt 1).used = false := by decide +kernel
/-! Island operations and the panel fabric. -/

/-- The Chart of island 0 lets operations reach island 1; one lane's block in s8 to s15 names it. -/
def islander (len lc : W32) : State :=
  { world { fr with mask := 1 } { cr with uni := { sregs := [(2, 16), (3, 1), (8, 1), (9, len)] ++ if lc = 0 then [] else [(10, lc), (11, 1)] } } with
    eng.fab.chart := [(1, 3)] }

theorem test_meets_OperationsIssue :
    let s := islander 64 0
    let t := islander 64 8
    let u := islander 0x1000001 0
    (s.mlanes pt).filter s.ordinary = [0] ∧ (s.mlanes never).filter s.ordinary = []
    ∧ s.parkWait = false ∧ s.issueFault (s.rdS 8) (s.rdS64 10) 64 0 (s.rdS 12) = none ∧ s.issueFault 2 0 64 0 0 = some (6, 0)
    ∧ t.issueFault (t.rdS 8) (t.rdS64 10) 64 0 0 = some (3, 1) ∧ u.issueFault (u.rdS 8) 0 (u.rdS 9).toNat 0 0 = some (2, 2)
    ∧ (State.localRanges s.me .load 64 [(0, s.v64 0 none (.s 2) 0)] s).2 = some [] ∧ s.opsOf s.pilot s.core + 1 ≤ 256 := by decide +kernel

def op0 : IslOp := { isl := 0, who := .frag 0 0, crew := 0, pilot := false, owners := [0], gang := 0, kind := .put, spn := 1, sup := false, dest := 0,
                     entry := 3, la := 0x20000, ta := 0x20100, len := 64 }
/-- An operation of the fragment is under way. -/
def remote (o : IslOp) : State := { regs with eng.ops := [(7, o)] }

theorem test_meets_NotifyWaits : (regs.precinct regs.myPrecinct).ncount = 4 ∧ regs.acts pt = true ∧ (0 ≤ ((regs.counter 3) - (0 : W32)).toInt)
    ∧ ¬ (0 ≤ ((regs.counter 3) - (1 : W32)).toInt) ∧ regs.eng.ops = [] ∧ (remote op0).mine op0 = true ∧ (7, op0) ∈ (remote op0).eng.ops := by
  decide +kernel

theorem test_meets_SourceSends :
    let r (o : IslOp) := (remote o).readSource 7 o (State.nextPiece o).1
    State.nextPiece op0 = (64, true) ∧ State.nextPiece { op0 with len := 300 } = (224, false) ∧ State.unsent op0 = true ∧ (remote op0).forked op0 = true
    ∧ (remote op0).creditReady op0 = true ∧ State.unsent { op0 with begun := true, sent := 64 } = false
    ∧ (match r op0 with | .ok s1 bs => ((s1.emit 7 op0 true bs).eng.ops.find 7).isSome | _ => false) = true
    ∧ (match r { op0 with la := 0x30000 } with | .fault _ _ => true | _ => false) = true := by decide +kernel

def descr (k : OpKind) : Desc := { ta := 0x20100, len := 2, spn := 1, sup := false, kind := k, rty := 0, n := 3, inc := 1, emask := 0, ncon := 0 }
def arr (k : OpKind) : Arr := { isl := 0, src := 0, op := 7, desc := descr k, ofs := 0, len := 2, data := [1, 2], last := true }
/-- A piece of an operation is in the arrival path. -/
def arriving (a : Arr) : State :=
  { regs with eng.arrivals := [(4, a)], eng.progs := [(7, { desc := a.desc, lastRx := true })] }

theorem test_meets_TargetPerforms :
    let s := arriving (arr .put)
    let r := s.resolveRange (State.arrWho (arr .put)) .remoteWrite 0 0x20100 2
    s.arrHeld (arr .put) = false ∧ (arr .put).done = false ∧ (arr .put).far = false ∧ (arr .notify).op / 65536 = (arr .notify).isl ∧ ({ s with mgt.dhalt := [(0, true)] } : State).arrHeld (arr .put) = true ∧ (s.ctx 0 1).live = true ∧ s.arrFull 0 = false
    ∧ (match r.2 with | .ok ls ca => ({ r.1 with eng.arrivals := r.1.eng.arrivals.put 4 { arr .put with res := some (ls, ca) } }.readyToWrite 0 ca (effHint ca 0) 0xFFFF ls).2 | _ => false) = true
    ∧ (match (s.resolveRange (State.arrWho (arr .put)) .remoteWrite 0 0x30000 2).2 with | .fault _ _ _ => true | _ => false) = true
    ∧ ((arriving (arr .notify)).eng.progs.find (0 * 2 ^ 40 + 7)).any (fun p => p.lastRx && p.desc = descr .notify) = true ∧ 3 < (s.precinct 0).ncount
    ∧ s.eng.arrivals = [(4, arr .put)] := by decide +kernel

theorem test_meets_Acknowledgements :
    let o : IslOp := { op0 with kind := .get, len := 2 }
    let s : State := { remote o with eng.acks := [{ op := 7, cause := none, reply := some (0, [1, 2], true) }] }
    (match (s.landReply 7 o 0 [1, 2]).2 with | some (.ok ()) => true | _ => false) = true
    ∧ (match (s.landReply 7 { o with la := 0x30000 } 0 [1, 2]).2 with | some (.error _) => true | _ => false) = true
    ∧ (match s.resolveRange (s.opWho o) .store 0 0x20000 2 with | (s1, .ok ls ca) => (s1.readyToWrite 0 ca 0 0xFFFF ls).2 | _ => false) = true
    ∧ s.opSaved 7 = false ∧ o.lost = false ∧ s.hostOwes (State.ownLand 7) = false
    ∧ op0.got + 2 < op0.len ∧ o.len ≤ o.got + 2 ∧ op0.dest < 2 ^ 12 ∧ ({} : Uni).rerr.getLsbD 63 = false
    ∧ ({ rerr := 0x8000000000000000 } : Uni).rerr.getLsbD 63 = true := by decide +kernel

def packet (k : OpKind) : UePacket := { rud := true, trim := false, src := 32, op := 7, k := 0, npkts := 1, desc := descr k, payload := [1, 2] }

theorem test_meets_FarAndTimeouts :
    let s : State := { arriving (arr .put) with eng.arrivals := [], eng.progs := [(7, { desc := descr .put, lastSeen := 5 })], clock := 2000005 }
    let o : IslOp := { op0 with dest := 32, packets := [{ k := 0, ent := 0, ep := 0, payload := [], resends := 8, first := 0 }] }
    s.eng.progs.find (0 * 2 ^ 40 + 7) = some { desc := descr .put, lastSeen := 5 } ∧ 5 + 2000000 ≤ s.clock ∧ ({ s with clock := 2000004 } : State).clock < 5 + 2000000
    ∧ ({ desc := descr .put, lastSeen := 5 } : Prog).mid = none ∧ (packet .notify).payload.length ≤ 4096 ∧ (packet .notify).op = 7
    ∧ ({ desc := descr .put, mid := some 7, ks := [0] } : Prog).mid = some (packet .put).op ∧ (packet .put).k ∈ ({ desc := descr .put, mid := some 7, ks := [0] } : Prog).ks
    ∧ regs.populated 0 = true ∧ regs.eng.progs.find (0 * 2 ^ 40 + (32 * 65536 + 7)) = none ∧ regs.refusedAtOnce 0 (packet .notify).desc = false
    ∧ regs.refusedAtOnce 0 { (packet .notify).desc with spn := 9 } = true
    ∧ 32 ≤ o.dest ∧ o.packets.any (fun p => decide (8 ≤ p.resends)) = true ∧ op0.packets = [] := by
  decide +kernel

/-- Islands 0 and 1 with the link between them up. -/
def linked (x y : Port) : State := { regs with eng.fab.ports := [(1, { x with link := 2 }), (7, { y with link := 2 })] }

def flit0 : Flit := { route := 0, hops := 0, taken := 0, dst := 0, src := 1, cls := 0, typ := 0, first := true, last := true, seq := 0, cmb := false, rsv := 0,
                      optag := 0, flen := 0, crc := 0, payload := [] }

/-- A flit's check does not cover its own CRC field (R398), so a whole flit and a damaged one exist. -/
theorem test_whole_and_damaged_flits (f : Flit) : flitCrc { f with crc := flitCrc f } = flitCrc f ∧ flitCrc { f with crc := flitCrc f + 1 } ≠ flitCrc f + 1 := by
  have h (c : W32) : flitCrc { f with crc := c } = flitCrc f := by simp only [flitCrc, flitHead]
  refine ⟨h _, fun e => ?_⟩
  rw [h] at e
  simp at e

theorem test_meets_LinkProtocol :
    let s := linked {} {}
    s.neighbour 0 1 = some 1 ∧ s.linkUp 0 1 = true ∧ s.neighbour 0 3 = none
    ∧ ((s.pump 1 3).port 0 1).expect = flit0.seq ∧ ((s.pump 1 3).port 0 1).reorder = [] ∧ 1024 ≤ ((4095 : BitVec 12) - 0).toNat ∧ 1 * 4 + 3 ≠ 0 * 4 + 1 := by
  decide +kernel

theorem test_meets_LinkProtocol_resend :
    let x : Port := { repeats := [0], acks := [0], unacked := [{ flit := flit0, at_ := 5 }] }
    let s : State := { linked x {} with clock := 4005 }
    0 ∈ (s.port 0 1).repeats ∧ (s.port 0 1).unacked = [{ flit := flit0, at_ := 5 }] ∧ 5 + 4000 ≤ s.clock ∧ 0 ∈ (s.port 0 1).acks
    ∧ 1 ∉ (s.port 0 1).repeats ∧ 4004 < 5 + 4000 := by decide +kernel

theorem test_meets_LinksAndCredits :
    let s : State := { regs with eng.fab.ports := [(1, { link := 1 }), (7, { link := 1 })], eng.fab.returns := [(State.creditKey 0 1 1, 1)] }
    s.neighbour 0 1 = some 1 ∧ (s.port 0 1).link = 1 ∧ 0 ∉ s.mgt.stoppedIsl ∧ 1 ∉ s.mgt.stoppedIsl ∧ s.linkUp 0 1 = false ∧ (linked {} {}).linkUp 0 1 = true
    ∧ s.eng.fab.returns.get 0 (State.creditKey 0 1 1) ≠ 0 ∧ s.eng.fab.returns.get 0 (State.creditKey 0 1 0) = 0 ∧ s.task 0 = some task1 ∧ task1.isl = 0
    ∧ (s.precinct task1.precinct).state = .running ∧ ((s.setPrecinct 0 { s.precinct 0 with state := .halted }).precinct task1.precinct).state ≠ .running := by
  decide +kernel

theorem test_meets_Steering :
    let s : State := { linked {} { steer := [.propose 9 0 1] } with clock := 20000, eng.fab.colours := [(9, { cleared := some 5 })] }
    s.eng.fab.windows.get 0 0 + 20000 ≤ s.clock ∧ regs.clock < 20000 ∧ (s.colour 0 9).cleared = some 5 ∧ SteerMsg.propose 9 0 1 ∈ (s.port 1 (opposite 1)).steer
    ∧ ((s.setPort 1 3 {}).ingress 0 9) = false ∧ (({ s with eng.fab.colours := [(256 + 9, { port := 3 })] } : State).ingress 0 9) = true := by decide +kernel

/-! Command queues, precincts, halts, exchanges and aborts. -/

/-- Queue 0 of the precinct in context 1 with its ring at the start of the Basin, holding one command; a launch record and a kernel
descriptor stand at 0x1000 and 0x1080 of the Basin. -/
def commanded (c : List Byte) : State :=
  let m := Memory.writeBytes [] (locBasin 0 0) (c ++ List.replicate (64 - c.length) 0)
  let m := Memory.writeBytes m (locBasin 0 0x1000) (byteList 8 0x200001080 ++ [1])
  { regs with mgt.queues := [(0, { base := 0x200000000, log := 4, spn := 1, en := true, tail := 1 })]
              mem := Memory.writeBytes m (locBasin 0 0x1080) (byteList 8 0x20000 ++ [32, 0, 8]) }

def turns (c : List Byte) : Bool :=
  let s := commanded c
  let d := c ++ List.replicate (64 - c.length) 0
  s.queueLive 0 && (s.nextCommand 0).2 = .ok d && s.mayStart 0 d && s.actable 0 d && s.nextQueue 0 = some 0

def launchC : List Byte := [1, 0, 0, 0, 0, 0, 0, 0] ++ byteList 8 0x200001000 ++ [1]
def waitC : List Byte := [2, 0, 0, 0, 0, 0, 0, 0] ++ [3, 0x80]
def notifyC : List Byte := [3, 0, 0, 0, 0, 0, 0, 0] ++ [0, 0, 0, 0, 3, 0, 0, 0, 1]
def copyC : List Byte := [4, 0, 0, 0, 0, 0, 0, 0] ++ byteList 8 0x200002000 ++ byteList 8 0x200003000 ++ [64]
def markC : List Byte := [5, 0, 0, 0, 0, 0, 0, 0] ++ byteList 8 0x200002000

theorem test_meets_CommandsBegin : turns launchC = true ∧ turns waitC = true ∧ turns notifyC = true ∧ turns copyC = true ∧ turns markC = true := by decide +kernel

theorem test_meets_CommandsBegin_effects :
    let n (c : List Byte) := (commanded c).nextCommand 0
    (n launchC).1.launchBad launchC = none ∧ State.launchIslands launchC = [0]
    ∧ (match ((n launchC).1.taskOn 0 launchC 0).2 with | .ok _ => true | _ => false) = true
    ∧ (n waitC).1.waitBad 0 waitC = none ∧ (n notifyC).1.notifyBad 0 notifyC = none ∧ (n copyC).1.copyBad 0 copyC = none
    ∧ (match ((n copyC).1.copyRanges 0 copyC).2 with | .ok _ _ => true | _ => false) = true ∧ State.markBad markC = none
    ∧ ((n markC).1.agentWrite 0 1 (State.ownCmd 0 0) 0x200002000 (List.replicate 8 0)).2 = some none
    ∧ (commanded waitC).startedOf 0 2 (fun d => (commanded waitC).waitDone 0 d.body) = none
    ∧ (commanded markC).startedOf 0 5 (fun d => !(commanded markC).hostOwes (State.ownCmd 0 d.idx)) = none
    ∧ ((n markC).1.agentWrite 0 1 (State.ownCmd 0 0) 0x200002000 (List.replicate 8 0)).1.hostOwes (State.ownCmd 0 0) = false
    ∧ ((commanded copyC).queue 0).started.filter (·.op = 4) = [] ∧ ((n markC).1.queue 0).head = 0 ∧ ((n markC).1.queue 0).home = 0 := by decide +kernel

theorem test_meets_CommandsStop :
    let n (c : List Byte) := (commanded c).nextCommand 0
    turns [6] = true ∧ turns [0] = true ∧ turns [1] = true ∧ (n [1]).1.launchBad [1] = some 2 ∧ turns [3, 0, 0, 0, 0, 0, 0, 0, 4] = true
    ∧ (n [3, 0, 0, 0, 0, 0, 0, 0, 4]).1.notifyBad 0 [3, 0, 0, 0, 0, 0, 0, 0, 4] = some 2 ∧ turns [5, 0, 0, 0, 0, 0, 0, 0, 1] = true
    ∧ State.markBad [5, 0, 0, 0, 0, 0, 0, 0, 1] = some 3
    ∧ (let s : State := { regs with mgt.queues := [(0, { en := true, spn := 1, started := [{ idx := 0, op := 2, body := waitC }] })] }
       (s.startedOf 0 2 fun d => s.waitDone 0 d.body).isSome) = true ∧ (regs.queue 0).en = false := by decide +kernel

theorem test_meets_CopyAdvances :
    let d : Cmd := { idx := 0, op := 4, body := copyC }
    let s : State := { commanded [] with mgt.queues := [(0, { spn := 1, en := true, started := [d] })] }
    let r := s.agentRead 0 1 0x200002000 64
    (s.queue 0).started.filter (·.op = 4) = [d] ∧ s.copyNext 0 = false ∧ d.copied < recF d.body 24 8
    ∧ (match r.2 with | .ok bs => let u := r.1.agentWrite 0 1 (State.ownCmd 0 0) 0x200003000 bs
                            u.2 = some none && (u.1.queue 0).started = [d] && !u.1.hostOwes (State.ownCmd 0 0) | _ => false) = true := by
  decide +kernel

theorem test_meets_QueueRegisters : regs.booted = true ∧ ((commanded []).queue 0).en = true ∧ (regs.queue 0).en = false
    ∧ (2 ^ ((commanded []).queue 0).log < ((17 : W32) - ((commanded []).queue 0).head).toNat)
    ∧ (((16 : W32) - ((commanded []).queue 0).head).toNat ≤ 2 ^ ((commanded []).queue 0).log) := by decide +kernel

theorem test_meets_BeforeBoot : State.reset.booted = false := by decide +kernel

/-- The precinct in a state, with no agent on its clusters. -/
def still (x : PrState) : State :=
  { regs with exe := {}, mgt.tasks := [], mgt.precincts := [(0, { valid := true, tag := 1, state := x })] }

theorem test_meets_HaltOfPrecinct : regs.booted = true ∧ (regs.precinct 0).state = .running ∧ regs.debugging 0 = false
    ∧ (∀ f ∈ regs.exe.frags, f.2.window = none) ∧ ((still .halting).precinct 0).state = .halting ∧ (still .halting).haltDone 0 = true
    ∧ ({ regs with mgt.dhalt := [(0, true)] } : State).debugging 0 = true := by decide +kernel

theorem test_meets_WindowDiscarded :
    (((world { fr with window := some { scope := 3, fence := fr.ctl, after := fr.ctl, snap := cr } } cr).fragAt 0).window).isSome = true := by decide +kernel

theorem test_meets_ResumePrecinct : let s := still .halted
    s.booted = true ∧ (s.precinct 0).valid = true ∧ (s.precinct 0).state = .halted ∧ (s.precinct 0).door = false ∧ (∀ c ∈ s.coresOf 0, s.tender c = [])
    ∧ s.eng.replays = [] ∧ s.mgt.tasks = [] := by decide +kernel

theorem test_meets_ExchangePrecinct :
    let inn : State := { still .exchanging with mgt.precincts := [(0, { valid := true, tag := 1, state := .exchanging, image := 1 })] }
    (still .halted).inTheWay [0] = [] ∧ (still .halted).debugging 0 = false ∧ (still .exchanging).buffered? 0 = false ∧ (still .exchanging).others 0 = []
    ∧ ((still .exchanging).precinct 0).image = 0 ∧ inn.others 0 = [] ∧ inn.imageBad 0 = false ∧ (inn.precinct 0).image ≠ 0 := by decide +kernel

theorem test_meets_AbortOfTag :
    let s : State := { still .running with mgt.precincts := [(0, { valid := true, tag := 1, aborts := [5] })] }
    5 ∈ (s.precinct 0).aborts ∧ s.debugging 0 = false ∧ (s.precinct 0).state = .running ∧ s.exe.gangs = [] ∧ s.exe.threads = [] ∧ s.mgt.tasks = []
    ∧ ((still .swapped).precinct 0).state = .swapped ∧ ((still .halting).precinct 0).state = .halting := by decide +kernel

theorem test_meets_DebugAndWake :
    let s : State := { regs with exe.threads := [(0, { th with state := .idle }), (1, { th with state := .wait, waitFor := .doorbell })] }
    s.holdsCluster 0 0 = true ∧ (1 : BitVec 4).getLsbD 0 = true ∧ s.populated 0 = true ∧ (∀ f ∈ s.exe.frags, f.2.window = none) ∧ s.eng.arrivals = []
    ∧ ({ s with mgt.dhalt := [(0, true)] } : State).mgt.dhalt.get false 0 = true ∧ ((still .swapped).precinct 0).state = .swapped := by decide +kernel
/-! Precincts, contexts, registers, start-up and power. -/

theorem test_meets_PrecinctLife :
    let v : W64 := 0x8000000001000010
    regs.booted = true ∧ (regs.precinct 1).valid = false ∧ v.getLsbD 63 = true ∧ ({ regs with mgt.precincts := [] } : State).createBad 1 (State.withPdesc {} v) = false
    ∧ regs.createBad 1 (State.withPdesc {} v) = true ∧ fld v 22 15 = 4 ∧ (regs.precinct 0).valid = true ∧ (regs.precinct 0).state = .running
    ∧ ((still .halted).precinct 0).state = .halted ∧ (∀ c ∈ ({ still .halted with trn := {} } : State).trn.ctxs, c.2.live = true → c.2.precinct ≠ 0) := by
  decide +kernel

/-- A context command of precinct 0 is under way; its descriptor names the SPN and a table root. -/
def busyCtx (s : State) (cmd spn : Nat) (root : Byte) : State :=
  let x := s.precinct 0
  { s.setPrecinct 0 { x with ctxbusy := true, ctxcmd := cmd, ctxspn := spn, ctxaddr := 128 } with
    mem := Memory.writeBytes [] (locHost 128) [BitVec.ofNat 8 spn, 0, 0, 0, 0, 0, 0, 0, 0, root] }

theorem test_meets_ContextLife :
    let ok (s : State) : Bool := match s.ctxDescr 0 with | .ok d => recF d 0 2 = (s.precinct 0).ctxspn && (State.ctxOf 0 d).live | .error _ => false
    let a := busyCtx regs 1 2 0
    let b := busyCtx (still .running) 2 1 0
    let c := busyCtx regs 2 1 0x40
    let d := busyCtx (still .running) 3 1 0
    regs.booted = true ∧ (regs.precinct 0).ctxbusy = false ∧ ok a = true ∧ (a.precinct 0).ctxcmd = 1 ∧ (a.ctx 0 2).live = false
    ∧ ok b = true ∧ (b.ctx 0 1).live = true ∧ (b.ctx 0 1).precinct = 0 ∧ b.ctxActive 0 1 = false ∧ ok c = true ∧ c.ctxActive 0 1 = true
    ∧ (c.ctx 0 1).ptroot ≠ 0x4000 ∧ (d.precinct 0).state ≠ .failed ∧ d.ctxIdle 0 1 = true ∧ d.coh.l1 = [] ∧ d.coh.partials = [] := by decide +kernel

theorem test_meets_ContextLife_errors :
    let s (a : W64) : State := regs.setPrecinct 0 { regs.precinct 0 with ctxbusy := true, ctxcmd := 2, ctxaddr := a }
    ((s 64).precinct 0).ctxaddr.toNat % 128 ≠ 0 ∧ ((s 0x800000000000).precinct 0).ctxaddr.toNat % 128 = 0 ∧ 2 ^ 47 ≤ ((s 0x800000000000).precinct 0).ctxaddr.toNat
    ∧ (match (s 64).ctxDescr 0 with | .error e => e = 3 | .ok _ => false) = true ∧ ((s 0).ctx 0 9).live = false := by decide +kernel

theorem test_meets_ModuleRegisters :
    let s : State := { regs with mgt.mod := { regs.mgt.mod with hpoBusy := true, hpoPage := 7, hpoIsl := 3 } }
    regs.mgt.mod.mode ≠ 3 ∧ regs.mgt.mod.hpoBusy = false ∧ s.coh.hostOwner.get 0 7 = 0 ∧ s.mgt.mod.hpoIsl < 20 ∧ 2000 ≤ fld (2000 : W64) 0 16
    ∧ fld (30100 : W64) 0 16 ≤ 30100 ∧ Tbl.wf ({ regs with mgt.counters := [(3, 9)] } : State).mgt.counters = true := by decide +kernel

theorem test_meets_FabricRegisters :
    let s := linked {} {}
    let up : State := { regs with eng.fab.ports := [(1, { link := 2 }), (7, { link := 2 })] }
    16 ≤ fld (0xA010 : W64) 0 8 ∧ fld (0xA010 : W64) 8 8 ≤ 160 ∧ 0 + fld (0xA010 : W64) 0 8 + (s.port 0 1).res ≤ (s.workingColours 0).length
    ∧ fld (0x0F10 : W64) 8 8 < fld (0x0F10 : W64) 0 8 ∧ s.populated 0 = true ∧ (1 : W64).getLsbD 1 = false ∧ (0x1103 : W64).getLsbD 1 = true
    ∧ fld (0x1103 : W64) 8 4 = 1 ∧ up.routeOk 1 1 1 0 = true ∧ s.routeOk 1 1 0 0 = false ∧ (4 : W64).getLsbD 2 = true ∧ s.mgt.mod.mode = 1
    ∧ (({ s with eng.fab.colours := [(5, { fault := true })] } : State).colour 0 5).fault = true ∧ (s.colour 0 5).fault = false := by decide +kernel

theorem test_meets_RegisterWriteActs :
    (∃ t, Claims.Gives (.precinctCreate 1 0x8000000000000010) regs t) ∧ (∃ t, Claims.Gives (.precinctFree 0) regs t) ∧ (∃ t, Claims.Gives (.poolDoorbell 0) regs t)
    ∧ (∃ t, Claims.Gives (.queueDoorbell 0 3) regs t) ∧ (∃ t, Claims.Gives (.debugHalt 0) regs t) ∧ (∃ t, Claims.Gives (.pwrcapWrite 3000) regs t)
    ∧ (∃ t, Claims.Gives (.resume 0) regs t) ∧ regs.booted = true ∧ (regs.precinct 0).armbp = false ∧ fld (2 : W64) 0 3 = 2
    ∧ (regs.precinct 0).valid = true ∧ regs.mgt.dhalt.get false 0 = false ∧ 0x1000 + 4 < 0x80000
    ∧ (∀ k ∈ [1, 2, 3], fld (BitVec.ofNat 64 k) 0 2 = k) ∧ (∀ k ∈ [1, 2, 3, 4, 5, 6], fld (BitVec.ofNat 64 k) 0 3 = k)
    ∧ (regs.precinct 0).ctxbusy = false ∧ regs.populated 0 = true ∧ regs.mgt.mod.mode ≠ 3 ∧ regs.mgt.mod.hpoBusy = false := by
  exact ⟨⟨_, rfl⟩, ⟨_, rfl⟩, ⟨_, rfl⟩, ⟨_, rfl⟩, ⟨_, rfl⟩, ⟨_, rfl⟩, ⟨_, rfl⟩, by decide +kernel⟩

def plan0 : BootPlan := ⟨true, none, 0xFFFFF, true⟩

theorem test_meets_StartUp : State.reset.unhealthy plan0 ≤ 2 ∧ 2 < State.reset.unhealthy { plan0 with healthy := 0xFFFF8 }
    ∧ ({ plan0 with fail := some (2, 4) } : BootPlan).fail = some (2, 4) ∧ State.reset.mgt.mod.mode = 0 ∧ regs.mgt.mod.mode ≠ 0
    ∧ State.reset.mgt.mod.attempts < 2 ∧ 2 ≤ ({ State.reset with mgt.mod.attempts := 2 } : State).mgt.mod.attempts := by decide +kernel

theorem test_meets_Attestation :
    let s : State := { regs with mgt.mod := { regs.mgt.mod with digests := [1, 2, 3, 4, 5, 6] } }
    s.booted = true ∧ s.mgt.mod.digests[6 - 1]? = some 6 ∧ s.mgt.mod.digests.length = 6 ∧ State.reset.booted = false := by decide +kernel

theorem test_meets_PowerAndHeat :
    let low : State := { regs with mgt.mod := { regs.mgt.mod with clocks := [(0, 1000)] } }
    let slow : State := { regs with mgt.mod := { regs.mgt.mod with clocks := [(0, 1000)], ratio := [(0, 8)] } }
    regs.populated 0 = true ∧ 0 ∉ regs.mgt.stoppedIsl ∧ ({ regs with mgt.precincts := [] } : State).mgt.precincts = [] ∧ regs.booted = true
    ∧ regs.shareOf = 1502 ∧ 1000 < regs.clockOf 0 ∧ low.clockOf 0 ≤ 1000 ∧ low.ratioOf 0 < 8 ∧ slow.clockOf 0 ≤ 1000 ∧ 8 ≤ slow.ratioOf 0
    ∧ 1 < slow.ratioOf 0 := by decide +kernel

/-! Translation, coherence and the host's own requests. -/

def who0 : Who := { isl := 0, tlb := 0, spn := 1, sup := false }
/-- The page's entry replaced. -/
def pageIs (p : W64) : State := { regs with trn.tlb := [{ page 0 with pte := p }] }

theorem test_meets_Translations :
    let found (s : State) (p : W64) : Bool := match s.lookup who0 0x20010 with | (s1, .ok q 65536 0 4 _) => p = q && (s1.precinct 0).tag = 1 | _ => false
    (regs.ctx 0 1).live = true ∧ found regs 0x2131D = true ∧ (0x2131D : W64).getLsbD 1 = false ∧ fld (0x2131D : W64) 12 4 = 1
    ∧ (0x2131D : W64).getLsbD 5 = false ∧ (0x2131D : W64).getLsbD 9 = true ∧ fld (0x2131D : W64) 6 2 ≠ 2
    ∧ found (pageIs 0x2131F) 0x2131F = true ∧ (0x2131F : W64).getLsbD 1 = true ∧ found (pageIs 0x2231D) 0x2231D = true ∧ fld (0x2231D : W64) 12 4 ≠ 1
    ∧ found (pageIs 0x2133D) 0x2133D = true ∧ (0x2133D : W64).getLsbD 5 = true ∧ found (pageIs 0x21311) 0x21311 = true
    ∧ (0x21311 : W64).getLsbD 2 = false ∧ (0x21311 : W64).getLsbD 3 = false ∧ State.needsRead .load = true ∧ State.needsRead .store = false
    ∧ State.needsWrite .store = true := by decide +kernel

theorem test_meets_Invalidation :
    let s : State := { regs with trn.tinvs := [(0, 0, 5)] }
    let d : TackDue := { isl := 0, tlb := 0, line := 5, pages := [] }
    let u (n : Nat) (b : List WEnt) : State := { regs with trn.tacks := [d], coh.lines := [(5, { tx := true, tacksDue := n })], coh.wbuf := b }
    let b : WEnt := { core := 0, line := 9, bytes := [], spn := 1, vas := [0x20000] }
    let e : TackDue := { d with pages := [(1, 0x20000, 65536)] }
    s.trn.tinvs.find? (fun t => t.1 = 0 && t.2.1 = 0 && sliceOf (lineNo t.2.2) = sliceOf (lineNo (0 * 2 ^ 41 + 5))) = some (0, 0, 0 * 2 ^ 41 + 5)
    ∧ (0, 1, 0 * 2 ^ 41 + 5) ∉ s.trn.tinvs
    ∧ (u 2 []).trn.tacks.find? (fun d => d.isl = 0 && d.tlb = 0 && d.line = 0 * 2 ^ 41 + 5) = some d ∧ ((u 2 []).unstick d).drained d = true
    ∧ 1 < (((u 2 []).unstick d).line 5).tacksDue
    ∧ (((u 1 []).unstick d).line 5).tacksDue = 1 ∧ (((u 1 []).unstick d).line 5).held = [] ∧ Claims.Drained ((u 1 []).unstick d)
    ∧ (({ (u 1 []).unstick d with trn.tacks := [] } : State).setLine 5 {}).claimed 5 5 = false
    ∧ ((u 1 [b]).unstick e).drained e = false := by unfold Claims.Drained; decide +kernel

/-- A request of agent 3 for line 5 of island 0, which is at its home as given. -/
def asked (k : ReqKind) (x : Line) : State :=
  { regs with coh.reqs := [(8, { isl := 0, agent := 3, line := 5, kind := k, tag := 1, spn := 1, va := 0x280, born := 0, sent := 0 })], coh.lines := [(5, x)] }

theorem test_meets_HomeServes :
    let go (k : ReqKind) : Bool :=
      let s := asked k { owntag := 1 }
      match s.req 8 with
      | none => false
      | some r =>
        let o := s.ownTag 5 r.tag
        let h := o.1.hostFill 5 (decide (r.kind ≠ .read))
        let f := h.1.fillL2 5 r.hint r.ways r.turn
        let x := f.1.line 5
        r.state = 0 && s.firstReq r && s.hasEntry r && (s.helperGrant 8 r).isNone && State.unblocked (s.line 5) && o.2 && h.2 = .ok && f.2 && x.ukey.isNone
          && !State.replicated x && x.hs0 = .I && x.hs1 = .I && x.trSharers = 0 && x.tokens = 144 && !State.keepsToken x
    (asked .read {}).req 9 = none ∧ go .read = true ∧ go .own = true ∧ go (.upd ⟨0, 4⟩) = true
    ∧ ((asked .own { trans := .recall }).line 5).trans ≠ .qf ∧ isHost (lineLoc 5) = false ∧ State.keepsToken { trSharers := 1 } = true
    ∧ 4 ∈ State.sharersOf (.ptr [4]) := by decide +kernel

/-- R54: LD.el, then ST with no suffix, of one crew to one line, the store's touch first: the line ends with no mark. -/
theorem test_touches_in_issue_order :
    let s : State := ({ regs with exe.crews := [(0, { ops := [(3, {})] })] } : State).setCline 0 0 5 { tokens := 144 }
    let t := (s.touch 0 0 5 0 { crew := 1, po := 7 }).touch 0 0 5 2 { crew := 1, po := 3 }
    (t.cline 0 0 5).mark = .none ∧ ((s.touch 0 0 5 0 { crew := 1, po := 3 }).touch 0 0 5 2 { crew := 1, po := 7 }).cline 0 0 5 ≠ {} := by decide +kernel

theorem test_meets_TokensConserved : 144 ≤ ((asked .read {}).line 5).tokens
    ∧ Tbl.wf ({ regs with coh.l1 := [(cacheKey 0 143 5, { tokens := 3 })] } : State).coh.l1 = true := by decide +kernel

theorem test_meets_TokensArrive :
    let fl (d : TokDest) : Flight := { dest := d, n := 44, owner := false }
    let s (d : TokDest) (t : Transient) : State := { regs with coh.lines := [(5, { tokens := 100, trans := t, flight := [fl d] })] }
    let w : State := { asked .read { owntag := 1, tokens := 100, flight := [fl (.agent 9)] } with
                       coh.reqs := [(8, { isl := 0, agent := 3, line := 5, kind := .read, tag := 1, spn := 1, va := 0x20280, born := 0, sent := 0, state := 3 })] }
    ((s .home .none).line 5).flight.find? (fun f => f.dest = .home && f.n = 44 && f.owner = false) = some (fl .home)
    ∧ (s .home .none).firstFlight 5 (fl .home) = true ∧ ((s .home .none).line 5).trans = .none ∧ Claims.Drained (s .home .none) ∧ (s .home .none).winner 5 = none
    ∧ ((s (.agent 9) .recall).line 5).trans = .recall ∧ w.drawnTo 5 = some 3 ∧ (s (.agent 9) .none).drawnTo 5 = none ∧ (s (.agent 9) .none).coh.reqs = []
    ∧ (({ regs with coh.l1 := [(cacheKey 0 9 5, { tokens := 3 })] } : State).cline 0 9 5).tokens ≠ 0 ∧ (s (.agent 3) .none).cline 0 3 5 = {}
    ∧ w.covered 0 3 1 0x20280 = true ∧ w.covered 0 3 1 0x280 = false := by
  unfold Claims.Drained; decide +kernel

theorem test_meets_HoldersAnswer :
    let due (k : FwdKind) : Fwd := { to_ := 3, kind := k }
    let f (k : FwdKind) (o : Nat) : State := { asked .read {} with coh.lines := [(5, { tokens := 100, owntag := o, fwds := [due k] })] }
    ((f .recall 0).line 5).fwds.find? (fun g => g.to_ = 3 && g.kind = .recall) = some (due .recall) ∧ (f .recall 0).firstFwd 5 (due .recall) = true
    ∧ (f .recall 9).foreign 5 3 = true ∧ (f .recall 2).foreign 5 3 = false ∧ (f (.take 8 9) 0).drawnTo 5 = none ∧ (f (.take 8 9) 0).foreign 5 3 = false
    ∧ regs.coh.partials.find (cacheKey 0 9 5) = none
    ∧ ((asked .read { replicas := [{ slice := 7 }] }).line 5).replicas.any (fun r => r.live && r.slice = 7) = true
    ∧ State.unblocked ((asked .read { replicas := [{ slice := 7 }] }).line 5) = true := by decide +kernel

theorem test_meets_StarvedRequests :
    let r (st n : Nat) : Req := { isl := 0, agent := 3, line := 5, kind := .read, tag := 1, spn := 1, va := 0, born := 0, sent := 0, retries := n, state := st }
    let s (st n : Nat) : State := { regs with coh.reqs := [(8, r st n)], clock := 2048 }
    let full : State := { s 2 4 with coh.prt := [(5, List.range 32)] }
    (s 0 3).req 8 = some (r 0 3) ∧ (r 0 3).sent + 2048 ≤ (s 0 3).clock ∧ 4 ≤ (r 1 4).retries ∧ (s 2 4).req 8 = some (r 2 4) ∧ (s 2 4).firstReq (r 2 4) = true
    ∧ ((s 2 4).line 5).held.contains (.req 8) = false ∧ ((asked .read { held := [.req 8] }).line 5).held.contains (.req 8) = true
    ∧ ((s 2 4).coh.prt.get [] (State.prtKey 5)).length < 32 ∧ 32 ≤ (full.coh.prt.get [] (State.prtKey 5)).length ∧ full.winner 5 = none
    ∧ ((s 2 4).line 5).trans ≠ .qf ∧ (s 5 4).req 8 = some (r 5 4) ∧ (∀ q ∈ (s 5 4).coh.reqs, q.1 ≠ 8 → q.2.line ≠ 5) ∧ Tbl.wf (s 5 4).coh.reqs = true := by
  decide +kernel

theorem test_meets_HotLines :
    let s (x : Line) : State := { regs with coh.hot := [{ slice := 5, line := 5, count := 256, first := 0, used := 0 }], coh.lines := [(5, x)] }
    regs.isHot 5 = false ∧ (s {}).isHot 5 = true ∧ State.mayReplicate ((s {}).line 5) = true ∧ 4 ≤ ((s {}).line 5).tokens
    ∧ State.mayReplicate ((s { trSharers := 1 }).line 5) = false ∧ (∀ e ∈ (s {}).coh.lines, e.2.redirects = [])
    ∧ ∀ d ∈ [24, 48, 72], (s {}).l2Ways 0 ((sliceOf 5 + d) % 96) (setOf 5) = [] := by decide +kernel

theorem test_meets_HostMemory : regs.populated (0x40 / 2 ^ 39) = true ∧ Claims.Idle (regs.line (hdmLine 0x40)) ∧ Claims.Drained regs ∧ Memory.wf regs.mem = true
    ∧ regs.populated (20 * 2 ^ 39 / 2 ^ 39) = false ∧ ((asked .read { trans := .recall }).line 5).trans ≠ .none := by
  unfold Claims.Drained Claims.Idle; decide +kernel

theorem test_meets_BackInvalidation :
    let s (h : List (Nat × Nat × Bool)) : State := { regs with coh.lines := [(5, { trans := .biw, bisnp := [(0, true), (1, false)] })], coh.heldM2S := h }
    let m : State := { s [(5, 0, false)] with coh.bridge := [.hostMemrd 0x280 .cur] }
    ((s []).line 5).trans = .biw ∧ ((s []).line 5).bisnp = (0, true) :: (1, false) :: [] ∧ (5, 0, false) ∉ (s []).coh.heldM2S ∧ (s []).bridgeFor 5 0 = []
    ∧ (regs.line 5).trans ≠ .biw ∧ m.bridgeFor 5 0 = [.hostMemrd 0x280 .cur] ∧ (m.hostDo (.hostMemrd 0x280 .cur) true).2 = true
    ∧ (let u : State := { m with coh.lines := [(5, { trans := .biw, tokens := 100, bisnp := [(0, true), (1, false)] })] }
       (u.hostDo (.hostMeminv 0x280 .A) true).2) = false := by decide +kernel

theorem test_meets_HostCoherentLines :
    let s (x : Line) : State := { regs with coh.lines := [(5, x)] }
    let w : Wow := { core := 0, half := 5, po := 0 }
    ((s {}).line 5).owned = none ∧ Claims.Idle ((s { owned := some true }).line 5) ∧ ((s { owned := some true }).line 5).hostOwn = []
    ∧ ((s { owned := some false }).line 5).owned = some false ∧ ((s { hostOwn := [(1, true)] }).line 5).hostOwn = [(1, true)]
    ∧ ({ regs with coh.wow := [w] } : State).coh.wow.find? (fun v => v.half = (lineLoc (2 ^ 32 * 2 ^ 9 + 2) - 2 ^ 48) / 64 + 1 && v.core / 144 = 0) = none
    ∧ Claims.Drained regs := by unfold Claims.Idle Claims.Drained; decide +kernel

/-! Decoding, one step, frames, invariants. -/

/-- The words of a state's next step, where its agent fetches at its place in a clause. -/
def nextWords (s : State) : Option (State × List W64) :=
  match s.pick with
  | .agent a => match (s.forAgent a).fetchHere with | (s1, .ok ws) => some (s1, ws) | _ => none
  | _ => none

theorem test_meets_UnassignedCodes :
    ((0x5C70000000000000 : W64).extractLsb' 56 8).toNat ∈ Claims.unassignedCodes ∧ (0xFF70000000000000 : W64).extractLsb' 56 8 = 0xFF
    ∧ (nextWords (State.reset.withFetchWord 64 0x5C70000000000000)).any (fun p => p.2.getD p.1.ctl.cpos 0 = 0x5C70000000000000) = true
    ∧ (match decodeHeader 0xFF0040F200000000 with | .ok _ => true | .error _ => false) = true := by decide +kernel

theorem test_meets_DecodeEncode : Instr.wf false (.bri { ri with a := .v 6, b := .imm 5, c := .lit, lit := some 0x0000000200004000 }) = true
    ∧ Instr.wf true (.halt ri) = true ∧ (0xF070000000000000 : W64).extractLsb' 56 8 = 0xF0 := by decide

/-- The agent whose turn it is comes to a placed, well-formed word of its unit that nothing holds back. -/
def comesTo (s : State) (w : W64) : Bool :=
  match s.pick, nextWords s with
  | .agent a, some (s1, ws) =>
    let s0 := s.forAgent a
    match decodeWord s1.pilot (ws.getD s1.ctl.cpos 0) (ws.getD (s1.ctl.cpos + 1) 0) with
    | .ok i => ws.getD s1.ctl.cpos 0 = w && s0.ctl.cpos ≠ 0 && (s0.pilot || s0.frag.run ≠ 0) && s1.placed i
        && (s1.pilot || (s1.frag.acquire.isNone && s1.frag.window.isNone
          && !State.conflict s1.crew s1.frag.mask (namedRegs false s1.frag.ctl.sup i).1 (namedRegs false s1.frag.ctl.sup i).2))
    | .error _ => false
  | _, _ => false

theorem test_meets_StepRunsTheWord :
    comesTo (State.reset.withFetchWord 64 0x4070402060022000) 0x4070402060022000 = true
    ∧ comesTo (State.reset.withFetchWord 64 0xF070000000000000) 0xF070000000000000 = true := by decide +kernel

/-- The same at a header. -/
theorem test_meets_StepRunsTheWord_header :
    (let s := State.reset.withFetchWord 64 0xFF0000F000000000
     match s.pick with
     | .agent a =>
       let s0 := s.forAgent a
       match s0.fetchWords s0.ctl.pc.toNat 1 with
       | (s1, .ok ws) =>
         match decodeHeader (ws.headD 0) with
         | .ok h => s0.ctl.cpos = 0 && !s0.ctl.past && (s0.pilot || s0.frag.window.isNone) && !h.hold
             && (match s1.fetchClause s0.ctl.pc.toNat (ws.headD 0) (h.len.toNat + 1) with | (_, .ok _) => true | _ => false)
         | .error _ => false
       | _ => false
     | _ => false) = true
    ∧ (match regs.resolve regs.me 0x20010 8 .fetch with
       | (s1, .pa l ca) => !s1.unpark.badLine l && (s1.unpark.lineOfCode regs.me.isl l ca).2.isSome | _ => false) = true ∧ regs.parkWait = false
    ∧ (match (regs.fetchClause 0x2FFF0 0 7).2 with | .fault 2 _ _ => true | _ => false) = true := by decide +kernel

/-- A fragment that has run past the end of the virtual space, and one in a clause whose window is open. -/
theorem test_meets_StepRunsTheWord_more :
    let s := State.reset.withFetchWord 64 0x4070402060022000
    (match s.pick with
     | .agent a =>
       let p := (s.forAgent a).setCtl { (s.forAgent a).ctl with cpos := 0, past := true }
       p.ctl.cpos = 0 && p.ctl.past && (p.pilot || p.frag.window.isNone)
     | _ => false) = true
    ∧ windowAdmits (.vadd { ri with ty := .s32, d := .v 1, a := .v 2, b := .v 3 }) = true := by decide +kernel

/-- The fragment of `regs` in a clause of two words. -/
def inClause : State := regs.setCtl { regs.ctl with hdr := { regs.ctl.hdr with len := 1 } }

theorem test_meets_ScalarFrame : (Instr.sadd, Claims.single) ∈ Claims.scalarForms ∧ inClause.ctl.cpos + RI.len ri ≤ inClause.ctl.hdr.len.toNat + 1
    ∧ (inClause.pilot = false → inClause.frag.crew < 64) ∧ inClause.qguard never = false := by
  exact ⟨by simp [Claims.scalarForms, Claims.scalarOps], by decide +kernel⟩

theorem test_meets_VectorFrame : (Instr.vadd, Claims.single) ∈ Claims.vectorForms ∧ inClause.pilot = false ∧ inClause.frag.crew < 64
    ∧ Instr.wf false (.vadd { ri with ty := .s32, d := .v 1, a := .v 2, b := .v 3 }) = true ∧ (inClause.act never).getLsbD 0 = false := by
  exact ⟨by simp [Claims.vectorForms, Claims.vectorOps], by decide +kernel⟩

theorem test_meets_RegisterWorkKeepsMemory : Claims.BelowTop regs ∧ (∀ e ∈ regs.exe.crews, e.2.spills = [])
    ∧ ∃ t, Claims.Gives (.sadd { ri with ty := .s32, d := .s 1, a := .s 4, b := .s 5 }) regs t := by
  exact ⟨by unfold Claims.BelowTop; decide +kernel, by decide +kernel, ⟨_, rfl⟩⟩

/-- Right after reset the only thing that can happen is the start of the module. -/
theorem test_reset_pick : State.reset.pick = .outside (.moduleReset ⟨true, none, 0xFFFFF, true⟩) := by
  have h : State.reset.readyAgents = [] := by decide +kernel
  have k : State.reset.enabled = [] := by decide +kernel
  have e : State.reset.inbox = [.moduleReset ⟨true, none, 0xFFFFF, true⟩] := rfl
  simp [State.pick, h, k, e, show State.reset.turn = none from rfl, Nat.mod_one]

theorem test_meets_MemoryCanonical : State.reset.MemOk ∧ ∃ t, step State.reset = .next t := by
  refine ⟨by unfold State.MemOk; decide +kernel, ?_⟩
  simp only [step, test_reset_pick]
  exact ⟨_, rfl⟩

theorem test_meets_ApertureOrder :
    let s : State := world frSup cr
    let x : II := { ii with a := .s 4, sub := 2, imm := 0x41 }
    Claims.InAperture s s.me 1 0x100000010 ∧ (¬ Claims.InAperture s s.me 0 0x100000010) ∧ s.qguard pt = true ∧ s.sup = true ∧ x.sub.getLsbD 1 = true
    ∧ (x.imm.extractLsb' 0 10).toNat = 0x040 + 1 := by unfold Claims.InAperture; decide +kernel

/-! The remaining statements with hypotheses. -/

theorem test_meets_AldFromRegisters : (mat.walk [.v 16, .none]).2.act pt = 3 ∧ (mat.walk [.v 16, .none]).2.act never = 0
    ∧ ({ ei with d := .tile 3, a := .v 16 } : EI).sub.extractLsb' 0 2 = 0 := by decide +kernel

theorem test_meets_SetfbAndAclr : mat.acts pt = true ∧ mat.acts never = false := by decide +kernel

theorem test_meets_SystemRegisterValues : regs.pilot = false ∧ regs.frag.crew < 64 ∧ (0x8000000000000000 : W64).getLsbD 63 = true
    ∧ 0x0C3 ∈ [0x000, 0x0C3] := by decide +kernel

theorem test_meets_PoolRing : let s := pool 1
    Memory.wf s.mem = true ∧ s.poolCount s.poolLoc ≠ 2 ^ (Memory.readN s.mem (s.poolLoc + 8) 4 % 32) ∧ (pool 64).poolCount (pool 64).poolLoc = 2 ^ (Memory.readN (pool 64).mem ((pool 64).poolLoc + 8) 4 % 32)
    ∧ s.poolLoc + 20 ≤ s.poolSlot s.poolLoc ((Memory.readN s.mem (s.poolLoc + 16) 4 + 2 ^ 32 - 1) % 2 ^ 32) := by decide +kernel

theorem test_meets_EncodeDecode : (decodeWord true 0xF070000000000000 0).toOption = some (.evpop { ri with d := .s 0, c := .p 0 })
    ∧ (decodeHeader 0xFF0040F200000000).toOption.isSome = true ∧ ((0xF470000000000000 : W64).extractLsb' 56 8).toNat ∈ Claims.pilotOnlyCodes := by
  decide +kernel

/-! Instructions and events that complete. -/

theorem test_meets_ConversionFrame : (Instr.fscale, fun _ => 1) ∈ Claims.convForms ∧ inClause.pilot = false ∧ inClause.frag.crew < 64
    ∧ inClause.ctl.cpos + RI.len ri ≤ inClause.ctl.hdr.len.toNat + 1
    ∧ Instr.wf false (.fscale { ri with ty := .bf16, sub := 8, u := 0, d := .v 1, a := .v 2, b := .v 3 }) = true := by
  exact ⟨by simp [Claims.convForms], by decide +kernel⟩

/-- The table's entry 1 can be fetched through the page that the TLB holds. -/
theorem test_meets_TableEntry : Claims.EntryAt tabled 0x20084 16 := by
  have m (k : AKind) (va : Nat) (h : Claims.Mapped tabled va k va) : Claims.Mapped tabled va k va := h
  refine ⟨0x20084, 0x20080, by decide +kernel, m .fetch _ ?_, m .fetch _ ?_, ?_⟩
  · unfold Claims.Mapped; exact ⟨by decide +kernel, by decide +kernel, by decide +kernel, by decide +kernel, by decide +kernel, page 0, by decide +kernel⟩
  · unfold Claims.Mapped; exact ⟨by decide +kernel, by decide +kernel, by decide +kernel, by decide +kernel, by decide +kernel, page 0, by decide +kernel⟩
  · decide +kernel

theorem test_meets_TransferFrames :
    Claims.NoJoinAt tabled 0x20100 ∧ tabled.branchLanes &&& tabled.guardMask pt = tabled.branchLanes ∧ (tabled.rdV 2 0).toNat < 2
    ∧ tabled.relTarget 16 + BitVec.ofNat 64 (4 * 1) = 0x20084 ∧ tabled.relTarget 16 + (16 : W32).signExtend 64 * 8 = 0x20100
    ∧ Claims.Target tabled (Claims.away tabled 16) ∧ State.newestSpill tabled.crew tabled.entry = none ∧ tabled.frag.token = 0
    ∧ divided.frag.mask &&& ~~~(divided.act p1) ≠ 0 ∧ divided.gang.left + 1 ≠ divided.gang.lanes ∧ divided.fallPc < 2 ^ 52 := by
  unfold Claims.NoJoinAt Claims.Target; decide +kernel

theorem test_meets_StoresComplete : Claims.Calm scr ∧ (scr.mlanes lds.guard).filter scr.ordinary = [0, 1] ∧ scr.ea lds false 0 0 = 0x100000010
    ∧ Claims.Lands scr 0x100000010 4 .store false (Claims.spAt scr false 16) 0 ∧ Claims.Lands scr 0x20010 4 .atomic false 0x20010 0 := by
  refine ⟨by unfold Claims.Calm; decide +kernel, by decide +kernel, by decide +kernel, ?_, ?_⟩
  · exact .inl ⟨by unfold Claims.InScratch; decide +kernel, by decide, by decide +kernel, rfl⟩
  · refine .inr ⟨by decide, ?_, page 0, by decide +kernel⟩
    unfold Claims.Mapped; exact ⟨by decide +kernel, by decide +kernel, by decide +kernel, by decide +kernel, by decide +kernel, page 0, by decide +kernel⟩

theorem test_meets_LdfCompletes : Claims.Calm mat ∧ mat.act pt ≠ 0 ∧ opDesc ((mat.fblock 0).getD 0 0) 0 ≠ none
    ∧ ∀ q ∈ mat.rowAddrs (mat.u64 0 none (.s 2)) 128 (some (4, mat.act pt)), Claims.InScratch mat q.2 16 128 := by
  unfold Claims.Calm Claims.InScratch; decide +kernel

theorem test_meets_KickCompletes : Claims.InScratch (kicked false) 0x100000040 64 64 ∧ (kicked false).acts pt = true
    ∧ ((kicked false).sweepReqs (kicked false).core).u64 0 none (.s 2) = 0x100000040
    ∧ (((kicked false).tender 0).filter (!·.started)).length + 1 ≤ 1024 := by unfold Claims.InScratch; decide +kernel

theorem test_meets_TenderCompletes :
    let s := queued 3
    let t := tenderRec (Memory.readBytes s.mem request.loc 64)
    s.tender 0 = [request] ∧ s.tenderRuns 0 = true ∧ s.reqForked request (State.reqScope t) = true ∧ t.malformed ((s.gangAt request.gang).spSize * 2048) = false
    ∧ t.sphys = false ∧ t.dphys = false ∧ t.remote = false ∧ t.chain = false ∧ s.badRead request.loc 64 = false ∧ regs.coh.soft = []
    ∧ s.reqForked request 5 = true ∧ s.hostOwes (State.ownGran 3 0) = false
    ∧ (let r : TReq := { request with started := true, words := copyRec 3, flight := [0] }
       let s : State := { regs with eng.tenders := [(0, [r])] }
       let g := (s.resolveGranule 0 r (tenderRec r.words) 0).2
       g.out = [] && g.todo ≠ [] && g.todo.length = 1
         && g.todo.all fun q => q.ready && q.parked.isNone && (q.src ++ q.dst).all fun p => !isGlobal p.1) = true := by
  decide +kernel

theorem test_meets_SourceCompletes :
    let o : IslOp := { op0 with la := 0x100000010, len := 64 }
    let g : IslOp := { o with kind := .get }
    let s := remote o
    let a : Ack := { op := 7, cause := none, reply := some (0, List.replicate 64 1, true) }
    s.eng.ops.find 7 = some o ∧ o.dest = o.isl ∧ 7 / 65536 = o.isl ∧ s.forked o = true ∧ s.coh.bad = [] ∧ s.coh.badWords = [] ∧ s.coh.soft = []
    ∧ g.got = 0 ∧ (remote g).opSaved 7 = false ∧ (remote g).hostOwes (State.ownLand 7) = false ∧ o.begun = false ∧ o.sent = 0
    ∧ Claims.NearScratch s (s.opWho o) o.la 64 0x100000000 ∧ (State.nextPiece o).1 = 64
    ∧ Claims.NearScratch (remote g) ((remote g).opWho g) g.la 64 0x100000000 ∧ Tbl.wf (remote g).eng.ops = true
    ∧ a ∈ ({ remote g with eng.acks := [a] } : State).eng.acks := by unfold Claims.NearScratch; decide +kernel

theorem test_meets_ArrivalCompletes :
    let a : Arr := { arr .put with res := some ([(locScratch 0 16, 2)], 0) }
    let h : Arr := { a with held := true }
    (arriving a).eng.arrivals.find 4 = some a ∧ a.done = false ∧ (arriving a).arrHeld a = false ∧ (arriving a).arrFull 0 = false ∧ ((arriving a).ctx 0 1).live = true
    ∧ isGlobal (locScratch 0 16) = false ∧ (arriving h).eng.arrivals.find 4 = some h ∧ (arriving h).arrHeld h = false
    ∧ ({ arriving h with eng.arrivals := (arriving h).eng.arrivals.put 4 { h with held := false } } : State).arrFull 0 = false
    ∧ (arriving (arr .notify)).arrHeld (arr .notify) = false := by decide +kernel

theorem test_meets_EndsComplete :
    let s (c : Option Byte) : State := { remote op0 with eng.acks := [{ op := 7, cause := c }] }
    (s none).eng.ops.find 7 = some op0 ∧ (s none).opSaved 7 = false ∧ (packet .notify).payload.length ≤ 4096 ∧ (s none).eng.acks = [{ op := 7, cause := none }] ∧ (s (some 2)).eng.acks = [{ op := 7, cause := some 2 }]
    ∧ (packet .notify).rud = true ∧ (packet .notify).trim = false ∧ (packet .notify).src = 32 ∧ regs.eng.progs.find (0 * 2 ^ 40 + (32 * 65536 + 7)) = none := by
  decide +kernel

end Sys2Proof.Tests
end

/-! Canonical memory (O57). Every operation that the step can call has one lemma here, `State.MemOk.<operation>`: from a state whose memory is in
canonical form it leads to one whose memory is. An operation that beside its state answers something else is spoken of by the state of its answer.
The lemmas stand in the order of the model's files, and each cites those of the operations that its definition calls. -/

namespace Sys2Proof.Machine

open Sys2Proof

/-! What carries a state: an outcome, an optional state, the result of a spill, of reading a source. -/

/-- Every state of an optional state has its memory in canonical form. -/
def SomeOk (o : Option State) : Prop := ∀ t, o = some t → t.MemOk

/-- The next state of an outcome, if it has one, has its memory in canonical form. -/
def OutOk (o : Out) : Prop := ∀ t, o = .next t → t.MemOk

/-- The state within the result of pushing spill records. -/
def State.SpillRes.state : State.SpillRes → State
  | .ok s _ _ => s
  | .fault s _ _ _ => s
  | .busy s => s

/-- The state within the result of reading the source of an island operation. -/
def State.SrcRes.state : State.SrcRes → State
  | .ok s _ => s
  | .wait s => s
  | .fault s _ => s

theorem SomeOk.none : SomeOk none := fun _ e => nomatch e

theorem SomeOk.some {t : State} (h : t.MemOk) : SomeOk (some t) := by
  rintro _ ⟨⟩
  exact h

theorem SomeOk.ite {c : Prop} {_ : Decidable c} {a b : Option State} (ha : SomeOk a) (hb : SomeOk b) : SomeOk (if c then a else b) := by
  split
  · exact ha
  · exact hb

theorem SomeOk.map {α : Type} {f : α → State} {o : Option α} (hf : ∀ x, (f x).MemOk) : SomeOk (o.map f) := by
  cases o with
  | none => exact .none
  | some x => exact .some (hf x)

theorem OutOk.next {t : State} (h : t.MemOk) : OutOk (.next t) := by
  rintro _ ⟨⟩
  exact h

namespace State.MemOk

section

variable {s t : State}

/-! How states are put together. -/

/-- A state with the memory of another and everything else new. -/
theorem upd {cur turn inbox choices clock exe trn coh eng mgt} (h : s.MemOk) :
    State.MemOk ⟨cur, turn, inbox, choices, clock, s.mem, exe, trn, coh, eng, mgt⟩ := h

/-- A state made with a memory in canonical form. -/
theorem ofMem {cur turn inbox choices clock mem exe trn coh eng mgt} (h : Memory.wf mem = true) :
    State.MemOk ⟨cur, turn, inbox, choices, clock, mem, exe, trn, coh, eng, mgt⟩ := h

theorem ite {c : Prop} {_ : Decidable c} {a b : State} (ha : a.MemOk) (hb : b.MemOk) : (if c then a else b).MemOk := by
  split
  · exact ha
  · exact hb

theorem ite_fst {α : Type} {c : Prop} {_ : Decidable c} {a b : State × α} (ha : a.1.MemOk) (hb : b.1.MemOk) :
    (if c then a else b).1.MemOk := by
  split
  · exact ha
  · exact hb

theorem ite_snd {α : Type} {c : Prop} {_ : Decidable c} {a b : α × State} (ha : a.2.MemOk) (hb : b.2.MemOk) :
    (if c then a else b).2.MemOk := by
  split
  · exact ha
  · exact hb

theorem foldl {α : Type} {f : State → α → State} {l : List α} (h : s.MemOk) (hf : ∀ s x, s.MemOk → (f s x).MemOk) :
    (l.foldl f s).MemOk := by
  induction l generalizing s with
  | nil => exact h
  | cons x l ih => exact ih (hf _ _ h)

theorem foldl_fst {α β : Type} {f : State × β → α → State × β} {l : List α} {p : State × β} (h : p.1.MemOk)
    (hf : ∀ p x, p.1.MemOk → (f p x).1.MemOk) : (l.foldl f p).1.MemOk := by
  induction l generalizing p with
  | nil => exact h
  | cons x l ih => exact ih (hf _ _ h)

/-- A memory in canonical form stays so under writes made one after another. -/
theorem foldlMem {α : Type} {f : List Host.Cell → α → List Host.Cell} {l : List α} {m : List Host.Cell} (h : Memory.wf m = true)
    (hf : ∀ m x, Memory.wf m = true → Memory.wf (f m x) = true) : Memory.wf (l.foldl f m) = true := by
  induction l generalizing m with
  | nil => exact h
  | cons x l ih => exact ih (hf _ _ h)

theorem of_pair {α : Type} {p : State × α} {x : α} (e : p = (t, x)) (h : p.1.MemOk) : t.MemOk := by
  subst e
  exact h

theorem of_some {o : Option State} (h : SomeOk o) (e : o = some t) : t.MemOk := h t e

/-! Writes of memory. -/

theorem store {loc bs} (h : s.MemOk) : (s.store loc bs).MemOk := s.store_memOk loc bs h
theorem writePieces {ls bs} (h : s.MemOk) : (s.writePieces ls bs).MemOk := State.writePieces_memOk ls s bs h
theorem applyBytes {bs} (h : s.MemOk) : (s.applyBytes bs).MemOk := s.applyBytes_memOk bs h
theorem applyRed {op w n bs} (h : s.MemOk) : (State.applyRed op w n s bs).MemOk := State.applyRed_memOk op w n s bs h
theorem applyEntry {e} (h : s.MemOk) : (s.applyEntry e).MemOk := s.applyEntry_memOk e h
theorem zeroRange {loc n} (h : s.MemOk) : (s.zeroRange loc n).MemOk := s.zeroRange_memOk loc n h
theorem clearClusters {p} (h : s.MemOk) : (s.clearClusters p).MemOk := s.clearClusters_memOk p h
theorem afterReset (h : s.MemOk) : s.afterReset.MemOk := s.afterReset_memOk h


/-! The current agent's registers, guards, walkers and position (Machine/Regs). -/

theorem setFrag {f} (h : s.MemOk) : (s.setFrag f).MemOk := .upd h
theorem setCrew {c} (h : s.MemOk) : (s.setCrew c).MemOk := .upd h
theorem setThread {t} (h : s.MemOk) : (s.setThread t).MemOk := .upd h
theorem setUni {u} (h : s.MemOk) : (s.setUni u).MemOk := .ite (.setThread h) (.setCrew h)
theorem setCtl {c} (h : s.MemOk) : (s.setCtl c).MemOk := .ite (.setThread h) (.setFrag h)
theorem putS {n v} (h : s.MemOk) : (s.putS n v).MemOk := .setUni h

theorem wrS {o v} (h : s.MemOk) : (s.wrS o v).MemOk := by
  unfold State.wrS
  split
  · exact .putS h
  · exact h

theorem wrS64 {o v} (h : s.MemOk) : (s.wrS64 o v).MemOk := by
  unfold State.wrS64
  split
  · exact .putS (.putS h)
  · exact h

theorem putQ {k b} (h : s.MemOk) : (s.putQ k b).MemOk := .ite h (.setUni h)

theorem wrQ {o b} (h : s.MemOk) : (s.wrQ o b).MemOk := by
  unfold State.wrQ
  split
  · exact .putQ h
  · exact h

theorem wrV {n m f} (h : s.MemOk) : (s.wrV n m f).MemOk := .ite h (.setCrew h)
theorem wrV64 {n m f} (h : s.MemOk) : (s.wrV64 n m f).MemOk := .wrV (.wrV h)

theorem wrP {o m f} (h : s.MemOk) : (s.wrP o m f).MemOk := by
  unfold State.wrP
  dsimp only
  split
  · exact .ite h (.setCrew h)
  · exact h

theorem setWalker {n w} (h : s.MemOk) : (s.setWalker n w).MemOk := .setUni h
theorem readWalker {n} (h : s.MemOk) : (s.readWalker n).2.MemOk := .setCtl (.setWalker h)

theorem walk {os} (h : s.MemOk) : (s.walk os).2.MemOk := by
  unfold State.walk
  split
  · exact h
  · split
    · exact .ite_snd h (.readWalker h)
    · exact .readWalker h

/-! Locations of memory, caches, tokens, the directory and the write buffers (Machine/Coh). -/

theorem setLine {lk x} (h : s.MemOk) : (s.setLine lk x).MemOk := .upd h
theorem setCline {isl a ln x} (h : s.MemOk) : (s.setCline isl a ln x).MemOk := .upd h

theorem refreshSharers {lk} (h : s.MemOk) : (s.refreshSharers lk).MemOk := by
  unfold State.refreshSharers
  dsimp only
  split
  · exact .setLine h
  · exact h

theorem probed {lk a} (h : s.MemOk) : (s.probed lk a).MemOk := by
  unfold State.probed
  dsimp only
  split
  · exact .refreshSharers h
  · exact .ite (.setLine h) (.ite h (.setLine h))

theorem refreshMesi {lk} (h : s.MemOk) : (s.refreshMesi lk).MemOk := .setLine h
theorem bumpCounter {core k} (h : s.MemOk) : (s.bumpCounter core k).MemOk := .upd h

theorem rollback {key} (h : s.MemOk) : (s.rollback key).MemOk := by
  unfold State.rollback
  dsimp only
  split
  · exact h
  · exact .bumpCounter (.upd h)

theorem rollbackLine {core lk writer} (h : s.MemOk) : (s.rollbackLine core lk writer).MemOk :=
  .foldl h (fun _ _ hs => .rollback hs)

theorem rollbackAgent {isl a lk} (h : s.MemOk) : (s.rollbackAgent isl a lk).MemOk := by
  unfold State.rollbackAgent
  split
  · exact .rollbackLine h
  · exact h

theorem sendFwds {lk hs k} (h : s.MemOk) : (s.sendFwds lk hs k).MemOk := .upd (.setLine h)
theorem fly {lk src dest n owner} (h : s.MemOk) : (s.fly lk src dest n owner).MemOk := .ite h (.upd (.setLine h))

theorem sendTokens {isl a ln dest} (h : s.MemOk) : (s.sendTokens isl a ln dest).MemOk :=
  .ite h (.refreshSharers (.fly (.setLine (.rollbackAgent (.setCline h)))))

theorem keepOne {isl a ln} (h : s.MemOk) : (s.keepOne isl a ln).MemOk := .ite h (.fly (.setLine (.rollbackAgent (.setCline h))))

theorem combine {isl a ln} (h : s.MemOk) : (s.combine isl a ln).MemOk := by
  unfold State.combine
  dsimp only
  split
  · exact h
  · exact .setLine (.ofMem (MemOk.foldlMem h (fun _ _ hm => Memory.wf_writeN hm _ _ _)))

theorem evictL1 {isl a ln} (h : s.MemOk) : (s.evictL1 isl a ln).MemOk := .sendTokens (.combine h)
theorem startRecall {lk} (h : s.MemOk) : (s.startRecall lk).MemOk := .ite h (.sendFwds (.setLine h))
theorem startMerge {lk} (h : s.MemOk) : (s.startMerge lk).MemOk := .ite h (.sendFwds (.setLine h))

theorem startUnrepl {lk} (h : s.MemOk) : (s.startUnrepl lk).MemOk :=
  .ite h (.sendFwds (.foldl (.setLine h) (fun _ _ hs => .fly hs)))

theorem startTx {lk} (h : s.MemOk) : (s.startTx lk).MemOk := .ite h (.setLine (.upd h))

theorem meetHeld {lk h} (hm : s.MemOk) : (s.meetHeld lk h).MemOk := by
  unfold State.meetHeld
  dsimp only
  split
  · exact hm
  · exact .upd (.setLine hm)

theorem startBi {lk inv} (h : s.MemOk) : (s.startBi lk inv).MemOk := .ite h (.foldl (.setLine h) (fun _ _ hs => .meetHeld hs))
theorem holdFor {lk h} (hm : s.MemOk) : (s.holdFor lk h).MemOk := .ite hm (.setLine hm)
theorem holdLines {h lks} (hm : s.MemOk) : (s.holdLines h lks).MemOk := .foldl hm (fun _ _ hs => .ite hs (.holdFor hs))

theorem hold {lk rid} (h : s.MemOk) : (s.hold lk rid).MemOk := by
  unfold State.hold
  dsimp only
  split
  · exact .upd (.holdFor h)
  · exact .holdFor h

theorem hostFill {lk own} (h : s.MemOk) : (s.hostFill lk own).1.MemOk :=
  .ite_fst h (.ite_fst h (.ite_fst h (.ite_fst h (.ite_fst h (.setLine h)))))

theorem hostGives {lk own} (h : s.MemOk) : (s.hostGives lk own).1.MemOk := by
  unfold State.hostGives
  split
  · exact .of_pair ‹_› (.hostFill h)
  · exact .of_pair ‹_› (.hostFill h)

theorem gatherRead {lk} (h : s.MemOk) : (s.gatherRead lk).1.MemOk :=
  .ite_fst (.hostGives h) (.ite_fst h (.ite_fst (.startMerge h) (.startBi h)))

theorem gatherWrite {lk} (h : s.MemOk) : (s.gatherWrite lk).1.MemOk :=
  .ite_fst (.hostGives h)
    (.ite_fst h
      (.ite_fst (.startMerge h) (.ite_fst (.startUnrepl h) (.ite_fst (.startBi h) (.ite_fst (.startTx h) (.startRecall h))))))

theorem gatherHome {lk tr} (h : s.MemOk) : (s.gatherHome lk tr).1.MemOk :=
  .ite_fst h (.ite_fst (.startMerge h) (.ite_fst (.startUnrepl h) (.ite_fst (.startTx h) (.ite_fst h (.startRecall h)))))

theorem ownTag {lk tag} (h : s.MemOk) : (s.ownTag lk tag).1.MemOk := by
  unfold State.ownTag
  refine .ite_fst h (.ite_fst (.setLine h) ?_)
  dsimp only
  split
  · exact .of_pair ‹_› (.gatherHome h)
  · exact .ite_fst (.startBi (.of_pair ‹_› (.gatherHome h))) (.setLine (.of_pair ‹_› (.gatherHome h)))

theorem gatherRange {isl loc n ca wr} (h : s.MemOk) : (s.gatherRange isl loc n ca wr).1.MemOk :=
  .ite_fst h (.foldl_fst h (fun _ _ hs => .ite_fst (.gatherWrite hs) (.gatherRead hs)))

theorem cleanCovered {ps} (h : s.MemOk) : (s.cleanCovered ps).MemOk := .upd h
theorem touch {isl a ln hint t} (h : s.MemOk) : (s.touch isl a ln hint t).MemOk := .ite h (.setCline (.upd h))
theorem touchL2 {lk hint t} (h : s.MemOk) : (s.touchL2 lk hint t).MemOk := .ite h (.setLine (.upd h))

theorem makeRoom {isl a va ln} (h : s.MemOk) : (s.makeRoom isl a va ln).1.MemOk := by
  unfold State.makeRoom
  refine .ite_fst h ?_
  split
  · exact .evictL1 h
  · exact h

theorem takePermit {lk p} (h : s.MemOk) : SomeOk (s.takePermit lk p) := .ite .none (.some (.upd h))
theorem givePermit {lk p} (h : s.MemOk) : (s.givePermit lk p).MemOk := .upd h
theorem freePermit {a lk} (h : s.MemOk) : (s.freePermit a lk).MemOk := .ite h (.givePermit h)

theorem queueAt {lk p h} (hm : s.MemOk) : (s.queueAt lk p h).MemOk := by
  unfold State.queueAt
  refine .ite hm ?_
  split
  · exact .holdFor (.of_some (MemOk.takePermit hm) ‹_›)
  · exact hm

theorem request {q k} (h : s.MemOk) : (s.request q k).MemOk := by
  unfold State.request
  refine .ite h ?_
  dsimp only
  split
  · exact .of_pair ‹_› (.ite_fst h (.makeRoom h))
  · split
    · exact .of_pair ‹_› (.ite_fst h (.makeRoom h))
    · exact .upd
        (.of_some
          (.ite (.some (.of_pair ‹_› (.ite_fst h (.makeRoom h)))) (MemOk.takePermit (.of_pair ‹_› (.ite_fst h (.makeRoom h)))))
          ‹_›)

theorem dropAlias {q} (h : s.MemOk) : (s.dropAlias q).MemOk := .ite h (.evictL1 h)
theorem homeMay {q} (h : s.MemOk) : (s.homeMay q).1.MemOk := .ite_fst h (.ite_fst h (.ownTag h))

theorem countHot {lk} (h : s.MemOk) : (s.countHot lk).MemOk := by
  unfold State.countHot
  dsimp only
  split
  · exact .upd h
  · exact .upd h

theorem homeRead {q} (h : s.MemOk) : (s.homeRead q).1.MemOk := by
  unfold State.homeRead
  split
  · split
    · exact .countHot (.of_pair ‹_› (.gatherRead (.of_pair ‹_› (.homeMay h))))
    · exact .gatherRead (.of_pair ‹_› (.homeMay h))
  · exact .homeMay h

theorem homeWrite {q} (h : s.MemOk) : (s.homeWrite q).1.MemOk := by
  unfold State.homeWrite
  split
  · exact .gatherWrite (.of_pair ‹_› (.homeMay h))
  · exact .homeMay h

theorem needRead {q} (h : s.MemOk) : (s.needRead q).1.MemOk :=
  .ite_fst (.touch h) (.ite_fst (.ite_fst h (.homeRead h)) (.request (.dropAlias h)))

theorem needOwn {q} (h : s.MemOk) : (s.needOwn q).1.MemOk :=
  .ite_fst (.touch h) (.ite_fst (.homeWrite h) (.request (.dropAlias h)))

theorem accessDone {isl a lk} (h : s.MemOk) : (s.accessDone isl a lk).MemOk := .foldl h (fun _ _ hs => .ite (.upd hs) hs)

/-! Residence of lines in the L2: fills and victims (Machine/L2). -/

theorem placeL2 {lk hint way t} (h : s.MemOk) : (s.placeL2 lk hint way t).MemOk := .setLine (.upd h)
theorem evictMsgs {lk dirty halves} (h : s.MemOk) : (s.evictMsgs lk dirty halves).MemOk := .upd h
theorem dropL2 {lk} (h : s.MemOk) : (s.dropL2 lk).MemOk := .ite (.evictMsgs (.setLine h)) (.setLine h)
theorem dropReplica {lk sl} (h : s.MemOk) : (s.dropReplica lk sl).MemOk := .fly (.setLine h)

theorem gatherEvict {lk} (h : s.MemOk) : (s.gatherEvict lk).1.MemOk :=
  .ite_fst h
    (.ite_fst (.startMerge h)
      (.ite_fst (.startUnrepl h) (.ite_fst (.startBi h) (.ite_fst (.startRecall h) (.ite_fst (.startTx h) h)))))

theorem giveWay {sl v} (h : s.MemOk) : (s.giveWay sl v).1.MemOk := by
  unfold State.giveWay
  refine .ite_fst (.dropReplica h) ?_
  split
  · exact .dropL2 (.of_pair ‹_› (.gatherEvict h))
  · exact .of_pair ‹_› (.gatherEvict h)

theorem takeWay {lk sl ways chosen} (h : s.MemOk) : (s.takeWay lk sl ways chosen).1.MemOk := by
  unfold State.takeWay
  dsimp only
  split
  · exact h
  · split
    · exact h
    · split
      · exact .of_pair ‹_› (.giveWay h)
      · exact .of_pair ‹_› (.giveWay h)

theorem fillL2 {lk hint ways t} (h : s.MemOk) : (s.fillL2 lk hint ways t).1.MemOk := by
  unfold State.fillL2
  refine .ite_fst (.touchL2 h) (.ite_fst h ?_)
  dsimp only
  split
  · exact .placeL2 (.of_pair ‹_› (.takeWay h))
  · exact .setLine (.of_pair ‹_› (.takeWay h))

/-! Resolution of addresses: apertures, each lane's own slices, skewed windows, page tables and TLBs (Machine/Access). -/

theorem setPrecinct {p x} (h : s.MemOk) : (s.setPrecinct p x).MemOk := .upd h
theorem setCtx {isl spn c} (h : s.MemOk) : (s.setCtx isl spn c).MemOk := .upd h

theorem readEntry {isl tlb a} (h : s.MemOk) : (s.readEntry isl tlb a).1.MemOk := by
  unfold State.readEntry
  dsimp only
  split
  · exact .upd h
  · exact .ite_fst h
      (.ite_fst (.setLine h)
        (.ite_fst h
          (.ite_fst (.queueAt h)
            (.ite_fst (.queueAt (.startMerge h))
              (.ite_fst (.queueAt (.startBi h)) (.ite_fst h (.ite_fst (.sendFwds h) (.queueAt (.startRecall h)))))))))

theorem readCached {isl tlb spn a} (h : s.MemOk) : (s.readCached isl tlb spn a).1.MemOk := by
  unfold State.readCached
  split
  · exact h
  · exact .readEntry h

theorem cacheWalk {isl tlb spn es} (h : s.MemOk) : (s.cacheWalk isl tlb spn es).MemOk :=
  .ite h (.foldl h (fun _ _ hs => .ite hs (.upd hs)))

theorem pageWalk {isl tlb spn va} (h : s.MemOk) : (s.pageWalk isl tlb spn va).1.MemOk := by
  unfold State.pageWalk
  refine .ite_fst h ?_
  dsimp only
  split
  · exact .of_pair ‹_› (.readCached h)
  · next e =>
    have h1 := of_pair e (.readCached h)
    refine .ite_fst h1 (.ite_fst h1 ?_)
    split
    · exact .of_pair ‹_› (.readCached h1)
    · next e =>
      have h2 := of_pair e (.readCached h1)
      refine .ite_fst h2 (.ite_fst h2 ?_)
      split
      · exact .of_pair ‹_› (.readCached h2)
      · next e =>
        have h3 := of_pair e (.readCached h2)
        refine .ite_fst h3 (.ite_fst (.ite_fst h3 (.ite_fst h3 (.cacheWalk h3))) (.ite_fst h3 ?_))
        split
        · exact .of_pair ‹_› (.readEntry h3)
        · next e =>
          have h4 := of_pair e (.readEntry h3)
          exact .ite_fst h4 (.ite_fst h4 (.cacheWalk h4))

theorem dropCode {isl tlb spn page size} (h : s.MemOk) : (s.dropCode isl tlb spn page size).MemOk := .upd h

theorem dropPage {isl tlb spn page size} (h : s.MemOk) : (s.dropPage isl tlb spn page size).MemOk :=
  .dropCode (.foldl h (fun _ _ hs => .evictL1 hs))

theorem dropEntry {e} (h : s.MemOk) : (s.dropEntry e).MemOk := .dropPage (.upd h)

theorem tlbInsert {e} (h : s.MemOk) : (s.tlbInsert e).MemOk := by
  unfold State.tlbInsert
  refine .upd (.ite h ?_)
  split
  · exact .dropEntry h
  · exact h

theorem setAD {isl a level seen d} (h : s.MemOk) : (s.setAD isl a level seen d).1.MemOk :=
  .ite_fst (.ofMem (Memory.wf_writeN h _ _ _)) h

theorem lookup {w va} (h : s.MemOk) : (s.lookup w va).1.MemOk := by
  unfold State.lookup
  cases s.cached w va with
  | some e => exact h
  | none =>
    have hp := pageWalk (isl := w.isl) (tlb := w.tlb) (spn := w.spn) (va := va) h
    generalize s.pageWalk w.isl w.tlb w.spn va = r at hp ⊢
    obtain ⟨s1, r⟩ := r
    cases r with
    | ok p size a level ls => exact .setAD (.tlbInsert hp)
    | fault c f => exact hp
    | busy => exact hp

theorem tlbSetD {isl a} (h : s.MemOk) : (s.tlbSetD isl a).MemOk := .upd h

theorem translate {w va k} (h : s.MemOk) : (s.translate w va k).1.MemOk := by
  unfold State.translate
  refine .ite_fst h ?_
  dsimp only
  split
  · exact .of_pair ‹_› (.lookup h)
  · exact .of_pair ‹_› (.lookup h)
  · next e =>
    have h1 := of_pair e (.lookup h)
    refine .ite_fst h1 (.ite_fst h1 (.ite_fst h1 (.ite_fst h1 (.ite_fst h1 (.ite_fst h1 (.ite_fst h1 (.ite_fst ?_ h1)))))))
    split
    · exact .tlbSetD (.of_pair ‹_› (.setAD h1))
    · next e =>
      have h2 := of_pair e (.setAD h1)
      dsimp only
      split
      · exact .dropEntry h2
      · exact h2

theorem resolve {w a width k} (h : s.MemOk) : (s.resolve w a width k).1.MemOk := by
  unfold State.resolve
  refine .ite_fst h (.ite_fst h (.ite_fst h ?_))
  split
  · exact .ite_fst h (.ite_fst h (.ite_fst h h))
  · exact .translate h

theorem backing {w b k} (h : s.MemOk) : (s.backing w b k).1.MemOk := .ite_fst h (.ite_fst h (.translate h))

theorem lpParts_cons {w k L o n r} : s.lpParts w k L ((o, n) :: r) =
    match s.backing w (s.lpBacking w o L) k with
    | (s1, .pa l ca) => match s1.lpParts w k L r with
      | (s2, .ok ls _) => (s2, .ok ((l, n) :: ls) ca)
      | x => x
    | (s1, .fault c f) => (s1, .fault c (BitVec.ofNat 64 (s.lpBacking w o L)) f)
    | (s1, .park) => (s1, .park (s.lpBacking w o L))
    | (s1, _) => (s1, .busy) := rfl

theorem lpParts {w k L ps} (h : s.MemOk) : (s.lpParts w k L ps).1.MemOk := by
  induction ps generalizing s with
  | nil => exact h
  | cons p r ih =>
    rw [lpParts_cons]
    have hb := backing (w := w) (b := s.lpBacking w p.1 L) (k := k) h
    generalize s.backing w (s.lpBacking w p.1 L) k = y at hb ⊢
    obtain ⟨s1, y⟩ := y
    cases y with
    | pa l ca =>
      dsimp only
      split
      · exact .of_pair ‹_› (ih hb)
      · exact ih hb
    | fault c f => exact hb
    | park => exact hb
    | busy => exact hb
    | space x o lim => exact hb

theorem laneAccess {w0 L a width k skw} (h : s.MemOk) : (s.laneAccess w0 L a width k skw).1.MemOk := by
  unfold State.laneAccess
  dsimp only
  split
  · exact .of_pair ‹_› (.resolve h)
  · exact .of_pair ‹_› (.resolve h)
  · exact .of_pair ‹_› (.resolve h)
  · exact .of_pair ‹_› (.resolve h)
  · exact .lpParts (.of_pair ‹_› (.resolve h))
  · refine .ite_fst (.ite_fst (.of_pair ‹_› (.resolve h)) (.of_pair ‹_› (.resolve h))) ?_
    split
    · exact .of_pair ‹_› (.resolve h)
    · exact .of_pair ‹_› (.resolve h)

theorem rangeGo {w k L n n1 n2} (h : s.MemOk) : (rangeGo w k L n s n1 n2).1.MemOk := by
  induction n generalizing s n1 n2 with
  | zero => exact h
  | succ n ih =>
    unfold State.rangeGo
    refine .ite_fst h ?_
    dsimp only
    split
    · split
      · exact .of_pair ‹_› (ih (.of_pair ‹_› (.resolve h)))
      · exact ih (.of_pair ‹_› (.resolve h))
    · exact .of_pair ‹_› (.resolve h)
    · exact .of_pair ‹_› (.resolve h)
    · exact .of_pair ‹_› (.resolve h)
    · refine .ite_fst (.of_pair ‹_› (.resolve h)) (.ite_fst ?_ ?_)
      · split
        · split
          · exact .of_pair ‹_› (ih (.of_pair ‹_› (.lpParts (.of_pair ‹_› (.resolve h)))))
          · exact ih (.of_pair ‹_› (.lpParts (.of_pair ‹_› (.resolve h))))
        · exact .lpParts (.of_pair ‹_› (.resolve h))
      · split
        · split
          · exact .of_pair ‹_› (ih (.of_pair ‹_› (.resolve h)))
          · exact ih (.of_pair ‹_› (.resolve h))
        · exact .of_pair ‹_› (.resolve h)

theorem resolveRange {w k L a n} (h : s.MemOk) : (s.resolveRange w k L a n).1.MemOk := .rangeGo h

theorem countErrs {w k n} (h : s.MemOk) : (s.countErrs w k n).MemOk := by
  unfold State.countErrs
  dsimp only
  split
  · exact .ite h (.upd h)
  · exact h

theorem countSoft {w ls} (h : s.MemOk) : (s.countSoft w ls).MemOk := .countErrs h

theorem gatherPieces {isl ca wr ls} (h : s.MemOk) : (s.gatherPieces isl ca wr ls).1.MemOk :=
  .foldl_fst h (fun _ _ hs => .gatherRange hs)

/-! Stores on their way to memory: the write buffers and REDs (Machine/Stores). -/

theorem hostWrites {w ca po own ls} (h : s.MemOk) : (s.hostWrites w ca po own ls).MemOk := .ite h (.upd h)
theorem l2Written {lk} (h : s.MemOk) : (s.l2Written lk).MemOk := .ite (.setLine h) h

theorem atHome {e} (h : s.MemOk) : (s.atHome e).1.MemOk :=
  .ite_fst (.upd (.applyEntry h))
    (.ite_fst (.l2Written (.applyEntry (.ite_fst (.homeWrite h) (.ite_fst (.homeWrite h) (.fillL2 (.homeWrite h))))))
      (.holdLines (.ite_fst (.homeWrite h) (.ite_fst (.homeWrite h) (.fillL2 (.homeWrite h))))))

theorem dirtied {e} (h : s.MemOk) : (s.dirtied e).MemOk :=
  .ite (.rollbackLine (.accessDone (.setCline h))) (.accessDone (.setCline h))

theorem tryRed {e k} (h : s.MemOk) : (s.tryRed e k).1.MemOk := by
  unfold State.tryRed
  refine .ite_fst (.dirtied (.applyEntry h)) (.ite_fst (.atHome h) ?_)
  dsimp only
  split
  · exact .ite_fst (.request (.combine h)) (.ite_fst (.accessDone (.upd h)) (.request h))
  · exact .request h

theorem tryEntry {e} (h : s.MemOk) : (s.tryEntry e).1.MemOk := by
  unfold State.tryEntry
  dsimp only
  split
  · exact .tryRed h
  · refine .ite_fst (.atHome h) ?_
    split
    · exact .dirtied (.applyBytes (.of_pair ‹_› (.needOwn h)))
    · exact .needOwn h

theorem drainList {l l1} (h : s.MemOk) : (drainList l l1 s).1.MemOk := by
  induction l generalizing l1 s with
  | nil => exact h
  | cons x l ih =>
    unfold State.drainList
    refine .ite_fst (ih h) ?_
    split
    · exact ih (.of_pair ‹_› (.tryEntry h))
    · exact ih (.of_pair ‹_› (.tryEntry h))

theorem drain (h : s.MemOk) : s.drain.MemOk := .upd (.drainList h)

theorem push {w ps hint red po owners} (h : s.MemOk) : (s.push w ps hint red po owners).MemOk := by
  unfold State.push
  extract_lets s0 s1 ak ents s2 _ s2'
  have hs0 : s0.MemOk := by
    refine .foldl h (fun _ _ hs => .ite hs ?_)
    split
    · exact .applyRed hs
    · exact .store hs
  have hs1 : s1.MemOk := .ite (.cleanCovered hs0) hs0
  have hs2' : s2'.MemOk := .foldl (.upd hs1) (fun _ _ hs => .ite (.rollbackLine hs) hs)
  exact .drain hs2'

/-! Advancing, joins, mooring, and taking an exception and returning from one (Machine/Ops). -/

theorem ringPut {base log head tail ev} (h : s.MemOk) : SomeOk (s.ringPut base log head tail ev) :=
  .ite .none (.some (.ofMem (Memory.wf_writeBytes h _ _)))

theorem postEvent {p kind cause core crew pc arg} (h : s.MemOk) : (s.postEvent p kind cause core crew pc arg).MemOk := by
  unfold State.postEvent
  dsimp only
  split
  · exact .setPrecinct (.of_some (MemOk.ringPut h) ‹_›)
  · exact .setPrecinct h

theorem postMine {kind cause pc arg} (h : s.MemOk) : (s.postMine kind cause pc arg).MemOk := .ite (.postEvent h) (.postEvent h)

theorem postModule {isl sort a b} (h : s.MemOk) : (s.postModule isl sort a b).MemOk := by
  unfold State.postModule
  dsimp only
  split
  · exact .upd (.of_some (MemOk.ringPut h) ‹_›)
  · exact .upd h

theorem putFrag {k f} (h : s.MemOk) : (s.putFrag k f).MemOk := .upd h
theorem putCrew {k c} (h : s.MemOk) : (s.putCrew k c).MemOk := .upd h
theorem setJoin {core t j} (h : s.MemOk) : (s.setJoin core t j).MemOk := .upd h
theorem takeJoin {core t jaddr ptoken pend crew} (h : s.MemOk) : (s.takeJoin core t jaddr ptoken pend crew).MemOk := .setJoin h
theorem addPend {core t n} (h : s.MemOk) : (s.addPend core t n).MemOk := .ite h (.setJoin h)
theorem freeJoin {core t} (h : s.MemOk) : (s.freeJoin core t).MemOk := .setJoin h
theorem inheritAt {ck from_ to_} (h : s.MemOk) : (s.inheritAt ck from_ to_).MemOk := .upd (.putCrew h)

theorem splitOff {core f from_ to_ n} (h : s.MemOk) : (s.splitOff core f from_ to_ n).MemOk :=
  .addPend (.putFrag (.putFrag (.inheritAt h)))

theorem updateSpill {ck r r'} (h : s.MemOk) : (s.updateSpill ck r r').MemOk := .ite (.putCrew h) (.push (.putCrew h))

theorem serialJoin {n} (h : s.MemOk) : (serialJoin n s).MemOk := by
  induction n generalizing s with
  | zero => exact h
  | succ n ih =>
    unfold State.serialJoin
    dsimp only
    split
    · exact h
    · exact .ite h (.ite (ih (.setFrag (.updateSpill h))) (ih (.setFrag (.setCrew h))))

theorem setSpillOwner {core slot from_ to_} (h : s.MemOk) : (s.setSpillOwner core slot from_ to_).MemOk :=
  .foldl h (fun _ _ hs => .updateSpill hs)

theorem fuse {core t} (h : s.MemOk) : (s.fuse core t).1.MemOk := by
  unfold State.fuse
  dsimp only
  split
  · exact .freeJoin h
  · exact .putFrag (.foldl (.freeJoin (.inheritAt (.setSpillOwner h))) (fun _ _ hs => .putFrag hs))

theorem arriveGo {n} (h : s.MemOk) : (arriveGo n s).MemOk := by
  induction n generalizing s with
  | zero => exact h
  | succ n ih =>
    unfold State.arriveGo
    extract_lets s1 f j s2
    have hs1 : s1.MemOk := .ite h (.serialJoin h)
    have hs2 : s2.MemOk := .setJoin (.setFrag hs1)
    refine .ite (.ite (.upd (ih (.upd ?_))) hs2) hs1
    dsimp only
    split
    · exact .freeJoin hs2
    · exact .putFrag (.foldl (.freeJoin (.inheritAt (.setSpillOwner hs2))) (fun _ _ hs => .putFrag hs))

theorem arrive (h : s.MemOk) : s.arrive.MemOk := .ite h (.arriveGo h)

theorem freeze {inner arg} (h : s.MemOk) : (s.freeze inner arg).MemOk :=
  .postMine (.setPrecinct (.foldl (.setCrew h) (fun _ _ hs => .ite (.putFrag hs) hs)))

theorem moorHere {cause x whole spec} (h : s.MemOk) : (s.moorHere cause x whole spec).MemOk := .upd (.setFrag (.setCrew h))

theorem moorGroup {spec stay g} (h : s.MemOk) : (moorGroup spec stay s g).MemOk := by
  unfold State.moorGroup
  refine .ite h (.ite (.moorHere h) ?_)
  dsimp only
  split
  · exact .setFrag (.upd (.splitOff h))
  · exact .postMine (.bumpCounter (.moorHere h))

theorem countData {fs} (h : s.MemOk) : (s.countData fs).MemOk := .countErrs h

theorem moorLanes {fs spec} (h : s.MemOk) : (s.moorLanes fs spec).MemOk := by
  unfold State.moorLanes
  refine .ite ?_ (.foldl (.countData (.setCrew h)) (fun _ _ hs => .moorGroup hs))
  split
  · exact .freeze (.countData (.setCrew h))
  · exact .countData (.setCrew h)

theorem pilotFreeze {inner arg} (h : s.MemOk) : (s.pilotFreeze inner arg).MemOk := .postMine (.setPrecinct (.setThread h))

theorem readVector {w c} (h : s.MemOk) : (s.readVector w c).1.MemOk := by
  unfold State.readVector
  extract_lets t at_ ws one
  have hone {s c} (h : s.MemOk) : (one s c).1.MemOk := by
    dsimp only [one]
    split
    · next e =>
      have h1 := of_pair e (.laneAccess h)
      exact .ite_fst (.gatherPieces h1) (.ite_fst (.gatherPieces h1) (.gatherPieces h1))
    · exact .of_pair ‹_› (.laneAccess h)
    · exact .of_pair ‹_› (.laneAccess h)
  clear_value one
  refine .ite_fst h ?_
  split
  · next e =>
    have h1 := of_pair e (hone h)
    refine .ite_fst h1 ?_
    split
    · exact .of_pair ‹_› (hone h1)
    · exact hone h1
  · exact hone h

theorem pilotFault {cause addr fpte whole pc cpos past} (h : s.MemOk) : (s.pilotFault cause addr fpte whole pc cpos past).MemOk := by
  unfold State.pilotFault
  refine .ite (.pilotFreeze (.setThread h)) ?_
  dsimp only
  split
  · exact .setThread (.of_pair ‹_› (.readVector (.setThread h)))
  · exact .pilotFreeze (.setThread (.of_pair ‹_› (.readVector (.setThread h))))
  · exact .of_pair ‹_› (.readVector (.setThread h))

theorem moorAll {cause addr fpte} (h : s.MemOk) : (s.moorAll cause addr fpte).MemOk :=
  .ite (.pilotFault h) (.ite (.freeze (.countData (.setCrew h))) (.moorHere (.countData (.setCrew h))))

theorem boundaryAt {pc past} (h : s.MemOk) : (s.boundaryAt pc past).MemOk :=
  .ite (.setThread (.setCtl h)) (.arrive (.upd (.setFrag (.setCrew (.setCtl h)))))

theorem goAt {pc} (h : s.MemOk) : (s.goAt pc).MemOk := .boundaryAt h
theorem advance {k} (h : s.MemOk) : (s.advance k).MemOk := .ite (.ite (.setCtl h) (.setFrag (.setCtl h))) (.goAt h)

theorem settle {fs k} (h : s.MemOk) : (s.settle fs k).MemOk := by
  unfold State.settle
  refine .ite (.advance h) (.ite ?_ (.ite (.moorLanes h) (.advance (.moorLanes h))))
  split
  · exact .pilotFault h
  · exact .advance h

theorem stall {wait why} (h : s.MemOk) : (s.stall wait why).MemOk := .ite (.setThread h) (.setFrag h)
theorem setParked {p} (h : s.MemOk) : (s.setParked p).MemOk := .ite (.setThread h) (.setFrag h)
theorem unpark (h : s.MemOk) : s.unpark.MemOk := .ite (.setParked h) h
theorem parkHere {va} (h : s.MemOk) : (s.parkHere va).MemOk := .ite h (.setParked (.upd h))
theorem parkStall {va} (h : s.MemOk) : (s.parkStall va).MemOk := .stall (.parkHere h)

theorem enterHandler (h : s.MemOk) : s.enterHandler.MemOk := by
  unfold State.enterHandler
  dsimp only
  split
  · exact .ite h (.postMine (.bumpCounter (.setFrag h)))
  · split
    · exact .of_pair ‹_› (.readVector h)
    · split
      · exact .setFrag (.takeJoin (.setCrew (.of_pair ‹_› (.readVector h))))
      · exact .freeze (.setFrag (.takeJoin (.setCrew (.of_pair ‹_› (.readVector h)))))

theorem leaveHandler {newpc} (h : s.MemOk) : (s.leaveHandler newpc).MemOk := .setFrag (.setCrew (.freeJoin h))

/-! Fetching, the checks before issue, the scoreboard, the speculative window, and which fragments may issue (Machine/Fetch). -/

theorem putCode {w va x} (h : s.MemOk) : (s.putCode w va x).MemOk := .upd h

theorem lineOfCode {isl l ca} (h : s.MemOk) : (s.lineOfCode isl l ca).1.MemOk := by
  unfold State.lineOfCode
  dsimp only
  split
  · exact .of_pair ‹_› (.gatherRange h)
  · exact .of_pair ‹_› (.gatherRange h)

theorem codeOf {fresh stamp va n} (h : s.MemOk) : (s.codeOf fresh stamp va n).1.MemOk := by
  unfold State.codeOf
  refine .ite_fst h ?_
  have h1 := resolve (w := s.me) (a := BitVec.ofNat 64 va) (width := 8) (k := .fetch) h
  generalize s.resolve s.me (BitVec.ofNat 64 va) 8 .fetch = r at h1 ⊢
  obtain ⟨s1, r⟩ := r
  cases r with
  | fault c f => exact .unpark h1
  | park => exact .parkHere h1
  | busy => exact h1
  | space x o lim => exact h1
  | pa l ca =>
    dsimp only
    split
    · exact .putCode (.unpark h1)
    · refine .ite_fst (.unpark h1) ?_
      have h2 := lineOfCode (isl := s.me.isl) (l := l) (ca := ca) (.unpark h1)
      split
      · next e => exact .ite (.countSoft (.of_pair e h2)) (.putCode (.countSoft (.of_pair e h2)))
      · next e => exact .of_pair e h2

theorem codeGo {fresh stamp l} (h : s.MemOk) : (codeGo fresh stamp l s).1.MemOk := by
  induction l generalizing s with
  | nil => exact h
  | cons x l ih =>
    unfold State.codeGo
    split
    · split
      · exact .of_pair ‹_› (ih (.of_pair ‹_› (.codeOf h)))
      · exact ih (.of_pair ‹_› (.codeOf h))
    · exact .codeOf h

theorem fetchWords {va n} (h : s.MemOk) : (s.fetchWords va n).1.MemOk := .codeGo (.upd h)

theorem fetchClause {va hdr n} (h : s.MemOk) : (s.fetchClause va hdr n).1.MemOk := by
  unfold State.fetchClause
  split
  · exact .ite_fst (.of_pair ‹_› (.fetchWords h)) (.of_pair ‹_› (.fetchWords h))
  · exact .fetchWords h

theorem openRun {h n} (hm : s.MemOk) : (s.openRun h n).MemOk := .ite hm (.setFrag (.upd (.setCrew hm)))

theorem fetchHere (h : s.MemOk) : (s.fetchHere).1.MemOk := by
  unfold State.fetchHere
  refine .ite_fst h ?_
  dsimp only
  split
  · exact .setCtl (.of_pair ‹_› (.fetchWords h))
  · exact .fetchWords h

theorem noteWindow {i} (h : s.MemOk) : (s.noteWindow i).MemOk := by
  unfold State.noteWindow
  dsimp only
  split
  · exact h
  · exact .setFrag h

theorem deny {c addr fpte} (h : s.MemOk) : (s.deny c addr fpte).MemOk := .ite (.stall h) (.moorAll h)

theorem issueWord (h : s.MemOk) : (s.issueWord).1.MemOk := by
  unfold State.issueWord
  dsimp only
  split
  · exact .stall (.of_pair ‹_› (.fetchHere h))
  · exact .deny (.of_pair ‹_› (.fetchHere h))
  · next e =>
    have h1 := of_pair e (.fetchHere h)
    split
    · exact .deny h1
    · exact .ite_fst (.deny h1)
        (.ite_fst h1 (.ite_fst (.stall h1) (.ite_fst (.stall h1) (.ite_fst (.stall h1) (.noteWindow h1)))))

theorem issueHeader (h : s.MemOk) : (s.issueHeader).1.MemOk := by
  unfold State.issueHeader
  refine .ite_fst (.deny h) (.ite_fst (.stall h) ?_)
  dsimp only
  split
  · exact .stall (.of_pair ‹_› (.fetchWords h))
  · exact .deny (.of_pair ‹_› (.fetchWords h))
  · split
    · exact .deny (.of_pair ‹_› (.fetchWords h))
    · refine .ite_fst (.deny (.of_pair ‹_› (.fetchWords h))) ?_
      split
      · exact .stall (.of_pair ‹_› (.fetchClause (.of_pair ‹_› (.fetchWords h))))
      · exact .deny (.of_pair ‹_› (.fetchClause (.of_pair ‹_› (.fetchWords h))))
      · exact .setCtl (.of_pair ‹_› (.fetchClause (.of_pair ‹_› (.fetchWords h))))

theorem look (h : s.MemOk) : (s.look).1.MemOk := by
  unfold State.look
  refine .ite_fst (.issueHeader h) (.ite_fst (.issueWord h) ?_)
  dsimp only
  split
  · exact .stall (.of_pair ‹_› (.fetchHere h))
  · exact .deny (.of_pair ‹_› (.fetchHere h))
  · exact .ite_fst (.stall (.of_pair ‹_› (.fetchHere h))) (.issueWord (.openRun (.of_pair ‹_› (.fetchHere h))))

theorem noteIssue (h : s.MemOk) : s.noteIssue.MemOk := .ite h (.upd h)
theorem takeBay (h : s.MemOk) : s.takeBay.MemOk := .ite h (.noteIssue h)

theorem issue (h : s.MemOk) : (s.issue).1.MemOk := by
  unfold State.issue
  split
  · exact .takeBay (.of_pair ‹_› (.look h))
  · exact .look h

/-! Integer arithmetic of the scalar and vector classes, conditions, and the arithmetic status (Machine/Flags). -/

theorem raise {f} (h : s.MemOk) : (s.raise f).MemOk := by
  unfold State.raise
  refine .ite h ?_
  dsimp only
  split
  · exact .setCrew h
  · exact .setFrag (.setCrew h)

theorem putStat {v} (h : s.MemOk) : (s.putStat v).MemOk := .ite (.setCrew h) (.upd (.setCrew h))

/-! The operand forms: how an instruction reads its operands, under its guard, and goes on (Machine/Operands). -/

theorem uniform {x body} (h : s.MemOk) (hf : ∀ (a : W64) (a_1 : State), a_1.MemOk → (body a a_1).MemOk) : (uniform x s body).MemOk :=
  .advance (.ite (hf _ _ (.walk h)) (.walk h))

theorem scalar32 {x f} (h : s.MemOk) : (scalar32 x s f).MemOk := .uniform h (fun _ _ hs => .wrS hs)
theorem scalar64 {x f} (h : s.MemOk) : (scalar64 x s f).MemOk := .uniform h (fun _ _ hs => .wrS64 hs)

theorem perLane {x body} (h : s.MemOk) (hf : ∀ (a : W64) (a_1 : Mask) (a_2 : State), a_2.MemOk → (body a a_1 a_2).MemOk) : (perLane x s body).MemOk :=
  .advance (hf _ _ _ (.walk h))

theorem vector32 {x f} (h : s.MemOk) : (vector32 x s f).MemOk := .perLane h (fun _ _ _ hs => .wrV hs)
theorem vector64 {x f} (h : s.MemOk) : (vector64 x s f).MemOk := .perLane h (fun _ _ _ hs => .wrV64 hs)

/-! The floating-point instructions (Machine/FloatOps). -/

theorem flagged {x f} (h : s.MemOk) : (flagged x s f).MemOk := .perLane h (fun _ _ _ hs => .raise (.wrV hs))
theorem floatOp {x f} (h : s.MemOk) : (floatOp x s f).MemOk := .flagged h
theorem execFadd {x} (h : s.MemOk) : OutOk (execFadd x s) := .next (.floatOp h)
theorem execFsub {x} (h : s.MemOk) : OutOk (execFsub x s) := .next (.floatOp h)
theorem execFmul {x} (h : s.MemOk) : OutOk (execFmul x s) := .next (.floatOp h)
theorem execFfma {x} (h : s.MemOk) : OutOk (execFfma x s) := .next (.floatOp h)

theorem minMaxOp {x mx} (h : s.MemOk) : (minMaxOp x s mx).MemOk := by
  unfold Machine.minMaxOp
  exact .vector32 h

theorem execFmin {x} (h : s.MemOk) : OutOk (execFmin x s) := .next (.minMaxOp h)
theorem execFmax {x} (h : s.MemOk) : OutOk (execFmax x s) := .next (.minMaxOp h)
theorem execFcmp {x} (h : s.MemOk) : OutOk (execFcmp x s) := .next (.perLane h (fun _ _ _ hs => .wrP hs))
theorem execFrcp {x} (h : s.MemOk) : OutOk (execFrcp x s) := .next (.floatOp h)
theorem execFrsq {x} (h : s.MemOk) : OutOk (execFrsq x s) := .next (.floatOp h)
theorem execFsqrt {x} (h : s.MemOk) : OutOk (execFsqrt x s) := .next (.floatOp h)
theorem execFexp2 {x} (h : s.MemOk) : OutOk (execFexp2 x s) := .next (.floatOp h)
theorem execFlog2 {x} (h : s.MemOk) : OutOk (execFlog2 x s) := .next (.floatOp h)
theorem execFsin {x} (h : s.MemOk) : OutOk (execFsin x s) := .next (.floatOp h)
theorem execFcos {x} (h : s.MemOk) : OutOk (execFcos x s) := .next (.floatOp h)
theorem execFtanh {x} (h : s.MemOk) : OutOk (execFtanh x s) := .next (.floatOp h)
theorem execFrnd {x} (h : s.MemOk) : OutOk (execFrnd x s) := .next (.vector32 h)
theorem execFclass {x} (h : s.MemOk) : OutOk (execFclass x s) := .next (.vector32 h)
theorem execFscale {x} (h : s.MemOk) : OutOk (execFscale x s) := .next (.flagged h)
theorem execFdot2 {x} (h : s.MemOk) : OutOk (execFdot2 x s) := .next (.flagged h)

/-! The conversion instructions (Machine/Convert). -/

theorem wrVn {base n m f} (h : s.MemOk) : (s.wrVn base n m f).MemOk := .foldl h (fun _ _ hs => .wrV hs)
theorem convLanes {x n f} (h : s.MemOk) : (convLanes x s n f).MemOk := .perLane h (fun _ _ _ hs => .raise (.wrVn hs))
theorem execCvt {x} (h : s.MemOk) : OutOk (execCvt x s) := .next (.convLanes h)
theorem execPack {x} (h : s.MemOk) : OutOk (execPack x s) := .next (.convLanes h)
theorem execUnpk {x} (h : s.MemOk) : OutOk (execUnpk x s) := .next (.convLanes h)
theorem execCvtb {x} (h : s.MemOk) : OutOk (execCvtb x s) := .next (.convLanes h)

/-! What releases, acquires and fences wait for (Machine/Order). -/

theorem addRel {scope} (h : s.MemOk) : (s.addRel scope).MemOk := .ite (.setThread h) (.setFrag h)
theorem putTwins {gk l} (h : s.MemOk) : (s.putTwins gk l).MemOk := .ite h (.upd h)
theorem twinRelease {ck scope} (h : s.MemOk) : (s.twinRelease ck scope).MemOk := .ite h (.putTwins h)
theorem twinAcquire {ck scope} (h : s.MemOk) : (s.twinAcquire ck scope).MemOk := .ite h (.putTwins h)

theorem takeErr {p} (h : s.MemOk) : SomeOk (s.takeErr p) :=
  .ite .none (.map fun _ => .moorAll (.setFrag h))

/-! Reads through the write buffers and the L1 (Machine/Buffer). -/

theorem noteSeen {x load ls} (h : s.MemOk) : (s.noteSeen x load ls).MemOk := .ite h (.ite (.putCrew h) (.upd h))

theorem readNow {w hint va ca loc n} (h : s.MemOk) : (s.readNow w hint va ca loc n).1.MemOk := by
  unfold State.readNow
  refine .ite_fst h (.ite_fst h (.ite_fst (.ite_fst h ?_) (.ite_fst h ?_)))
  · dsimp only
    split
    · exact .of_pair ‹_› (.homeRead h)
    · exact .of_pair ‹_› (.homeRead h)
  · dsimp only
    split
    · exact .accessDone (.of_pair ‹_› (.needRead h))
    · exact .of_pair ‹_› (.needRead h)

theorem readAll {w hint ca l} (h : s.MemOk) : (s.readAll w hint ca l).1.MemOk := by
  induction l generalizing s with
  | nil => exact h
  | cons x l ih =>
    unfold State.readAll
    split
    · exact .of_pair ‹_› (.readNow h)
    · split
      · exact .of_pair ‹_› (ih (.of_pair ‹_› (.readNow h)))
      · exact .of_pair ‹_› (ih (.of_pair ‹_› (.readNow h)))

/-! Loads, stores, atomics, REDs, prefetch and cache control (Machine/Memory). -/

theorem resolveLane {w k width skw whole L a} (h : s.MemOk) : (s.resolveLane w k width skw whole L a).1.MemOk := by
  unfold State.resolveLane
  refine .ite_fst h ?_
  dsimp only
  split
  · next e =>
    have h1 := of_pair e (.laneAccess h)
    exact .ite_fst (.unpark h1) (.ite_fst (.unpark h1) (.ite (.unpark h1) (.countSoft (.unpark h1))))
  · exact .unpark (.of_pair ‹_› (.laneAccess h))
  · next e =>
    have h1 := of_pair e (.laneAccess h)
    exact .ite (.parkHere (.upd h1)) (.upd h1)
  · exact .of_pair ‹_› (.laneAccess h)

theorem resolveGo {w k width skw whole l} (h : s.MemOk) : (resolveGo w k width skw whole l s).1.MemOk := by
  induction l generalizing s with
  | nil => exact h
  | cons x l ih =>
    unfold State.resolveGo
    split
    · exact .of_pair ‹_› (.resolveLane h)
    · split
      · exact .of_pair ‹_› (ih (.of_pair ‹_› (.resolveLane h)))
      · exact ih (.of_pair ‹_› (.resolveLane h))

theorem resolveLanes {w k width skw whole ls} (h : s.MemOk) : (resolveLanes w k width skw whole ls s).1.MemOk := by
  unfold State.resolveLanes
  dsimp only
  split
  · exact .ite_fst (.of_pair ‹_› (.resolveGo h)) (.of_pair ‹_› (.resolveGo h))
  · exact .resolveGo h

theorem launchOp {o acquire} (h : s.MemOk) : (s.launchOp o acquire).MemOk :=
  .ite (.setFrag (.upd (.setCrew h))) (.upd (.setCrew h))

theorem opSkipped {clsB} (h : s.MemOk) : (s.opSkipped clsB).MemOk := .ite h (.setCrew h)

theorem wrBlock {o vs} (h : s.MemOk) : (wrBlock s o vs).MemOk := by
  unfold Machine.wrBlock
  split
  · exact .foldl h (fun _ _ hs => .putS hs)
  · exact h

theorem pilotLoad {x a} (h : s.MemOk) : (pilotLoad x s a).MemOk := by
  unfold Machine.pilotLoad
  split
  · refine .ite (.stall (.of_pair ‹_› (.resolveLane h))) ?_
    split
    · exact .advance (.wrBlock (.noteSeen (.of_pair ‹_› (.readAll (.of_pair ‹_› (.resolveLane h))))))
    · exact .stall (.of_pair ‹_› (.readAll (.of_pair ‹_› (.resolveLane h))))
  · exact .settle (.of_pair ‹_› (.resolveLane h))
  · exact .advance (.of_pair ‹_› (.resolveLane h))
  · exact .stall (.of_pair ‹_› (.resolveLane h))

theorem execLd {x} {s0 : State} (h : s0.MemOk) : OutOk (execLd x s0) := by
  unfold Machine.execLd
  refine .next ?_
  extract_lets r s ls d
  have hr : r.2.MemOk := .walk h
  refine .ite (.advance (.opSkipped hr)) (.ite (.pilotLoad hr) ?_)
  dsimp only
  split
  · exact .stall (.of_pair ‹_› (.resolveLanes hr))
  · next e =>
    have h3 := of_pair e (.resolveLanes hr)
    refine .ite (.stall h3) ?_
    split
    · exact .ite (.advance (.ite (.opSkipped h3) (.launchOp h3))) (.stall (.setFrag (.ite (.opSkipped h3) (.launchOp h3))))
    · exact .settle (.ite (.opSkipped h3) (.launchOp h3))

theorem sendStores {x w k red kind} (h : s.MemOk) : (sendStores x s w k red kind).MemOk := by
  unfold Machine.sendStores
  refine .ite (.advance h) ?_
  dsimp only
  split
  · exact .stall (.of_pair ‹_› (.resolveLanes h))
  · next e =>
    have h1 := of_pair e (.resolveLanes h)
    exact .ite (.stall h1)
      (.ite (.stall h1)
        (.settle
          (.ite (.ite (.ite (.twinRelease h1) h1) (.push (.ite (.twinRelease h1) h1)))
            (.launchOp (.ite (.ite (.twinRelease h1) h1) (.push (.ite (.twinRelease h1) h1)))))))

theorem execSt {x} (h : s.MemOk) : OutOk (execSt x s) := .next (.sendStores (.walk h))
theorem execRedArith {x} (h : s.MemOk) : OutOk (execRedArith x s) := .next (.sendStores (.walk h))
theorem execRedBitwise {x} (h : s.MemOk) : OutOk (execRedBitwise x s) := .next (.sendStores (.walk h))

theorem atomReady {w hint ca loc n va} (h : s.MemOk) : (atomReady s w hint ca loc n va).1.MemOk :=
  .ite_fst h (.ite_fst h (.ite_fst (.ite_fst h (.homeWrite h)) (.needOwn h)))

theorem atomPerform {bitwise x w loc ops} (h : s.MemOk) : (atomPerform bitwise x s w loc ops).1.MemOk := by
  unfold Machine.atomPerform
  extract_lets n r s1 lk a s2 s2'
  have hs1 : s1.MemOk := .ofMem (Memory.wf_writeN h _ _ _)
  have hs2' : s2'.MemOk := .ite (.accessDone (.setCline hs1)) (.ite (.l2Written hs1) hs1)
  exact .ite (.rollbackLine hs2') hs2'

theorem pilotAtom {bitwise x a} (h : s.MemOk) : (pilotAtom bitwise x s a).MemOk := by
  unfold Machine.pilotAtom
  dsimp only
  split
  · split
    · split
      · exact .stall (.of_pair ‹_› (.atomReady (.of_pair ‹_› (.resolveLane h))))
      · exact .advance (.wrBlock (.atomPerform (.of_pair ‹_› (.atomReady (.of_pair ‹_› (.resolveLane h))))))
    · exact .stall (.of_pair ‹_› (.resolveLane h))
  · exact .settle (.of_pair ‹_› (.resolveLane h))
  · exact .advance (.of_pair ‹_› (.resolveLane h))
  · exact .stall (.of_pair ‹_› (.resolveLane h))

theorem startAtom {bitwise x} {s0 : State} (h : s0.MemOk) : (startAtom bitwise x s0).MemOk := by
  unfold Machine.startAtom
  extract_lets r s ls ord d
  have hr : r.2.MemOk := .walk h
  refine .ite (.advance (.opSkipped hr)) (.ite (.ite (.pilotAtom hr) (.stall hr)) ?_)
  dsimp only
  split
  · exact .stall (.of_pair ‹_› (.resolveLanes hr))
  · next e =>
    have h3 := of_pair e (.resolveLanes hr)
    exact .settle (.ite (.twinRelease (.ite (.opSkipped h3) (.launchOp h3))) (.ite (.opSkipped h3) (.launchOp h3)))

theorem execAtomArith {x} (h : s.MemOk) : OutOk (execAtomArith x s) := .next (.startAtom h)
theorem execAtomBitwise {x} (h : s.MemOk) : OutOk (execAtomBitwise x s) := .next (.startAtom h)

theorem prefetchFill {l2 me l ca va} (h : s.MemOk) : (prefetchFill l2 s me l ca va).MemOk := by
  unfold Machine.prefetchFill
  refine .ite h (.ite ?_ (.needRead h))
  dsimp only
  split
  · exact .fillL2 (.of_pair ‹_› (.homeRead h))
  · exact .of_pair ‹_› (.homeRead h)

theorem prefetchLane {l2 r L a} (h : r.1.MemOk) : (prefetchLane l2 r L a).1.MemOk := by
  unfold Machine.prefetchLane
  dsimp only
  split
  · exact h
  · exact h
  · split
    · exact .prefetchFill (.of_pair ‹_› (.laneAccess h))
    · exact .upd (.of_pair ‹_› (.laneAccess h))
    · exact .of_pair ‹_› (.laneAccess h)
    · exact .of_pair ‹_› (.laneAccess h)

theorem execPref {x} (h : s.MemOk) : OutOk (execPref x s) := by
  unfold Machine.execPref
  refine .next ?_
  extract_lets r q
  have hr : r.2.MemOk := .walk h
  have hq : q.1.MemOk := .foldl_fst hr (fun _ _ hs => .prefetchLane hs)
  refine .ite (.stall hr) ?_
  split
  · exact .stall hq
  · exact .advance (.unpark hq)
  · exact .ite (.parkStall hq) (.advance (.launchOp hq))

theorem cleanLineOf {inv lk} (h : s.MemOk) : (cleanLineOf inv s lk).MemOk :=
  .ite (.evictL1 (.ite (.setLine (.setCline h)) h)) (.ite (.setLine (.setCline h)) h)

theorem execCctl {x} {s0 : State} (h : s0.MemOk) : OutOk (execCctl x s0) := by
  unfold Machine.execCctl
  refine .next ?_
  extract_lets r s ls ak _
  have hr : r.2.MemOk := .walk h
  refine .ite (.advance hr) (.ite (.advance (.upd hr)) ?_)
  dsimp only
  split
  · exact .stall (.of_pair ‹_› (.resolveLanes hr))
  · next e =>
    have h3 := of_pair e (.resolveLanes hr)
    split
    · exact .stall h3
    · split
      · exact .parkStall h3
      · exact .ite (.stall h3) (.settle (.foldl h3 (fun _ _ hs => .cleanLineOf hs)))

/-! Fences, tile windows and landing counters (Machine/Landing). -/

theorem openWindow {sc scope} (h : s.MemOk) : (s.openWindow sc scope).MemOk :=
  .ite (.advance (.setFrag h)) (.setFrag (.advance (.setFrag h)))

theorem endWindow (h : s.MemOk) : s.endWindow.MemOk := by
  unfold State.endWindow
  dsimp only
  split
  · exact h
  · exact .twinAcquire (.setFrag (.setCrew h))

theorem closeWindow (h : s.MemOk) : s.closeWindow.MemOk := .ite (.arrive (.endWindow h)) (.endWindow h)
theorem settleOlder (h : s.MemOk) : s.settleOlder.MemOk := .setCtx h

theorem execFence {x} (h : s.MemOk) : OutOk (execFence x s) := by
  unfold Machine.execFence
  refine .next ?_
  extract_lets scope sc s1
  have hs1 : s1.MemOk := .ite (.twinRelease (.ite h (.addRel h))) h
  refine .ite (.advance h) ?_
  split
  · exact .of_some (MemOk.takeErr h) ‹_›
  · exact .ite (.ite (.advance (.settleOlder h)) (.stall h))
      (.ite (.advance hs1) (.ite (.advance (.twinAcquire hs1)) (.ite (.stall h) (.ite (.stall h) (.openWindow hs1)))))

theorem execTwin {x} {s0 : State} (h : s0.MemOk) : OutOk (execTwin x s0) :=
  .next (.ite (.advance (.walk h)) (.ite (.moorAll (.walk h)) (.advance (.upd (.walk h)))))

theorem countOn {loc n e} (h : s.MemOk) : (countOn s loc n e).MemOk :=
  .ofMem (Memory.wf_writeN (Memory.wf_writeN (Memory.wf_writeN h _ _ _) _ _ _) _ _ _)

theorem softCounters {cs words} (h : s.MemOk) : (s.softCounters cs words).MemOk := .countSoft h

theorem execSetc {x} {s0 : State} (h : s0.MemOk) : OutOk (execSetc x s0) := by
  unfold Machine.execSetc
  refine .next ?_
  dsimp only
  split
  · exact .stall (.walk h)
  · exact .ite (.stall (.walk h)) (.settle (.foldl (.softCounters (.walk h)) (fun _ _ hs => .store hs)))

theorem execWaitc {x} {s0 : State} (h : s0.MemOk) : OutOk (execWaitc x s0) := by
  unfold Machine.execWaitc
  refine .next ?_
  dsimp only
  split
  · exact .stall (.walk h)
  · split
    · exact .ite (.stall (.walk h)) (.ite (.stall (.walk h)) (.ite (.moorLanes (.walk h)) (.stall (.moorLanes (.walk h)))))
    · exact .settle (.twinAcquire (.wrV (.softCounters (.walk h))))

theorem execTestc {x} {s0 : State} (h : s0.MemOk) : OutOk (execTestc x s0) := by
  unfold Machine.execTestc
  refine .next ?_
  dsimp only
  split
  · exact .stall (.walk h)
  · exact .settle (.ite (.twinAcquire (.wrP (.softCounters (.walk h)))) (.wrP (.softCounters (.walk h))))

/-! The walker instructions (Machine/Walkers). -/

theorem partLocs {w L a width n} (h : s.MemOk) : (s.partLocs w L a width n).1.MemOk := by
  induction n generalizing s a with
  | zero => exact h
  | succ n ih =>
    unfold State.partLocs
    dsimp only
    split
    · refine .ite_fst (.of_pair ‹_› (.laneAccess h)) ?_
      split
      · exact .of_pair ‹_› (ih (.of_pair ‹_› (.laneAccess h)))
      · exact ih (.of_pair ‹_› (.laneAccess h))
    · exact .of_pair ‹_› (.laneAccess h)

theorem dropReplays {n} (h : s.MemOk) : (s.dropReplays n).MemOk := .ite (.setThread h) (.upd (.setCrew h))

theorem execWbind {x} (h : s.MemOk) : OutOk (execWbind x s) := by
  unfold Machine.execWbind
  refine .next (.ite (.advance h) ?_)
  dsimp only
  split
  · exact .moorAll (.of_pair ‹_› (.partLocs h))
  · refine .ite (.stall (.of_pair ‹_› (.partLocs h))) ?_
    split
    · exact .stall (.of_pair ‹_› (.partLocs h))
    · split
      · exact .stall (.of_pair ‹_› (.readAll (.of_pair ‹_› (.partLocs h))))
      · exact .advance (.dropReplays (.setWalker (.noteSeen (.of_pair ‹_› (.readAll (.of_pair ‹_› (.partLocs h)))))))
  · exact .stall (.of_pair ‹_› (.partLocs h))

theorem execWset {x} (h : s.MemOk) : OutOk (execWset x s) := .next (.advance (.ite (.setWalker h) h))

theorem execWget {x} (h : s.MemOk) : OutOk (execWget x s) := by
  unfold Machine.execWget
  refine .next (.advance (.ite ?_ h))
  dsimp only
  split
  · exact .wrS64 h
  · exact .wrS h
  · exact .wrS h
  · exact .wrS h
  · exact .wrS64 h
  · exact .wrS h

/-! Format blocks, accumulator tiles and the matrix instructions, and the fragment load (Machine/Matrix). -/

theorem setTile {n f} (h : s.MemOk) : (s.setTile n f).MemOk := .upd h

theorem rowAccess {w k skw L a n} (h : s.MemOk) : (s.rowAccess w k skw L a n).1.MemOk := by
  unfold State.rowAccess
  refine .ite_fst h (.ite_fst h ?_)
  dsimp only
  split
  · refine .ite_fst (.of_pair ‹_› (.resolveRange h)) ?_
    split
    · exact .of_pair ‹_› (.resolveRange h)
    · exact .of_pair ‹_› (.resolveRange h)
  · exact .of_pair ‹_› (.resolveRange h)

theorem rowsGo {w k skw n helper rs} (h : s.MemOk) : (rowsGo w k skw n helper rs s).1.MemOk := by
  induction rs generalizing s with
  | nil => exact h
  | cons r rs ih =>
    unfold State.rowsGo
    extract_lets here
    have hh : here.1.MemOk := by
      dsimp only [here]
      split <;> exact .of_pair ‹_› (.rowAccess h)
    clear_value here
    split
    · exact hh
    · split
      · exact .of_pair ‹_› (ih hh)
      · exact ih hh

theorem softRows {as} (h : s.MemOk) : (s.softRows as).MemOk := .countSoft h
theorem execSetfb {x} (h : s.MemOk) : OutOk (execSetfb x s) := .next (.advance (.ite (.setCrew h) h))

theorem execMma {x} {s0 : State} (h : s0.MemOk) : OutOk (execMma x s0) := by
  unfold Machine.execMma
  refine .next (.ite (.advance (.opSkipped (.walk h))) ?_)
  dsimp only
  split
  · exact .moorAll (.walk h)
  · split
    · exact .moorAll (.walk h)
    · split
      · exact .moorAll (.walk h)
      · exact .ite (.stall (.walk h)) (.advance (.launchOp (.upd (.setTile (.countSoft (.walk h))))))

theorem execAclr {x} (h : s.MemOk) : OutOk (execAclr x s) := .next (.advance (.ite (.foldl h (fun _ _ hs => .setTile hs)) h))

theorem aldMemory {x w m} (h : s.MemOk) : (aldMemory x s w m).MemOk := by
  unfold Machine.aldMemory
  refine .ite (.stall h) (.ite (.stall h) ?_)
  dsimp only
  split
  · exact .stall (.of_pair ‹_› (.rowsGo h))
  · next e =>
    have h1 := of_pair e (.rowsGo h)
    split
    · exact .moorAll h1
    · split
      · exact .parkStall h1
      · split
        · refine .stall (.of_pair ‹_› (.foldl_fst (.unpark h1) (fun _ _ hs => ?_)))
          split
          · split
            · exact .of_pair ‹_› (.readAll hs)
            · exact .of_pair ‹_› (.readAll hs)
          · exact hs
          · exact hs
        · refine .advance (.launchOp (.setTile (.softRows (.of_pair ‹_› (.foldl_fst (.unpark h1) (fun _ _ hs => ?_))))))
          split
          · split
            · exact .of_pair ‹_› (.readAll hs)
            · exact .of_pair ‹_› (.readAll hs)
          · exact hs
          · exact hs

theorem execAld {x} {s0 : State} (h : s0.MemOk) : OutOk (execAld x s0) := by
  unfold Machine.execAld
  refine .next ?_
  extract_lets r s m n s1
  have hr : r.2.MemOk := .walk h
  have hs1 : s1.MemOk := .setTile hr
  exact .ite (.advance (.opSkipped hr)) (.ite (.advance (.launchOp hs1)) (.aldMemory hr))

theorem drainTile {x n drained} (h : s.MemOk) : (drainTile x s n drained).MemOk := .ite (.setTile h) h
theorem drainRegs {x m} (h : s.MemOk) : (drainRegs x s m).MemOk := .advance (.launchOp (.drainTile h))

theorem drainMemory {x w m} (h : s.MemOk) : (drainMemory x s w m).MemOk := by
  unfold Machine.drainMemory
  refine .ite (.stall h) ?_
  dsimp only
  split
  · exact .stall (.of_pair ‹_› (.rowsGo h))
  · split
    · exact .moorAll (.of_pair ‹_› (.rowsGo h))
    · split
      · exact .parkStall (.of_pair ‹_› (.rowsGo h))
      · exact .advance (.launchOp (.drainTile (.softRows (.unpark (.of_pair ‹_› (.rowsGo h))))))

theorem execAdrn {x} {s0 : State} (h : s0.MemOk) : OutOk (execAdrn x s0) :=
  .next (.ite (.advance (.opSkipped (.walk h))) (.ite (.drainRegs (.walk h)) (.drainMemory (.walk h))))

theorem execLdf {x} {s0 : State} (h : s0.MemOk) : OutOk (execLdf x s0) := by
  unfold Machine.execLdf
  refine .next (.ite (.advance (.opSkipped (.walk h))) ?_)
  dsimp only
  split
  · exact .moorAll (.walk h)
  · split
    · exact .moorAll (.walk h)
    · exact .advance (.launchOp (.softRows (.walk h)))

/-! The completion of long-latency operations and of parked accesses (Machine/Complete). -/

theorem moorLate {k o m c} (h : s.MemOk) : SomeOk (s.moorLate k o m c) := by
  unfold State.moorLate
  refine .ite (.some (.upd (.moorHere (.ite (.addPend (.upd (.putFrag (.rollback h)))) (.upd (.putFrag (.rollback h))))))) ?_
  dsimp only
  split
  · exact .none
  · exact .some (.putFrag (.upd (.splitOff (.rollback h))))

theorem lateGroup {ck o fs q c} (h : q.1.MemOk) : (lateGroup ck o fs q c).1.MemOk := by
  unfold State.lateGroup
  refine .foldl_fst h (fun _ _ hs => .ite_fst hs ?_)
  split
  · exact .of_some (MemOk.moorLate (.countErrs (.putCrew hs))) ‹_›
  · exact hs

theorem lateFreeze {ck o fs} (h : s.MemOk) : (s.lateFreeze ck o fs).MemOk := by
  unfold State.lateFreeze
  dsimp only
  split
  · exact h
  · split
    · exact h
    · exact .upd (.freeze (.upd (.putFrag (.rollback (.countErrs (.putCrew h))))))

theorem lateFaults {ck id o fs} (h : s.MemOk) : (s.lateFaults ck id o fs).1.MemOk :=
  .ite_fst h (.ite_fst h (.ite_fst (.lateFreeze h) (.foldl_fst h (fun _ _ hs => .lateGroup hs))))

theorem retry {w ck k width skw a} (h : s.MemOk) : (s.retry w ck k width skw a).1.MemOk := by
  unfold State.retry
  refine .ite_fst h ?_
  dsimp only
  split
  · next e =>
    have h1 := of_pair e (.laneAccess h)
    exact .ite_fst h1 (.ite_fst h1 (.countSoft h1))
  · exact .of_pair ‹_› (.laneAccess h)
  · exact .upd (.of_pair ‹_› (.laneAccess h))
  · exact .of_pair ‹_› (.laneAccess h)

theorem noteLines {ck id o a} (h : s.MemOk) : (s.noteLines ck id o a).MemOk := by
  unfold State.noteLines
  dsimp only
  split
  · exact .ite (.putFrag h) h
  · exact h

theorem accStep {ck id o a} (h : s.MemOk) : (s.accStep ck id o a).1.MemOk := by
  unfold State.accStep
  dsimp only
  split
  · split
    · refine .of_pair ‹_› ?_
      split
      · refine .ite_fst (.of_pair ‹_› (.retry h)) ?_
        split
        · exact .noteLines (.noteSeen (.of_pair ‹_› (.readAll (.of_pair ‹_› (.retry h)))))
        · exact .of_pair ‹_› (.readAll (.of_pair ‹_› (.retry h)))
      · exact .retry h
    · split
      · refine .ite_fst (.of_pair ‹_› (.retry h)) ?_
        split
        · exact .noteLines (.noteSeen (.of_pair ‹_› (.readAll (.of_pair ‹_› (.retry h)))))
        · exact .of_pair ‹_› (.readAll (.of_pair ‹_› (.retry h)))
      · exact .retry h
  · split
    · exact .ite_fst (.of_pair ‹_› (.retry h)) (.ite_fst (.of_pair ‹_› (.retry h)) (.push (.of_pair ‹_› (.retry h))))
    · exact .retry h
  · split
    · exact .ite_fst (.of_pair ‹_› (.retry h)) (.ite_fst (.of_pair ‹_› (.retry h)) (.push (.of_pair ‹_› (.retry h))))
    · exact .retry h
  · split
    · refine .ite_fst (.of_pair ‹_› (.retry h)) (.ite_fst (.of_pair ‹_› (.retry h)) ?_)
      split
      · exact .prefetchFill (.of_pair ‹_› (.retry h))
      · exact .of_pair ‹_› (.retry h)
    · exact .of_pair ‹_› (.retry h)
  · exact h

theorem accsGo {ck id o l} (h : s.MemOk) : (accsGo ck id o l s).1.MemOk := by
  induction l generalizing s with
  | nil => exact h
  | cons x l ih =>
    unfold State.accsGo
    dsimp only
    split
    · exact ih (.of_pair ‹_› (.accStep h))
    · exact ih (.of_pair ‹_› (.accStep h))

theorem retryAtom {ck o x l} (h : s.MemOk) : (retryAtom ck o x l s).1.MemOk := by
  induction l generalizing s with
  | nil => exact h
  | cons x l ih =>
    unfold State.retryAtom
    dsimp only
    split
    · exact ih (.of_pair ‹_› (.retry h))
    · exact ih (.of_pair ‹_› (.retry h))

theorem atomGo {ck id o bw x l l1} (h : s.MemOk) : (atomGo ck id o bw x l l1 s).1.MemOk := by
  induction l generalizing l1 s with
  | nil => exact h
  | cons x l ih =>
    unfold State.atomGo
    dsimp only
    split
    · exact ih h
    · split
      · exact ih (.of_pair ‹_› (.ite_fst h (.atomReady h)))
      · exact ih (.atomPerform (.of_pair ‹_› (.ite_fst h (.atomReady h))))

theorem rowReady {w ca l} (h : s.MemOk) : (rowReady w ca l s).1.MemOk := by
  induction l generalizing s with
  | nil => exact h
  | cons x l ih =>
    unfold State.rowReady
    exact ih (.atomReady h)

theorem giveErr {ck o a} (h : s.MemOk) : (s.giveErr ck o a).MemOk := by
  unfold State.giveErr
  extract_lets
  split
  · exact .putFrag h
  · exact h

theorem rowStep {ck id o x a} (h : s.MemOk) : (s.rowStep ck id o x a).1.MemOk := by
  unfold State.rowStep
  dsimp only
  split
  · exact .of_pair ‹_› (.rowReady h)
  · next e =>
    have h1 := of_pair e (.rowReady h)
    exact .ite_fst (.giveErr h1)
      (.foldl (.hostWrites (.writePieces h1)) (fun _ _ hs => .rollbackLine (.ite (.accessDone (.setCline hs)) hs)))

theorem rowsStep {ck id o x l} (h : s.MemOk) : (rowsStep ck id o x l s).1.MemOk := by
  induction l generalizing s with
  | nil => exact h
  | cons x l ih =>
    unfold State.rowsStep
    dsimp only
    split
    · exact ih (.of_pair ‹_› (.rowStep h))
    · exact ih (.of_pair ‹_› (.rowStep h))

theorem completeOp {ck id o} (h : s.MemOk) : (s.completeOp ck id o).MemOk := .ite (.twinAcquire (.putCrew h)) (.putCrew h)
theorem waitAtHome {ck id o} (h : s.MemOk) : (s.waitAtHome ck id o).MemOk := .holdLines h
theorem reparkBy {sel} (h : s.MemOk) : (s.reparkBy sel).MemOk := .ite h (.upd h)
theorem repark {core line} (h : s.MemOk) : (s.repark core line).MemOk := .reparkBy h
theorem replaysOver {ck o} (h : s.MemOk) : (s.replaysOver ck o).MemOk := .ite h (.putCrew h)

theorem progressOp {ck id} (h : s.MemOk) : (s.progressOp ck id).MemOk := by
  unfold State.progressOp
  split
  · exact h
  · extract_lets q r f gone c
    have hr : r.1.MemOk := by
      dsimp only [r]
      split
      · exact .accsGo h
      · exact .accsGo h
      · exact .accsGo h
      · exact .accsGo h
      · exact .atomGo (.retryAtom h)
      · exact .ite_fst h h
      · exact .ite_fst h (.rowsStep h)
      · exact h
      · exact h
    have hf : f.1.MemOk := .lateFaults hr
    split
    · exact hf
    · exact .ite (.completeOp hf) (.waitAtHome (.replaysOver (.putCrew hf)))

theorem execLongLatencyComplete {crew op} (h : s.MemOk) : OutOk (execLongLatencyComplete crew op s) :=
  .next (.ite (.progressOp h) h)

/-! Flits on links: coding, routes, ports, transmission, and how acknowledgements reach a source (Machine/Link). -/

theorem setPort {isl p x} (h : s.MemOk) : (s.setPort isl p x).MemOk := .upd h
theorem pushAck {a} (h : s.MemOk) : (s.pushAck a).MemOk := .upd h
theorem pushHm {a} (h : s.MemOk) : (s.pushHm a).MemOk := .upd h

theorem loseOp {o} (h : s.MemOk) : (s.loseOp o).MemOk := by
  unfold State.loseOp
  dsimp only
  split
  · exact .upd h
  · exact h

theorem lose {f} (h : s.MemOk) : (s.lose f).MemOk := by
  unfold State.lose
  dsimp only
  split
  · exact .pushHm h
  · exact .pushHm h
  · exact .pushHm (.loseOp h)
  · exact .foldl h (fun _ _ hs => .ite (.upd (.pushHm (.loseOp hs))) (.pushHm (.loseOp hs)))

theorem pump {isl p} (h : s.MemOk) : (s.pump isl p).MemOk := .setPort h

theorem enqueue {isl p f} (h : s.MemOk) : (s.enqueue isl p f).MemOk := by
  unfold State.enqueue
  refine .ite (.lose h) ?_
  dsimp only
  split
  · exact .setPort (.setPort h)
  · exact .upd (.setPort (.setPort h))

theorem sendBy {isl e f} (h : s.MemOk) : (s.sendBy isl e f).MemOk := .enqueue h
theorem sendFar {isl op cause reply} (h : s.MemOk) : (s.sendFar isl op cause reply).MemOk := .upd h

theorem sendAck {isl op cause} (h : s.MemOk) : (s.sendAck isl op cause).MemOk :=
  .ite (.pushAck h) (.ite (.sendFar h) (.ite (.sendBy h) (.pushHm h)))

theorem takeCredit {isl dst cls} (h : s.MemOk) : (s.takeCredit isl dst cls).MemOk := .upd h
theorem owedCredit {src dst cls} (h : s.MemOk) : (s.owedCredit src dst cls).MemOk := .upd h
theorem execCreditReturn {isl dst cls} (h : s.MemOk) : OutOk (execCreditReturn isl dst cls s) := .next (.ite h (.upd h))

/-! Island operations: their issue, what happens at the source, and their arrival at the target (Machine/Remote). -/

theorem addOp {o} (h : s.MemOk) : (s.addOp o).MemOk := .ite (.upd h) (.upd (.upd h))

theorem localRanges {w k len l} (h : s.MemOk) : (localRanges w k len l s).1.MemOk := by
  induction l generalizing s with
  | nil => exact h
  | cons x l ih =>
    unfold State.localRanges
    split
    · exact .parkHere (.of_pair ‹_› (.resolveRange h))
    · exact .of_pair ‹_› (.resolveRange h)
    · split
      · exact .of_pair ‹_› (ih (.of_pair ‹_› (.resolveRange h)))
      · exact ih (.of_pair ‹_› (.resolveRange h))
    · exact ih (.of_pair ‹_› (.resolveRange h))

theorem issueOps {kind x} {s0 : State} (h : s0.MemOk) : (issueOps kind x s0).MemOk := by
  unfold Machine.issueOps
  extract_lets r s w parts b id lc moves len rty ta la skew badTa rest
  have hr : r.2.MemOk := .walk h
  refine .ite (.advance hr) ?_
  dsimp only
  split
  · exact .settle hr
  · refine .ite (.stall hr) ?_
    split
    · exact .stall (.of_pair ‹_› (.localRanges hr))
    · next e =>
      have h3 := of_pair e (.localRanges hr)
      exact .ite (.stall (.unpark h3)) (.settle (.twinRelease (.foldl (.unpark h3) (fun _ _ hs => .addOp hs))))

theorem execPut {x} (h : s.MemOk) : OutOk (execPut x s) := .next (.issueOps h)
theorem execPuts {x} (h : s.MemOk) : OutOk (execPuts x s) := .next (.issueOps h)
theorem execGet {x} (h : s.MemOk) : OutOk (execGet x s) := .next (.issueOps h)
theorem execRadd {x} (h : s.MemOk) : OutOk (execRadd x s) := .next (.issueOps h)
theorem execNotify {x} (h : s.MemOk) : OutOk (execNotify x s) := .next (.issueOps h)

theorem execWaitn {x} {s0 : State} (h : s0.MemOk) : OutOk (execWaitn x s0) := by
  unfold Machine.execWaitn
  refine .next ?_
  extract_lets r s n t k
  have hr : r.2.MemOk := .walk h
  exact .ite (.advance hr) (.ite (.moorAll hr) (.ite (.advance (.twinAcquire hr)) (.stall hr)))

theorem execTestn {x} {s0 : State} (h : s0.MemOk) : OutOk (execTestn x s0) := by
  unfold Machine.execTestn
  refine .next ?_
  extract_lets r s n yes s1
  have hr : r.2.MemOk := .walk h
  have hs1 : s1.MemOk := .ite (.wrQ hr) (.wrP hr)
  exact .ite (.advance hr) (.ite (.moorAll hr) (.advance (.ite (.twinAcquire hs1) hs1)))

theorem execRfence {x} (h : s.MemOk) : OutOk (execRfence x s) := by
  unfold Machine.execRfence
  refine .next (.ite (.advance h) ?_)
  split
  · exact .of_some (MemOk.takeErr h) ‹_›
  · exact .ite (.stall h) (.advance (.twinAcquire h))

theorem failRemote {o cause addr} (h : s.MemOk) : (s.failRemote o cause addr).MemOk := .ite (.upd h) (.putCrew h)

theorem countLocal {k e} (h : s.MemOk) : (s.countLocal k e).MemOk := by
  unfold State.countLocal
  dsimp only
  split
  · exact h
  · refine .ite h ?_
    split
    · exact .countOn (.upd h)
    · exact .upd h

theorem endOp {k} (h : s.MemOk) : (s.endOp k).MemOk := by
  unfold State.endOp
  dsimp only
  split
  · exact h
  · split
    · exact .ite (.upd h) (.upd h)
    · exact .upd (.ite (.upd h) (.upd h))

theorem giveCredits {isl credit ops} (h : s.MemOk) : (s.giveCredits isl credit ops).MemOk := by
  unfold State.giveCredits
  split
  · exact .foldl h (fun _ _ hs => .owedCredit hs)
  · exact h

theorem receive {isl op first last d data credit cons} (h : s.MemOk) : (s.receive isl op first last d data credit cons).MemOk := by
  unfold State.receive
  refine .ite (.giveCredits h) ?_
  dsimp only
  split
  · exact .giveCredits h
  · exact .ite (.giveCredits (.upd h)) (.ite (.foldl (.giveCredits (.upd h)) (fun _ _ hs => .sendAck hs)) (.upd h))

theorem emit {k o last data} (h : s.MemOk) : (s.emit k o last data).MemOk :=
  .ite (.receive h) (.ite (.upd h) (.sendBy (.ite h (.takeCredit h))))

theorem parkOp {k o va} (h : s.MemOk) : (s.parkOp k o va).MemOk := .upd h
theorem countSource {o k n} (h : s.MemOk) : (s.countSource o k n).MemOk := .ite h (.countErrs h)

theorem readSource {k o n} (h : s.MemOk) : (s.readSource k o n).state.MemOk := by
  unfold State.readSource
  split
  · exact h
  · split
    · exact h
    · exact h
    · exact h
    · split
      · exact h
      · split
        · split
          · exact .countSource (.of_pair ‹_› (.resolveRange h))
          · split
            · exact .countSource (.of_pair ‹_› (.gatherPieces (.of_pair ‹_› (.resolveRange h))))
            · exact .of_pair ‹_› (.gatherPieces (.of_pair ‹_› (.resolveRange h)))
        · exact .of_pair ‹_› (.resolveRange h)
        · exact .parkOp (.of_pair ‹_› (.resolveRange h))
        · exact .of_pair ‹_› (.resolveRange h)

theorem execIslandOpLocalComplete {k} (h : s.MemOk) : OutOk (execIslandOpLocalComplete k s) := by
  refine .next ?_
  split
  · exact h
  · next o _ =>
    refine .ite h ?_
    have hr := readSource (k := k) (o := o) (n := (State.nextPiece o).1) h
    dsimp only
    generalize s.readSource k o (State.nextPiece o).1 = r at hr ⊢
    cases r with
    | wait s1 => exact hr
    | fault s1 c => exact .endOp (.failRemote (.countLocal hr))
    | ok s1 bs =>
      dsimp only
      split
      · exact .emit hr
      · exact .ite (.countLocal (.upd (.emit hr))) (.upd (.emit hr))

theorem dropArr {n a} (h : s.MemOk) : (s.dropArr n a).MemOk := .giveCredits (.upd h)

theorem failArr {n a c} (h : s.MemOk) : (s.failArr n a c).MemOk := by
  unfold State.failArr
  refine .foldl (.foldl ?_ (fun _ _ hs => .dropArr hs)) (fun _ _ hs => .sendAck hs)
  dsimp only
  split
  · exact .upd (.dropArr h)
  · exact .dropArr h

theorem doneArr {n a} (h : s.MemOk) : (s.doneArr n a).MemOk := by
  unfold State.doneArr
  extract_lets k _ s1 _
  have hs1 : s1.MemOk := .dropArr h
  refine .ite (.upd h) ?_
  dsimp only
  split
  · exact hs1
  · exact .ite hs1 (.ite (.ite (.upd hs1) (.upd hs1)) (.foldl (.ite (.upd hs1) (.upd hs1)) (fun _ _ hs => .sendAck hs)))

theorem replyGo {a n n1 l} (h : s.MemOk) : (replyGo a n s n1 l).MemOk := by
  induction n generalizing s n1 l with
  | zero => exact h
  | succ n ih =>
    unfold State.replyGo
    extract_lets now rest last src k e _ s0 s1
    have hs0 : s0.MemOk := by
      dsimp only [s0]
      split
      · exact .upd h
      · exact h
    have hs1 : s1.MemOk := .ite (.pushAck h) (.ite (.sendBy hs0) (.pushHm (.loseOp hs0)))
    exact .ite (.sendFar h) (.ite hs1 (ih hs1))

theorem resolveArr {a} (h : s.MemOk) : (s.resolveArr a).1.MemOk := by
  unfold State.resolveArr
  dsimp only
  split
  · exact h
  · refine .ite_fst ?_ (.resolveRange h)
    split
    · exact .of_pair ‹_› (.laneAccess h)
    · exact .laneAccess h

theorem residentPieces {isl ca hint ways ls} (h : s.MemOk) : (s.residentPieces isl ca hint ways ls).1.MemOk :=
  .foldl_fst h (fun _ _ hs => .fillL2 hs)

theorem dirtyPieces {isl ca ls} (h : s.MemOk) : (s.dirtyPieces isl ca ls).MemOk :=
  .foldl h (fun _ _ hs => .ite (.setLine hs) hs)

theorem readyToWrite {isl ca hint ways ls} (h : s.MemOk) : (s.readyToWrite isl ca hint ways ls).1.MemOk := by
  unfold State.readyToWrite
  split
  · exact .of_pair ‹_› (.residentPieces h)
  · exact .gatherPieces (.of_pair ‹_› (.residentPieces h))

theorem writeAt {w ca own ls bs} (h : s.MemOk) : (s.writeAt w ca own ls bs).MemOk := .hostWrites (.dirtyPieces (.writePieces h))

theorem landArr {n a ls ca} (h : s.MemOk) : (s.landArr n a ls ca).MemOk := by
  unfold State.landArr
  dsimp only
  split
  · exact .doneArr h
  · split
    · exact .doneArr (.writeAt (.of_pair ‹_› (.readyToWrite h)))
    · exact .holdLines (.of_pair ‹_› (.readyToWrite h))
  · split
    · exact .doneArr (.writeAt (.of_pair ‹_› (.readyToWrite h)))
    · exact .holdLines (.of_pair ‹_› (.readyToWrite h))
  · refine .ite (.failArr h) ?_
    split
    · next e =>
      have h1 := of_pair e (.gatherPieces h)
      refine .doneArr (.replyGo ?_)
      split
      · exact .upd h1
      · exact h1
    · exact .holdLines (.of_pair ‹_› (.gatherPieces h))
  · refine .ite (.failArr h) ?_
    split
    · next e =>
      have h1 := of_pair e (.readyToWrite h)
      exact .doneArr (.hostWrites (.dirtyPieces (.ofMem (MemOk.foldlMem h1 (fun _ _ hm => Memory.wf_writeN hm _ _ _)))))
    · exact .holdLines (.of_pair ‹_› (.readyToWrite h))

theorem performArr {n a} (h : s.MemOk) : (s.performArr n a).MemOk := by
  unfold State.performArr
  refine .ite (.failArr h) (.ite h ?_)
  dsimp only
  split
  · exact .landArr (.upd (.of_pair ‹_› (.resolveArr h)))
  · exact .failArr (.of_pair ‹_› (.resolveArr h))
  · exact .upd (.of_pair ‹_› (.resolveArr h))
  · exact .of_pair ‹_› (.resolveArr h)

theorem tryArr {n} (h : s.MemOk) : (s.tryArr n).MemOk := by
  unfold State.tryArr
  dsimp only
  split
  · exact h
  · exact .ite h (.ite (.doneArr h) (.ite (.ite h (.upd h)) (.performArr h)))

theorem execIslandOpArrival {isl n} (h : s.MemOk) : OutOk (execIslandOpArrival isl n s) := by
  unfold Machine.execIslandOpArrival
  refine .next ?_
  split
  · exact h
  · exact .ite (.tryArr h) h

theorem execHeldArrivalPlace {isl n} (h : s.MemOk) : OutOk (execHeldArrivalPlace isl n s) := by
  unfold Machine.execHeldArrivalPlace
  refine .next ?_
  dsimp only
  split
  · exact h
  · exact .ite h (.performArr (.upd h))

theorem execOperationTimeout {isl n} (h : s.MemOk) : OutOk (execOperationTimeout isl n s) := by
  unfold Machine.execOperationTimeout
  refine .next ?_
  dsimp only
  split
  · exact h
  · exact .ite h (.upd (.foldl h (fun _ _ hs => .dropArr hs)))

theorem takeAck {p} (h : s.MemOk) : SomeOk (s.takeAck p) := by
  unfold State.takeAck
  dsimp only
  split
  · exact .some (.upd h)
  · exact .map fun _ => .upd h

theorem answered {op p} (h : s.MemOk) : SomeOk (s.answered op p) := by
  unfold State.answered
  split
  · exact .some (.of_some (MemOk.takeAck h) ‹_›)
  · split
    · exact .ite (.some h) .none
    · exact .none

theorem execPositiveAcknowledgement {op} (h : s.MemOk) : OutOk (execPositiveAcknowledgement op s) := by
  unfold Machine.execPositiveAcknowledgement
  refine .next ?_
  split
  · exact .endOp (.countLocal (.of_some (MemOk.answered h) ‹_›))
  · exact h

theorem execNegativeAcknowledgement {op cause} (h : s.MemOk) : OutOk (execNegativeAcknowledgement op cause s) := by
  unfold Machine.execNegativeAcknowledgement
  refine .next ?_
  split
  · exact h
  · split
    · exact .of_some (MemOk.answered h) ‹_›
    · exact .endOp (.failRemote (.countLocal (.of_some (MemOk.answered h) ‹_›)))

theorem replyHere {op ofs data last} (h : s.MemOk) : (s.replyHere op ofs data last).1.MemOk := by
  unfold State.replyHere
  refine .ite_fst h (.ite_fst h ?_)
  dsimp only
  split
  · exact .ite_fst (.upd (.pushAck h)) h
  · exact h

theorem landReply {op o ofs data} (h : s.MemOk) : (s.landReply op o ofs data).1.MemOk := by
  unfold State.landReply
  refine .ite_fst (.upd h) (.ite_fst h ?_)
  dsimp only
  split
  · split
    · refine .upd (.writeAt (.of_pair ‹_› (.readyToWrite (.upd (.of_pair ‹_› ?_)))))
      split
      · exact .ite_fst h (.resolveRange h)
      · exact .resolveRange h
    · refine .holdLines (.of_pair ‹_› (.readyToWrite (.upd (.of_pair ‹_› ?_))))
      split
      · exact .ite_fst h (.resolveRange h)
      · exact .resolveRange h
  · refine .of_pair ‹_› ?_
    split
    · exact .ite_fst h (.resolveRange h)
    · exact .resolveRange h
  · refine .parkOp (.of_pair ‹_› ?_)
    split
    · exact .ite_fst h (.resolveRange h)
    · exact .resolveRange h
  · refine .of_pair ‹_› ?_
    split
    · exact .ite_fst h (.resolveRange h)
    · exact .resolveRange h

theorem getReply {op ofs data last} (h : s.MemOk) : (s.getReply op ofs data last).MemOk := by
  unfold State.getReply
  dsimp only
  split
  · exact .of_pair ‹_› (.replyHere h)
  · next e =>
    have h1 := of_pair e (.replyHere h)
    split
    · exact .upd h1
    · refine .ite (.upd h1) (.ite (.ite h1 (.endOp (.countLocal (.upd h1)))) ?_)
      split
      · exact .of_pair ‹_› (.landReply h1)
      · exact .endOp (.failRemote (.countLocal (.upd (.of_pair ‹_› (.landReply h1)))))
      · next e =>
        have h2 := of_pair e (.landReply h1)
        exact .ite (.ite h2 (.endOp (.countLocal (.upd h2)))) (.upd h2)

theorem execGetReply {op ofs data last} (h : s.MemOk) : OutOk (execGetReply op ofs data last s) := .next (.getReply h)

/-! The panel fabric and the Ultra Ethernet endpoints: receiving flits, links, the Chart, steering, colours, circuits (Machine/Fabric). -/

theorem setColour {isl c x} (h : s.MemOk) : (s.setColour isl c x).MemOk := .upd h

theorem dealColours {isl n l n1 l1} (h : s.MemOk) : (dealColours isl n l n1 l1 s).MemOk := by
  induction l generalizing n1 l1 s with
  | nil => exact .foldl h (fun _ _ hs => .setColour hs)
  | cons x l ih =>
    unfold State.dealColours
    exact ih (.foldl h (fun _ _ hs => .setColour hs))

theorem divideColours {isl} (h : s.MemOk) : (s.divideColours isl).MemOk := .ite (.dealColours h) (.dealColours h)
theorem setChart {i e v} (h : s.MemOk) : (s.setChart i e v).MemOk := .upd h

theorem writeRoutes {start} (h : s.MemOk) : (s.writeRoutes start).MemOk :=
  .foldl h (fun _ _ hs => .foldl hs (fun _ _ hs1 => .ite (.setChart hs1) (.ite (.setChart hs1) (.ite (.setChart hs1) hs1))))

theorem dropPort {isl p} (h : s.MemOk) : (s.dropPort isl p).MemOk :=
  .foldl (.foldl (.setPort h) (fun _ _ hs => .setColour hs)) (fun _ _ hs => .lose hs)

theorem takeDown {isl p} (h : s.MemOk) : (s.takeDown isl p).MemOk := by
  unfold State.takeDown
  split
  · exact .writeRoutes (.dropPort (.dropPort h))
  · exact h

theorem deliver {isl f} (h : s.MemOk) : (s.deliver isl f).MemOk := by
  unfold State.deliver
  refine .ite ?_ ?_
  · split
    · exact .pushHm (.loseOp h)
    · exact .pushHm (.loseOp h)
    · exact .pushHm (.loseOp h)
    · exact .foldl h (fun _ _ hs => .sendAck hs)
  · dsimp only
    split
    · exact .ite h (.pushAck h)
    · exact .pushAck h
    · exact .pushAck h
    · exact .receive h

theorem passOn {isl f} (h : s.MemOk) : (s.passOn isl f).MemOk := .ite (.deliver h) (.enqueue h)

theorem passGo {isl p n} (h : s.MemOk) : (passGo isl p n s).MemOk := by
  induction n generalizing s with
  | zero => exact h
  | succ n ih =>
    unfold State.passGo
    dsimp only
    split
    · exact h
    · exact ih (.passOn (.setPort h))

theorem execFlitReceive {isl p f} (h : s.MemOk) : OutOk (execFlitReceive isl p f s) := by
  unfold Machine.execFlitReceive
  refine .next ?_
  dsimp only
  split
  · exact h
  · exact .ite h
      (.ite (.setPort (.setPort (.upd (.setPort (.pump h)))))
        (.ite (.setPort (.upd (.setPort (.pump h)))) (.passGo (.setPort (.setPort (.upd (.setPort (.pump h))))))))

theorem resend {isl p seq} (h : s.MemOk) : (resend s isl p seq).MemOk := by
  unfold Machine.resend
  dsimp only
  split
  · exact h
  · exact .setPort h

theorem execRepeatRequest {isl p seq} (h : s.MemOk) : OutOk (execRepeatRequest isl p seq s) :=
  .next (.ite (.resend (.setPort h)) h)

theorem execLinkAcknowledgement {isl p seq} (h : s.MemOk) : OutOk (execLinkAcknowledgement isl p seq s) :=
  .next (.ite (.setPort h) h)

theorem execResendTimeout {isl p seq} (h : s.MemOk) : OutOk (execResendTimeout isl p seq s) := .next (.ite (.resend h) h)
theorem execLinkDown {isl p} (h : s.MemOk) : OutOk (execLinkDown isl p s) := .next (.ite (.takeDown h) h)

theorem execLinkUp {isl p} (h : s.MemOk) : OutOk (execLinkUp isl p s) := by
  unfold Machine.execLinkUp
  refine .next ?_
  dsimp only
  split
  · exact h
  · exact .ite (.writeRoutes (.divideColours (.divideColours (.setPort (.setPort h))))) h

theorem startMove {isl} (h : s.MemOk) : (s.startMove isl).MemOk := by
  unfold State.startMove
  dsimp only
  split
  · exact .upd h
  · exact .upd (.setPort (.upd h))

theorem openSteering {isl} (h : s.MemOk) : (s.openSteering isl).MemOk :=
  .upd (.foldl (.foldl h (fun _ _ hs => .setPort hs)) (fun _ _ hs => .setPort hs))

theorem execSteerWindow {isl} (h : s.MemOk) : OutOk (execSteerWindow isl s) := .next (.ite h (.startMove (.openSteering h)))

theorem execSteeringMessage {isl p m} (h : s.MemOk) : OutOk (execSteeringMessage isl p m s) := by
  unfold Machine.execSteeringMessage
  refine .next ?_
  dsimp only
  split
  · exact h
  · refine .ite h ?_
    split
    · exact .setPort (.setPort h)
    · exact .ite (.setPort h) (.ite (.startMove (.ite (.setColour (.setPort h)) (.setPort h))) h)

theorem execQuadratureAlarm {isl c phase} (h : s.MemOk) : OutOk (execQuadratureAlarm isl c phase s) :=
  .next (.ite h (.postModule (.setColour h)))

theorem execColourFaultClear {isl c} (h : s.MemOk) : OutOk (execColourFaultClear isl c s) := .next (.ite (.setColour h) h)

theorem execColourRecover {isl c} (h : s.MemOk) : OutOk (execColourRecover isl c s) := by
  unfold Machine.execColourRecover
  refine .next ?_
  dsimp only
  split
  · exact .ite (.setColour h) h
  · exact h

theorem execSteerWrite {isl p v} (h : s.MemOk) : OutOk (execSteerWrite isl p v s) := .next (.ite h (.ite (.upd h) (.setPort h)))

theorem execChartWrite {isl e v} (h : s.MemOk) : OutOk (execChartWrite isl e v s) :=
  .next (.ite h (.ite (.setChart h) (.upd (.setChart h))))

theorem execPeerEntryWrite {isl off v} (h : s.MemOk) : OutOk (execPeerEntryWrite isl off v s) := .next (.ite h (.upd h))
theorem askCircuit {c} (h : s.MemOk) : (s.askCircuit c).1.MemOk := .ite_fst (.foldl h (fun _ _ hs => .setPort hs)) h

theorem askEach {task all l} (h : s.MemOk) : (askEach task all l s).1.MemOk := by
  induction l generalizing s with
  | nil => exact h
  | cons x l ih =>
    unfold State.askEach
    exact ih (.ite_fst (.askCircuit h) h)

theorem askCircuits {task all} (h : s.MemOk) : (s.askCircuits task all).MemOk := .upd (.askEach h)

theorem endCircuits {task forget} (h : s.MemOk) : (s.endCircuits task forget).MemOk :=
  .upd (.foldl h (fun _ _ hs => .ite (.foldl hs (fun _ _ hs1 => .setPort hs1)) hs))

theorem execCircuitRetry {isl task} (h : s.MemOk) : OutOk (execCircuitRetry isl task s) := .next (.ite (.askCircuits h) h)

theorem execUePacketReceive {isl ep x} (h : s.MemOk) : OutOk (execUePacketReceive isl ep x s) := by
  unfold Machine.execUePacketReceive
  refine .next (.ite (.upd h) (.ite h (.ite ?_ (.ite h (.ite (.sendAck (.upd h)) (.upd h))))))
  dsimp only
  split
  · exact .ite (.upd h) h
  · exact h

theorem execUePacketAbandon {op} (h : s.MemOk) : OutOk (execUePacketAbandon op s) := by
  unfold Machine.execUePacketAbandon
  refine .next ?_
  split
  · exact .ite (.endOp (.failRemote (.countLocal h))) h
  · exact h

/-! Launch records, kernel descriptors, dependency blocks and circuit lists, and room for a gang on a core (Machine/Launch). -/

theorem addMembers {k us exp} (h : s.MemOk) : (s.addMembers k us exp).MemOk := .upd h

theorem allocGang {tk t n gid core f} (h : s.MemOk) : (s.allocGang tk t n gid core f).1.MemOk := by
  unfold State.allocGang
  extract_lets gk gno old rk cl gr s1 s2 twin g s3 s4 cks s5 s6 s7 s6' s7'
  have hs2 : s2.MemOk := .ite (.zeroRange (.upd h)) h
  have htwin : twin.MemOk := .zeroRange hs2
  have hcks : cks.MemOk := .upd htwin
  have hs5 : s5.MemOk := .foldl hcks (fun _ _ hs => .upd (.putFrag (.putCrew (.upd hs))))
  have hs7 : s7.MemOk := .foldl hs5 (fun _ _ hs => .addMembers hs)
  have hs6' : s6'.MemOk := .foldl hs7 (fun _ _ hs => .addMembers hs)
  have hs7' : s7'.MemOk := .ite (.foldl hs6' (fun _ _ hs => .addMembers hs)) hs6'
  exact hs7'

theorem noteRooms (h : s.MemOk) : s.noteRooms.MemOk := .upd h

theorem placeNext {tk} (h : s.MemOk) : SomeOk (s.placeNext tk) := by
  unfold State.placeNext
  dsimp only
  split
  · exact .none
  · refine .ite .none ?_
    split
    · exact .none
    · exact .some (.upd (.allocGang h))

theorem placeMany {tk n} (h : s.MemOk) : (placeMany tk n s).MemOk := by
  induction n generalizing s with
  | zero => exact h
  | succ n ih =>
    unfold State.placeMany
    split
    · exact ih (.of_some (MemOk.placeNext h) ‹_›)
    · exact h

theorem bare (h : s.MemOk) : s.bare.MemOk := .upd h

/-! Barriers: arrivals, flips, waits, exits, and their instructions (Machine/Barrier). -/

theorem setBar {k b} (h : s.MemOk) : (s.setBar k b).MemOk := .upd h

theorem exitBarrier {ck lvl idx gone c} (h : s.MemOk) : (s.exitBarrier ck lvl idx gone c).MemOk := by
  unfold State.exitBarrier
  dsimp only
  split
  · exact h
  · exact .ite (.setBar h) (.ite (.setBar h) (.ite (.setBar h) h))

theorem exitBarriers {ck gone} (h : s.MemOk) : (s.exitBarriers ck gone).MemOk :=
  .ite h
    (.foldl
      (.foldl (.foldl (.foldl h (fun _ _ hs => .exitBarrier hs)) (fun _ _ hs => .exitBarrier hs))
        (fun _ _ hs => .exitBarrier hs)) (fun _ _ hs => .exitBarrier hs))

theorem arriveBarrier {x kind wait} (h : s.MemOk) : (arriveBarrier x s kind wait).MemOk := by
  unfold Machine.arriveBarrier
  extract_lets m ls k b b1 s1
  have hs1 : s1.MemOk := .twinRelease (.setBar h)
  exact .ite (.advance h) (.ite (.stall h) (.ite (.advance h) (.ite (.ite (.stall hs1) (.advance hs1)) (.stall h))))

theorem execBara {x} (h : s.MemOk) : OutOk (execBara x s) := .next (.arriveBarrier h)
theorem execBars {x} (h : s.MemOk) : OutOk (execBars x s) := .next (.arriveBarrier h)
theorem execBard {x} (h : s.MemOk) : OutOk (execBard x s) := .next (.arriveBarrier h)
theorem execBarj {x} (h : s.MemOk) : OutOk (execBarj x s) := .next (.arriveBarrier h)

theorem execBart {x} (h : s.MemOk) : OutOk (execBart x s) := by
  unfold Machine.execBart
  refine .next ?_
  exact .ite (.advance h)
    (.ite (.ite (.stall h) (.ite (.advance (.wrP h)) (.advance (.wrP (.twinRelease (.setBar h)))))) (.advance (.wrP h)))

theorem execBarw {x} (h : s.MemOk) : OutOk (execBarw x s) :=
  .next (.ite (.stall h) (.ite (.stall (.setBar h)) (.advance (.twinAcquire h))))

theorem wakeBarrier {k} (h : s.MemOk) : (wakeBarrier s k).MemOk := .advance (.twinAcquire (.setFrag (.setBar h)))

/-! Control transfers: targets, splits, serial splits, calls, exits (Machine/Control). -/

theorem partsGo {token gs r} (h : s.MemOk) (e : s.partsGo token gs = some r) : r.1.MemOk := by
  induction gs generalizing s r with
  | nil =>
    cases e
    exact h
  | cons g gs ih =>
    unfold State.partsGo at e
    dsimp only at e
    split at e
    · cases e
    · split at e
      · cases e
      · next hr =>
        cases e
        have hi := ih (.putFrag (.inheritAt h)) hr
        exact hi

theorem parts {token gs} (h : s.MemOk) : SomeOk (s.parts token gs) := by
  unfold State.parts
  split
  · exact .none
  · dsimp only
    split
    · exact .none
    · next e =>
      have h1 := partsGo h e
      exact .some (.goAt (.foldl (.setFrag h1) fun _ _ hs => .upd (.goAt (.upd hs))))

theorem spillPieces {w o bs l} (h : s.MemOk) : (s.spillPieces w o bs l).1.MemOk := by
  induction l generalizing s with
  | nil => exact h
  | cons x l ih =>
    unfold State.spillPieces
    dsimp only
    split
    · exact .ite_fst (.of_pair ‹_› (.lpParts h)) (ih (.of_pair ‹_› (.lpParts h)))
    · exact .of_pair ‹_› (.lpParts h)

theorem spillRecs {rs} (h : s.MemOk) : (s.spillRecs rs).state.MemOk := by
  induction rs generalizing s with
  | nil => exact h
  | cons r rs ih =>
    unfold State.spillRecs
    dsimp only
    split
    · have h1 := ih h
      split
      · next e => exact (congrArg (·.state.MemOk) e).mp h1
      · exact h1
    · split
      · next e =>
        have h1 := ih (.of_pair e (.spillPieces h))
        split
        · next e => exact (congrArg (·.state.MemOk) e).mp h1
        · exact h1
      · exact .of_pair ‹_› (.spillPieces h)
      · exact .of_pair ‹_› (.spillPieces h)

theorem spillAll {rs x} (h : s.MemOk) (e : s.spillAll rs = .ok x) : x.state.MemOk := by
  unfold State.spillAll at e
  dsimp only at e
  split at e
  · cases e
  · cases e
    exact .spillRecs h

theorem berthWait (h : s.MemOk) : s.berthWait.MemOk := .stall (.ite h (.postMine (.bumpCounter h)))

theorem pushSpills {rs go} (h : s.MemOk) (hf : ∀ s, s.MemOk → (go s).MemOk) : (s.pushSpills rs go).MemOk := by
  unfold State.pushSpills
  split
  · exact .berthWait h
  · next e => exact .stall (spillAll h e)
  · next e => exact .moorAll (spillAll h e)
  · next s1 _ _ e =>
    have h1 : s1.MemOk := spillAll h e
    exact .ite (.stall h1) (hf _ (.postMine (.bumpCounter (.ite (.setCrew h1) (.push (.setCrew h1))))))

theorem serialSplit {gs j} (h : s.MemOk) : (s.serialSplit gs j).MemOk := by
  unfold State.serialSplit
  dsimp only
  split
  · exact h
  · exact .pushSpills h (fun _ hs => .goAt (.setFrag hs))

theorem splitToken {j ret n r} (h : s.MemOk) (e : s.splitToken j ret n = some r) : r.1.MemOk := by
  unfold State.splitToken at e
  dsimp only at e
  split at e
  · cases e
    exact .addPend h
  · obtain ⟨t, -, rfl⟩ := Option.map_eq_some_iff.mp e
    exact .takeJoin h

theorem split {fs gs j ret} (h : s.MemOk) : (s.split fs gs j ret).MemOk := by
  unfold State.split
  refine .ite (.moorLanes h) ?_
  dsimp only
  split
  · next s3 e =>
    refine .of_some (o := some s3) ?_ rfl
    rw [← e]
    split
    · exact .none
    · next e => exact MemOk.parts (.moorLanes (.setFrag (splitToken h e)))
  · exact .serialSplit (.moorLanes h)

theorem divide {ds order j ret} (h : s.MemOk) : (s.divide ds order j ret).MemOk := by
  unfold State.divide
  dsimp only
  split
  · exact .goAt h
  · exact .goAt h
  · exact .ite (.stall h) (.ite (.moorLanes h) (.split h))

theorem allTo {t} (h : s.MemOk) : (s.allTo t).MemOk := by
  unfold State.allTo
  refine .ite ?_ (.divide h)
  split
  · exact .goAt h
  · exact .pilotFault h

theorem execBra {x} (h : s.MemOk) : OutOk (execBra x s) := .next (.ite (.allTo h) (.goAt h))

theorem execBrx {x} (h : s.MemOk) : OutOk (execBrx x s) := by
  unfold Machine.execBrx
  refine .next ?_
  dsimp only
  split
  · exact .moorAll h
  · exact .divide h

theorem briEntry {a} (h : s.MemOk) : (briEntry s a).1.MemOk := by
  unfold Machine.briEntry
  split
  · split
    · exact .of_pair ‹_› (.fetchWords (.of_pair ‹_› (.resolve h)))
    · exact .of_pair ‹_› (.fetchWords (.of_pair ‹_› (.resolve h)))
    · exact .of_pair ‹_› (.fetchWords (.of_pair ‹_› (.resolve h)))
  · exact .of_pair ‹_› (.resolve h)
  · exact .of_pair ‹_› (.resolve h)

theorem briDests {n t idx ls} (h : s.MemOk) : (briDests n t idx ls s).1.MemOk := by
  induction ls generalizing s with
  | nil => exact h
  | cons L ls ih =>
    unfold Machine.briDests
    extract_lets i a here
    have hh : here.1.MemOk := by
      refine .ite_fst h ?_
      split <;> exact .of_pair ‹_› (.briEntry h)
    clear_value here
    split
    · exact hh
    · split
      · exact .of_pair ‹_› (ih hh)
      · exact ih hh

theorem execBri {x} {s0 : State} (h : s0.MemOk) : OutOk (execBri x s0) := by
  unfold Machine.execBri
  refine .next ?_
  dsimp only
  split
  · exact .moorAll (.walk h)
  · split
    · exact .stall (.of_pair ‹_› (.briDests (.walk h)))
    · exact .divide (.of_pair ‹_› (.briDests (.walk h)))

theorem execJoin {x} (h : s.MemOk) : OutOk (execJoin x s) := by
  unfold Machine.execJoin
  refine .next ?_
  dsimp only
  split
  · exact .moorAll h
  · refine .allTo (.ite h ?_)
    split
    · exact .setFrag (.takeJoin h)
    · exact .postMine (.bumpCounter h)

theorem execCall {x} (h : s.MemOk) : OutOk (execCall x s) := .next (.ite (.allTo (.ite (.wrS64 h) (.wrV64 h))) (.goAt h))

theorem execRet {x} (h : s.MemOk) : OutOk (execRet x s) :=
  .next (.ite (.goAt (.walk h)) (.ite (.allTo (.walk h)) (.divide (.walk h))))

theorem branchEnds {core slot stop n x} (h : s.MemOk) : (branchEnds core slot stop n s x).1.MemOk := by
  induction n generalizing s x with
  | zero => exact h
  | succ n ih =>
    have h2 {t j} : ((s.setJoin core t j).freeJoin core t).MemOk := .freeJoin (.setJoin h)
    exact .ite_fst h (.ite_fst h (.ite_fst (.setJoin h)
      (.ite_fst (.upd (.arriveGo (.upd (.fuse (.setJoin h))))) (ih (.ite (.putCrew h2) h2)))))

theorem emptied (h : s.MemOk) : s.emptied.MemOk := by
  unfold State.emptied
  dsimp only
  split
  · exact .branchEnds (.putFrag h)
  · exact .ite (.arrive (.putFrag (.updateSpill (.ite (.branchEnds (.putFrag h)) (.addPend (.branchEnds (.putFrag h)))))))
      (.arrive (.putFrag (.putCrew (.ite (.branchEnds (.putFrag h)) (.addPend (.branchEnds (.putFrag h)))))))

theorem writeRecord {gk} (h : s.MemOk) : (s.writeRecord gk).MemOk := by
  unfold State.writeRecord
  dsimp only
  split
  · exact .upd h
  · refine .ite h ?_
    split
    · next e =>
      have h1 := of_pair e (.laneAccess h)
      exact .ite (.upd (.postEvent h1)) (.ite h1 (.upd (.push h1)))
    · exact .upd (.postEvent (.of_pair ‹_› (.laneAccess h)))
    · exact .of_pair ‹_› (.laneAccess h)

theorem gangLeaves {gk} (h : s.MemOk) : (s.gangLeaves gk).MemOk :=
  .writeRecord (.foldl h (fun _ _ hs => .putCrew (.upd (.foldl hs (fun _ _ hs1 => .putFrag hs1)))))

theorem execExit {x} {s0 : State} (h : s0.MemOk) : OutOk (execExit x s0) := by
  unfold Machine.execExit
  refine .next ?_
  extract_lets r s m f c gk ord g g' _ _ s1 s2
  have hr : r.2.MemOk := .walk h
  have hs1 : s1.MemOk := .upd (.setCrew hr)
  have hs2 : s2.MemOk := .exitBarriers hs1
  refine .ite (.goAt hr) ?_
  split
  · exact .of_some (MemOk.takeErr hr) ‹_›
  · exact .ite (.stall hr) (.ite (.gangLeaves hs2) (.ite (.emptied hs2) (.goAt (.setFrag hs2))))

theorem execYield {x} (h : s.MemOk) : OutOk (execYield x s) := .next (.advance (.ite (.setFrag h) h))
theorem execNop {_x} (h : s.MemOk) : OutOk (execNop _x s) := .next (.advance h)
theorem execBrw {x} (h : s.MemOk) : OutOk (execBrw x s) := .next (.ite (.allTo h) (.goAt h))

/-! Traps, breakpoints, the return from a handler, system registers and the frame pool (Machine/System). -/

theorem execTrap {x} (h : s.MemOk) : OutOk (execTrap x s) :=
  .next (.ite (.goAt h) (.ite (.pilotFault h) (.ite (.moorAll h) (.setCtl (.moorHere (.setCrew h))))))

theorem execBkpt {x} (h : s.MemOk) : OutOk (execBkpt x s) := .next (.ite (.postMine (.stall h)) (.advance h))
theorem arriveHere (h : s.MemOk) : s.arriveHere.MemOk := .ite (.arrive h) h

theorem rettSplit {pc} (h : s.MemOk) : (s.rettSplit pc).MemOk := by
  unfold State.rettSplit
  dsimp only
  split
  · exact .pushSpills h (fun _ hs => .arriveHere (.setFrag (.leaveHandler hs)))
  · exact .upd (.arriveHere (.upd (.arriveHere (.splitOff (.setFrag (.leaveHandler h))))))

theorem execRett {x} {s0 : State} (h : s0.MemOk) : OutOk (execRett x s0) := by
  unfold Machine.execRett
  refine .next ?_
  extract_lets r s newpc t u _
  have hr : r.2.MemOk := .walk h
  refine .ite (.moorAll hr) (.ite (.goAt hr) (.ite ?_ (.ite (.freeze hr) ?_)))
  · split
    · exact .pilotFault hr
    · exact .setThread hr
  · split
    · exact .moorAll hr
    · exact .ite (.arriveHere (.leaveHandler hr)) (.ite (.rettSplit hr) (.arriveHere (.leaveHandler hr)))

theorem sysWrite {i v} (h : s.MemOk) : (s.sysWrite i v).MemOk :=
  .ite (.setCtx h) (.ite (.setCtx h) (.ite (.ite (.setUni h) h) (.ite (.putStat h) (.ite (.setCrew h) (.ite (.setCtx h) h)))))

theorem execSysrd {x} (h : s.MemOk) : OutOk (execSysrd x s) := by
  unfold Machine.execSysrd
  refine .next (.ite (.advance h) (.ite (.deny h) (.advance (.upd ?_))))
  split
  · exact .ite (.wrV64 h) (.wrV h)
  · exact .ite (.wrS64 h) (.wrS h)

theorem execSyswr {x} {s0 : State} (h : s0.MemOk) : OutOk (execSyswr x s0) :=
  .next (.ite (.advance (.walk h)) (.ite (.moorAll (.walk h)) (.advance (.sysWrite (.walk h)))))

theorem atPool {go} (h : s.MemOk) (hf : ∀ (a : State), a.MemOk → (go a).MemOk) : (s.atPool go).MemOk := by
  unfold State.atPool
  refine .ite (.moorAll h) ?_
  split
  · exact .stall (.of_pair ‹_› (.gatherPieces h))
  · exact .ite (.moorAll (.of_pair ‹_› (.gatherPieces h))) (hf _ (.countSoft (.of_pair ‹_› (.gatherPieces h))))

theorem atSlot {k go} (h : s.MemOk) (hf : ∀ (a : State), a.MemOk → (go a).MemOk) : (s.atSlot k go).MemOk := by
  unfold State.atSlot
  refine .ite (.moorAll h) ?_
  split
  · exact .stall (.of_pair ‹_› (.gatherPieces h))
  · exact .ite (.moorAll (.of_pair ‹_› (.gatherPieces h))) (hf _ (.countSoft (.of_pair ‹_› (.gatherPieces h))))

theorem poolEvent {kind} (h : s.MemOk) : (s.poolEvent kind).MemOk := .postMine h
theorem poolEmpty {h} (hm : s.MemOk) : (s.poolEmpty h).MemOk := .ite hm (.poolEvent (.ofMem (Memory.wf_writeN hm _ _ _)))

theorem poolTake {h} (hm : s.MemOk) : (s.poolTake h).1.MemOk := by
  unfold State.poolTake
  extract_lets head f low ev left was s1
  have hs1 : s1.MemOk := .ofMem (Memory.wf_writeN (Memory.wf_writeN hm _ _ _) _ _ _)
  exact .ite (.poolEvent hs1) hs1

theorem poolPut {h f} (hm : s.MemOk) : (s.poolPut h f).MemOk := .ofMem (Memory.wf_writeN (Memory.wf_writeN hm _ _ _) _ _ _)

theorem popFrame {x} (h : s.MemOk) : (popFrame x s).MemOk := by
  unfold State.popFrame
  extract_lets h' try_ s1 _ _
  have hs1 : s1.MemOk := .poolEmpty h
  exact .ite (.ite (.advance (.twinAcquire (.wrQ hs1))) (.ite (.setThread hs1) (.setFrag hs1)))
    (.atSlot h (fun _ hs => .advance (.twinAcquire (.ite (.wrQ (.wrS (.poolTake hs))) (.wrS (.poolTake hs))))))

theorem pushFrame {x f} (h : s.MemOk) : (pushFrame x f s).MemOk :=
  .ite (.advance (.wrQ h)) (.atSlot h (fun _ hs => .advance (.twinRelease (.wrQ (.poolPut hs)))))

theorem execPoolpop {x} (h : s.MemOk) : OutOk (execPoolpop x s) :=
  .next (.ite (.moorAll h) (.ite (.advance h) (.ite (.moorAll h) (.ite (.stall h) (.atPool h (fun _ hs => .popFrame hs))))))

theorem execPoolpush {x} {s0 : State} (h : s0.MemOk) : OutOk (execPoolpush x s0) := by
  unfold Machine.execPoolpush
  refine .next ?_
  extract_lets r s f
  have hr : r.2.MemOk := .walk h
  exact .ite (.moorAll hr)
    (.ite (.advance hr)
      (.ite (.moorAll hr) (.ite (.moorAll hr) (.ite (.stall hr) (.ite (.stall hr) (.atPool hr (fun _ hs => .pushFrame hs)))))))

/-! The Tender: its queue, requests, granules and reports (Machine/Tender). -/

theorem setTender {core q} (h : s.MemOk) : (s.setTender core q).MemOk := .upd h
theorem setReq {core r} (h : s.MemOk) : (s.setReq core r).MemOk := .setTender h
theorem sweepReqs {core} (h : s.MemOk) : (s.sweepReqs core).MemOk := .setTender h

theorem pushReqs {loc n n1} (h : s.MemOk) : (pushReqs loc n n1 s).MemOk := by
  induction n1 generalizing s with
  | zero => exact h
  | succ n ih =>
    unfold State.pushReqs
    exact ih (.upd (.setTender h))

theorem execKick {x} {s0 : State} (h : s0.MemOk) : OutOk (execKick x s0) := by
  unfold Machine.execKick
  refine .next (.ite (.advance (.sweepReqs (.walk h))) ?_)
  dsimp only
  split
  · exact .moorAll (.sweepReqs (.walk h))
  · exact .ite (.stall (.sweepReqs (.walk h))) (.advance (.twinRelease (.pushReqs (.sweepReqs (.walk h)))))

theorem startGranules {n n1 n2} (h : s.MemOk) : (startGranules n s n1 n2).MemOk := by
  induction n generalizing s with
  | zero => exact h
  | succ n ih =>
    unfold State.startGranules
    split
    · exact h
    · exact .ite h (ih (.setReq h))

theorem finishReq {core r status bytes} (h : s.MemOk) : (s.finishReq core r status bytes).MemOk :=
  .sweepReqs (.setReq (.countErrs (.ofMem (Memory.wf_writeN (MemOk.ite (.countOn h) h) _ _ _))))

theorem tresOf {x} (h : x.1.MemOk) : (tresOf x).1.MemOk := by
  unfold State.tresOf
  split
  · exact h
  · exact h
  · exact h
  · exact h

theorem tenderRange {r phys skw k acc a n} (h : s.MemOk) : (s.tenderRange r phys skw k acc a n).1.MemOk := by
  unfold State.tenderRange
  refine .ite_fst h ?_
  dsimp only
  split
  · split
    · exact .ite_fst (.of_pair ‹_› (.tresOf (.resolveRange h))) (.of_pair ‹_› (.tresOf (.resolveRange h)))
    · exact .of_pair ‹_› (.tresOf (.resolveRange h))
  · exact .tresOf (.resolveRange h)

theorem tenderIdx {r t k} (h : s.MemOk) : (s.tenderIdx r t k).1.MemOk := by
  unfold State.tenderIdx
  extract_lets a q
  have hq : q.1.MemOk := .ite_fst h (.tresOf (.laneAccess h))
  clear_value q
  split
  · refine .ite_fst hq ?_
    split
    · exact .countSoft (.of_pair ‹_› (.gatherPieces hq))
    · exact .of_pair ‹_› (.gatherPieces hq)
  · exact hq

theorem rowSides {r t q} (h : s.MemOk) : (s.rowSides r t q).1.MemOk := by
  unfold State.rowSides
  refine .ite_fst h (.ite_fst h ?_)
  dsimp only
  split
  · exact .of_pair ‹_› (.tenderIdx h)
  · exact .of_pair ‹_› (.tenderIdx h)

theorem rowAt {r t q0} (h : s.MemOk) : (s.rowAt r t q0).1.MemOk := by
  unfold State.rowAt
  split
  · exact .of_pair ‹_› (.rowSides h)
  · next e =>
    have h1 := of_pair e (.rowSides h)
    split
    · next e =>
      have h2 := of_pair e (.ite_fst h1 (.tenderRange h1))
      refine .ite_fst h2 ?_
      split
      · next e =>
        have h3 := of_pair e (.ite_fst h2 (.tenderRange h2))
        exact .ite_fst h3 h3
      · exact .of_pair ‹_› (.ite_fst h2 (.tenderRange h2))
    · exact .of_pair ‹_› (.ite_fst h1 (.tenderRange h1))

theorem execTenderRequestStart {core} {s0 : State} (h : s0.MemOk) : OutOk (execTenderRequestStart core s0) := by
  unfold Machine.execTenderRequestStart
  refine .next ?_
  dsimp only
  split
  · refine .ite ?_ (.sweepReqs h)
    split
    · exact .startGranules (.sweepReqs h)
    · exact .sweepReqs h
  · refine .ite (.finishReq (.sweepReqs h)) (.ite (.finishReq (.sweepReqs h)) ?_)
    split
    · exact .finishReq (.sweepReqs h)
    · exact .startGranules (.setReq (.sweepReqs h))

theorem putRuns {core r t k l} (h : s.MemOk) : (putRuns core r t k l s).1.MemOk := by
  induction l generalizing s with
  | nil => exact h
  | cons x l ih =>
    unfold State.putRuns
    exact .ite_fst h (ih (.setTender (.addOp h)))

theorem resolveRows {r t l} (h : s.MemOk) : (resolveRows r t l s).1.MemOk := by
  induction l generalizing s with
  | nil => exact h
  | cons x l ih =>
    unfold State.resolveRows
    refine .ite_fst (ih h) ?_
    dsimp only
    split
    · exact ih (.of_pair ‹_› (.rowAt h))
    · exact .of_pair ‹_› (.rowAt h)
    · exact ih (.upd (.of_pair ‹_› (.rowAt h)))
    · exact ih (.of_pair ‹_› (.rowAt h))

theorem resolveGranule {core r t k} (h : s.MemOk) : (s.resolveGranule core r t k).1.MemOk := .setReq (.resolveRows h)

theorem moveGroup {r t k g} (h : s.MemOk) : (s.moveGroup r t k g).1.MemOk := by
  unfold State.moveGroup
  extract_lets isl w got home s1
  have hgot : got.1.MemOk := .foldl_fst h (fun _ _ hs => .gatherPieces hs)
  have hhome : home.1.MemOk := .ite_fst hgot (.foldl_fst hgot (fun _ _ hs => .readyToWrite hs))
  have hs1 : s1.MemOk := .foldl hhome (fun _ _ hs => .countSoft hs)
  exact .ite_fst hhome (.ite_fst hs1 (.foldl hs1 (fun _ _ hs => .writeAt hs)))

theorem moveRows {r t k fuel qs} (h : s.MemOk) : (moveRows r t k fuel qs s).1.MemOk := by
  induction fuel generalizing qs s with
  | zero => exact h
  | succ n ih =>
    cases qs with
    | nil => exact h
    | cons q qs => exact ih (.ite_fst (.moveGroup h) h)

theorem endGranule {core r t k f} (h : s.MemOk) : (s.endGranule core r t k f).MemOk := by
  unfold State.endGranule
  refine .ite (.setReq (.ite (.countOn h) h)) ?_
  dsimp only
  split
  · exact .finishReq (.ite (.countOn h) h)
  · exact .ite (.finishReq (.ite (.countOn h) h)) (.setReq (.ite (.countOn h) h))

theorem granuleDone {core id k} (h : s.MemOk) : (granuleDone core id k s).MemOk := by
  unfold Machine.granuleDone
  split
  · exact h
  · extract_lets t p g y0 s1 left out z
    have hp : p.1.MemOk := .resolveGranule h
    have hs1 : s1.MemOk := .holdLines (.moveRows hp)
    have hz : z.1.MemOk := .ite_fst (.putRuns hs1) hs1
    refine .ite h (.ite (.setReq hp) ?_)
    split
    · exact hz
    · exact .ite (.endGranule hz) (.setReq hz)

theorem execTenderGranuleDone {core id k} (h : s.MemOk) : OutOk (execTenderGranuleDone core id k s) :=
  .next (.ite (.granuleDone h) h)

theorem setPilotQ {cl q} (h : s.MemOk) : (s.setPilotQ cl q).MemOk := .upd h
theorem enqueuePeq {cl rec} (h : s.MemOk) : (s.enqueuePeq cl rec).MemOk := .upd (.setPilotQ h)

theorem execPeqPost {cl} (h : s.MemOk) : OutOk (execPeqPost cl s) := by
  unfold Machine.execPeqPost
  refine .next (.ite (.ite h (.ite (.upd h) (.enqueuePeq (.upd h)))) (.ite h ?_))
  dsimp only
  split
  · exact .enqueuePeq (.upd h)
  · split
    · exact .enqueuePeq (.setTender (.upd h))
    · exact .upd h

/-! The island dispatcher and the distributor: tasks in the window, readiness, placement, starting Pilot threads, and the freeing of gangs (Machine/Dispatcher). -/

theorem takeTag (h : s.MemOk) : (s.takeTag).1.MemOk := .upd h
theorem takeTaskId {isl} (h : s.MemOk) : (s.takeTaskId isl).1.MemOk := .upd h
theorem putTask {k t} (h : s.MemOk) : (s.putTask k t).MemOk := .upd h
theorem addTask {t} (h : s.MemOk) : (s.addTask t).MemOk := .upd (.putTask h)
theorem freeGroups {tk} (h : s.MemOk) : (s.freeGroups tk).MemOk := .upd h

theorem endTask {tk} (h : s.MemOk) : (s.endTask tk).MemOk := by
  unfold State.endTask
  dsimp only
  split
  · exact h
  · refine .upd ?_
    split
    · refine .upd ?_
      split
      · exact .upd (.freeGroups (.endCircuits h))
      · exact .freeGroups (.endCircuits h)
    · split
      · exact .upd (.freeGroups (.endCircuits h))
      · exact .freeGroups (.endCircuits h)

theorem startThread {t k} (h : s.MemOk) : (s.startThread t k).1.MemOk := by
  unfold State.startThread
  dsimp only
  split
  · exact .ite_fst (.upd h) h
  · exact .ite_fst (.upd h) (.upd h)
  · exact h

theorem startThreads {tk t} (h : s.MemOk) : (s.startThreads tk t).MemOk :=
  .endTask (.putTask (.foldl_fst h (fun _ _ hs => .startThread hs)))

theorem askOnPlace {tk t} (h : s.MemOk) : (s.askOnPlace tk t).MemOk := .ite (.askCircuits (.upd h)) h

theorem placedAll {tk} (h : s.MemOk) : (s.placedAll tk).MemOk := by
  unfold State.placedAll
  split
  · exact .ite (.putTask h) h
  · exact h

theorem placeStep {tk t} (h : s.MemOk) : (s.placeStep tk t).MemOk := by
  unfold State.placeStep
  refine .ite (.startThreads h) (.ite (.ite (.placedAll (.askOnPlace (.placeMany h))) (.putTask h)) ?_)
  split
  · exact .placedAll (.askOnPlace (.of_some (MemOk.placeNext h) ‹_›))
  · exact .putTask h

theorem placeWaiting {p n} (h : s.MemOk) : (placeWaiting p n s).MemOk := by
  induction n generalizing s with
  | zero => exact h
  | succ n ih =>
    unfold State.placeWaiting
    dsimp only
    split
    · exact .ite (.noteRooms (.placeStep h)) (ih (.noteRooms (.placeStep h)))
    · exact h

theorem execTaskEnterWindow {isl} (h : s.MemOk) : OutOk (execTaskEnterWindow isl s) := by
  unfold Machine.execTaskEnterWindow
  refine .next (.ite h ?_)
  dsimp only
  split
  · exact h
  · exact .upd (.putTask (.takeTaskId h))

theorem execTaskReady {isl task} (h : s.MemOk) : OutOk (execTaskReady isl task s) := by
  unfold Machine.execTaskReady
  refine .next ?_
  dsimp only
  split
  · exact h
  · exact .ite (.putTask h) h

theorem execGangPlace {isl task} (h : s.MemOk) : OutOk (execGangPlace isl task s) := by
  unfold Machine.execGangPlace
  refine .next ?_
  split
  · exact h
  · exact .ite (.noteRooms (.placeStep h)) h

theorem releaseGang {gk} (h : s.MemOk) : (s.releaseGang gk).MemOk := .upd h

theorem countFreed {tk} (h : s.MemOk) : (s.countFreed tk).MemOk := by
  unfold State.countFreed
  dsimp only
  split
  · exact h
  · exact .ite (.endTask (.putTask h)) (.putTask h)

theorem execGangFree {gk} (h : s.MemOk) : OutOk (execGangFree gk s) := by
  unfold Machine.execGangFree
  refine .next ?_
  extract_lets g s1
  have hs1 : s1.MemOk := .sweepReqs (.ite h (.writeRecord h))
  exact .ite h (.ite (.placeWaiting (.noteRooms (.countFreed (.releaseGang hs1)))) hs1)

/-! Clause headers, entry into handling, and fragments and threads that become ready (Machine/Fragment). -/

theorem execClauseHeader {h} (hm : s.MemOk) : OutOk (execClauseHeader h s) := by
  unfold Machine.execClauseHeader
  refine .next (.ite (.setCtl hm) ?_)
  dsimp only
  split
  · exact .of_some (MemOk.takeErr hm) ‹_›
  · split
    · exact .stall (.setFrag hm)
    · exact .stall hm
    · exact .noteIssue (.setCtl (.openRun (.setCtl hm)))

theorem execHandlerEntry {core entry} (h : s.MemOk) : OutOk (execHandlerEntry core entry s) :=
  .next (.ite (.upd (.enterHandler (.upd h))) h)

theorem makeReady (h : s.MemOk) : s.makeReady.MemOk := .setFrag h

theorem windowOver (h : s.MemOk) : s.windowOver.MemOk := by
  unfold State.windowOver
  extract_lets ds s1 s2 s3
  have hs1 : s1.MemOk := .endWindow h
  have hs2 : s2.MemOk := .makeReady hs1
  have hs3 : s3.MemOk := .moorLanes hs2
  exact .ite (.ite (.arrive hs2) hs2) (.ite hs3 (.advance hs3))

theorem wakeFrag (h : s.MemOk) : s.wakeFrag.MemOk := by
  unfold State.wakeFrag
  refine .ite h (.ite (.closeWindow h) (.ite h ?_))
  split
  · exact .ite (.wakeBarrier h) h
  · exact .ite (.windowOver h) h
  · exact .ite (.makeReady h) h

theorem popInto {i d} (h : s.MemOk) : (s.popInto i d).MemOk := by
  unfold State.popInto
  dsimp only
  split
  · exact .foldl (.upd h) (fun _ _ hs => .putS hs)
  · exact h

theorem wakeThread (h : s.MemOk) : s.wakeThread.MemOk := by
  unfold State.wakeThread
  refine .ite h ?_
  split
  · exact .ite (.setThread h) h
  · exact .ite (.advance (.popInto (.setThread h))) h
  · exact h

theorem execFragmentWake {a} (h : s.MemOk) : OutOk (execFragmentWake a s) := by
  unfold Machine.execFragmentWake
  refine .next (.upd ?_)
  split
  · exact .wakeFrag (.upd h)
  · exact .wakeThread (.upd h)

/-! The Pilot's instructions: its event queue, task launch, stopping and waiting (Machine/Pilot). -/

theorem execEvpop {x} (h : s.MemOk) : OutOk (execEvpop x s) :=
  .next (.ite (.advance h) (.ite (.advance (.wrQ (.popInto h))) (.advance (.wrQ h))))

theorem execEvwait {x} (h : s.MemOk) : OutOk (execEvwait x s) :=
  .next (.ite (.advance h) (.ite (.advance (.popInto h)) (.upd (.setThread h))))

theorem threadRead {a n} (h : s.MemOk) : (s.threadRead a n).1.MemOk := by
  unfold State.threadRead
  dsimp only
  split
  · split
    · exact .of_pair ‹_› (.resolveRange h)
    · split
      · exact .of_pair ‹_› (.readAll (.of_pair ‹_› (.resolveRange h)))
      · exact .of_pair ‹_› (.readAll (.of_pair ‹_› (.resolveRange h)))
  · exact .of_pair ‹_› (.resolveRange h)
  · exact .of_pair ‹_› (.resolveRange h)

theorem threadBlock {addr n} (h : s.MemOk) : (s.threadBlock addr n).1.MemOk := by
  unfold State.threadBlock
  refine .ite_fst h ?_
  split
  · exact .of_pair ‹_› (.threadRead h)
  · exact .of_pair ‹_› (.threadRead h)
  · exact .of_pair ‹_› (.threadRead h)

theorem threadCirc {addr} (h : s.MemOk) : (s.threadCirc addr).1.MemOk := by
  unfold State.threadCirc
  split
  · exact .ite_fst (.of_pair ‹_› (.threadBlock h)) (.threadBlock (.of_pair ‹_› (.threadBlock h)))
  · exact .threadBlock h

theorem launchTask {t bad} (h : s.MemOk) : (s.launchTask t bad).1.MemOk :=
  .ite (.endTask (.putTask (.addTask (.upd (.takeTag (.takeTaskId h)))))) (.addTask (.upd (.takeTag (.takeTaskId h))))

theorem execTlaunch {x} (h : s.MemOk) : OutOk (execTlaunch x s) := by
  unfold Machine.execTlaunch
  refine .next ?_
  extract_lets r s0 a try_
  have h0 : s0.MemOk := .walk h
  refine .ite (.advance h0) ?_
  split
  · exact .moorAll (.of_pair ‹_› (.resolve h0))
  · next e =>
    have h1 := of_pair e (.resolve h0)
    refine .ite (.stall h1) ?_
    split
    · exact .stall (.of_pair ‹_› (.threadRead h1))
    · exact .moorAll (.of_pair ‹_› (.threadRead h1))
    · next e =>
      have h2 := of_pair e (.threadRead h1)
      refine .ite (.ite (.advance (.wrQ h2)) (.stall h2)) ?_
      extract_lets k needK kd
      have hkd : kd.1.MemOk := by
        refine .ite_fst ?_ h2
        split <;> exact .of_pair ‹_› (.threadRead h2)
      clear_value kd
      split
      · exact .stall hkd
      · split
        · exact .stall (.of_pair ‹_› (.threadBlock hkd))
        · next e =>
          have h4 := of_pair e (.threadBlock hkd)
          split
          · exact .stall (.of_pair ‹_› (.threadCirc h4))
          · next e =>
            have h6 {k} {w : W32} {t : Task} {b} : (((_ : State).launchTask t b).1.setThread k |>.wrS x.d w).MemOk :=
              .wrS (.setThread (.launchTask (of_pair e (.threadCirc h4))))
            exact .advance (.ite (.wrQ h6) h6)

theorem execHalt {x} (h : s.MemOk) : OutOk (execHalt x s) :=
  .next (.ite (.advance h) (.ite (.advance (.postMine h)) (.setThread (.advance (.postMine h)))))

theorem execIdle {x} (h : s.MemOk) : OutOk (execIdle x s) :=
  .next (.ite (.advance h) (.ite (.advance (.setThread h)) (.setThread h)))

/-! Precinct halts, resumes, exchanges and aborts; breakpoints, wakes, debug halts and the pool doorbell (Machine/Preempt). -/

theorem later {i} (h : s.MemOk) : (s.later i).MemOk := .upd h
theorem refuse {p} (h : s.MemOk) : (s.refuse p).MemOk := .setPrecinct h

theorem discardWindow {k} (h : s.MemOk) : (s.discardWindow k).MemOk := by
  unfold State.discardWindow
  dsimp only
  split
  · exact h
  · exact .putFrag (.rollback h)

theorem unstop (h : s.MemOk) : s.unstop.MemOk := .upd h
theorem discardWindows {p} (h : s.MemOk) : (s.discardWindows p).MemOk := .foldl h (fun _ _ hs => .discardWindow hs)
theorem replayOf {ck id o} (h : s.MemOk) : (replayOf ck s id o).MemOk := .upd (.putCrew h)
theorem quietCrew {ck} (h : s.MemOk) : (s.quietCrew ck).MemOk := .upd (.putCrew (.foldl h (fun _ _ hs => .replayOf hs)))

theorem rest {p} (h : s.MemOk) : (s.rest p).MemOk :=
  .foldl (.upd (.foldl h (fun _ _ hs => .quietCrew hs))) (fun _ _ hs => .ite (.endCircuits hs) hs)

theorem execPrecinctHalt {p} (h : s.MemOk) : OutOk (execPrecinctHalt p s) :=
  .next (.ite h (.ite (.later h) (.ite (.discardWindows (.setPrecinct h)) (.refuse h))))

theorem execHaltComplete {p} (h : s.MemOk) : OutOk (execHaltComplete p s) :=
  .next (.ite (.postEvent (.setPrecinct (.rest h))) h)

theorem reissue {p} (h : s.MemOk) : (s.reissue p).MemOk := by
  unfold State.reissue
  extract_lets cores rs row rows s0 s1 s2 s2'
  have hs1 : s1.MemOk := .upd h
  have hs2 : s2.MemOk := .foldl hs1 (fun _ _ hs => .putCrew hs)
  have hs2' : s2'.MemOk := .foldl hs2 (fun _ _ hs => .progressOp hs)
  exact .foldl hs2' (fun _ _ hs => .foldl hs (fun _ _ hs1 => .foldl hs1 (fun _ _ hs2 => .granuleDone hs2)))

theorem ringDoor {p} (h : s.MemOk) : (s.ringDoor p).MemOk := .upd (.setPrecinct h)

theorem execResume {p} (h : s.MemOk) : OutOk (execResume p s) := by
  unfold Machine.execResume
  refine .next ?_
  extract_lets x s1 s2 fs _ s3 _ s4
  have hs1 : s1.MemOk := .reissue h
  have hs2 : s2.MemOk := .foldl hs1 (fun _ _ hs => .ite (.askCircuits hs) hs)
  have hs3 : s3.MemOk := .upd hs2
  have hs4 : s4.MemOk := .unstop (.setPrecinct hs3)
  exact .ite h (.ite (.refuse h) (.ite (.ringDoor hs4) hs4))

theorem writeImage {p} (h : s.MemOk) : (s.writeImage p).MemOk := .cleanCovered (.ofMem (Memory.wf_writeAll h _))

theorem beginExchange {ps} (h : s.MemOk) : (s.beginExchange ps).MemOk :=
  .foldl (.foldl h (fun _ _ hs => .writeImage (.setPrecinct hs))) (fun _ _ hs => .setPrecinct hs)

theorem execExchange {p} (h : s.MemOk) : OutOk (execExchange p s) :=
  .next (.ite h (.ite (.later h) (.ite (.beginExchange h) (.refuse h))))

theorem flushClusters {p} (h : s.MemOk) : (s.flushClusters p).MemOk := .upd (.foldl h (fun _ _ hs => .evictL1 hs))
theorem goOut {p} (h : s.MemOk) : (s.goOut p).MemOk := .upd (.setPrecinct (.clearClusters (.flushClusters h)))
theorem comeIn {p} (h : s.MemOk) : (s.comeIn p).MemOk := .setPrecinct (.ofMem (Memory.wf_writeAll (MemOk.clearClusters h) _))
theorem failPrecinct {p} (h : s.MemOk) : (s.failPrecinct p).MemOk := .foldl (.setPrecinct h) (fun _ _ hs => .endTask hs)

theorem execExchangeComplete {p} (h : s.MemOk) : OutOk (execExchangeComplete p s) := by
  unfold Machine.execExchangeComplete
  refine .next ?_
  extract_lets x comes outs s1
  have hs1 : s1.MemOk := .foldl h (fun _ _ hs => .goOut hs)
  exact .ite h (.ite (.postEvent (.foldl h (fun _ _ hs => .failPrecinct hs))) (.postEvent (.ite (.comeIn hs1) hs1)))

theorem beginAbort {p tag} (h : s.MemOk) : (s.beginAbort p tag).MemOk := by
  unfold State.beginAbort
  extract_lets gs s1 s2 s3 _ s3'
  have hs2 : s2.MemOk := .upd h
  have hs3 : s3.MemOk := .discardWindows hs2
  have hs3' : s3'.MemOk := .setPrecinct hs3
  exact .foldl hs3' (fun _ _ hs => .ite (.endTask (.putTask hs)) (.freeGroups (.putTask hs)))

theorem leaveBarrier {k} (h : s.MemOk) : (s.leaveBarrier k).MemOk := by
  unfold State.leaveBarrier
  dsimp only
  split
  · exact .setBar h
  · exact h

theorem abortGang {gk} (h : s.MemOk) : (s.abortGang gk).MemOk := by
  unfold State.abortGang
  extract_lets g core s1 s2
  have hs1 : s1.MemOk := .foldl h (fun _ _ hs => .foldl hs (fun _ _ hs1 => .leaveBarrier hs1))
  have hs2 : s2.MemOk := .foldl hs1 (fun _ _ hs => .exitBarriers (.upd (.putCrew hs)))
  exact .gangLeaves hs2

theorem abortStopped {p tag} (h : s.MemOk) : (s.abortStopped p tag).MemOk :=
  .foldl (.foldl h (fun _ _ hs => .ite (.abortGang hs) hs)) (fun _ _ hs => .ite (.postEvent (.upd hs)) hs)

theorem execAbort {p tag} (h : s.MemOk) : OutOk (execAbort p tag s) :=
  .next (.ite h (.ite (.later h) (.ite (.beginAbort h) (.refuse h))))

theorem execAbortComplete {p tag} (h : s.MemOk) : OutOk (execAbortComplete p tag s) :=
  .next (.ite h (.ite (.postEvent (.setPrecinct (.abortStopped h))) (.abortStopped h)))

theorem releaseFrags {p} (h : s.MemOk) : (s.releaseFrags p).MemOk :=
  .foldl h (fun _ _ hs => .upd (.advance (.makeReady (.upd hs))))

theorem releaseThreads {p} (h : s.MemOk) : (s.releaseThreads p).MemOk :=
  .foldl h (fun _ _ hs => .upd (.advance (.setThread (.upd hs))))

theorem execRelease {p core slot} (h : s.MemOk) : OutOk (execRelease p core slot s) :=
  .next (.ite h (.ite (.refuse h) (.ite (.later h) (.releaseFrags h))))

theorem execWake {p cl threads} (h : s.MemOk) : OutOk (execWake p cl threads s) := .next (.ite h (.ite (.refuse h) (.upd h)))

theorem execArmbpClear {p} (h : s.MemOk) : OutOk (execArmbpClear p s) :=
  .next (.ite h (.ite (.releaseThreads (.releaseFrags (.setPrecinct h))) (.setPrecinct h)))

theorem execDebugHalt {isl} (h : s.MemOk) : OutOk (execDebugHalt isl s) := .next (.ite h (.discardWindows (.upd h)))

theorem execDebugHaltClear {isl} (h : s.MemOk) : OutOk (execDebugHaltClear isl s) :=
  .next (.ite h (.foldl (.unstop (.upd h)) (fun _ _ hs => .ite hs (.performArr (.upd hs)))))

theorem execPoolDoorbell {p} (h : s.MemOk) : OutOk (execPoolDoorbell p s) :=
  .next (.ite h (.ite (.ringDoor h) (.setPrecinct h)))

theorem execPfpoolWrite {p v} (h : s.MemOk) : OutOk (execPfpoolWrite p v s) := .next (.ite (.setPrecinct h) h)

/-! Command queues and the commands of the Harbourmaster (Machine/Queue). -/

theorem setQueue {q x} (h : s.MemOk) : (s.setQueue q x).MemOk := .upd h
theorem agentWaits {lks} (h : s.MemOk) : (s.agentWaits lks).MemOk := .foldl h (fun _ _ hs => .ite hs (.queueAt hs))

theorem agentRead {isl spn a n} (h : s.MemOk) : (s.agentRead isl spn a n).1.MemOk := by
  unfold State.agentRead
  dsimp only
  split
  · refine .ite_fst (.of_pair ‹_› (.resolveRange h)) (.ite_fst (.of_pair ‹_› (.resolveRange h)) ?_)
    split
    · exact .of_pair ‹_› (.gatherPieces (.of_pair ‹_› (.resolveRange h)))
    · exact .agentWaits (.of_pair ‹_› (.gatherPieces (.of_pair ‹_› (.resolveRange h))))
  · exact .of_pair ‹_› (.resolveRange h)
  · exact .of_pair ‹_› (.resolveRange h)

theorem agentWrite {isl spn own a bs} (h : s.MemOk) : (s.agentWrite isl spn own a bs).1.MemOk := by
  unfold State.agentWrite
  dsimp only
  split
  · refine .ite_fst (.of_pair ‹_› (.resolveRange h)) (.ite_fst (.of_pair ‹_› (.resolveRange h)) ?_)
    split
    · exact .writeAt (.of_pair ‹_› (.readyToWrite (.of_pair ‹_› (.resolveRange h))))
    · exact .agentWaits (.of_pair ‹_› (.readyToWrite (.of_pair ‹_› (.resolveRange h))))
  · exact .of_pair ‹_› (.resolveRange h)
  · exact .of_pair ‹_› (.resolveRange h)

theorem nextCommand {q} (h : s.MemOk) : (s.nextCommand q).1.MemOk := .agentRead h
theorem queueError {q c} (h : s.MemOk) : (s.queueError q c).MemOk := .postEvent (.setQueue h)
theorem begun {q c} (h : s.MemOk) : (s.begun q c).MemOk := .setPrecinct (.setQueue h)
theorem agentBlock {isl spn a n} (h : s.MemOk) : (s.agentBlock isl spn a n).1.MemOk := .ite_fst h (.agentRead h)

theorem agentCirc {isl spn a} (h : s.MemOk) : (s.agentCirc isl spn a).1.MemOk := by
  unfold State.agentCirc
  split
  · exact .ite_fst (.of_pair ‹_› (.agentBlock h)) (.agentRead (.of_pair ‹_› (.agentBlock h)))
  · exact .agentBlock h

theorem taskOn {q c isl} (h : s.MemOk) : (s.taskOn q c isl).1.MemOk := by
  unfold State.taskOn
  extract_lets x rd
  have hrd {r k} (hr : r.1.MemOk) (hk : ∀ s bs, s.MemOk → (k s bs).1.MemOk) : (rd r k).1.MemOk := by
    obtain ⟨s1, r⟩ := r
    cases r with
    | ok bs => exact hk _ _ hr
    | fault c => exact hr
    | wait => exact hr
  clear_value rd
  refine .ite_fst h (hrd (.agentRead h) fun s1 rec h1 => ?_)
  split
  · exact h1
  · refine hrd (.ite_fst h1 (.agentRead h1)) fun s2 kd h2 => hrd (.agentBlock h2) fun s3 deps h3 => hrd (.agentCirc h3) fun s4
      circ h4 => ?_
    extract_lets t
    split
    · exact h4
    · exact h4

theorem tasksOn {q c l} (h : s.MemOk) : (tasksOn q c l s).1.MemOk := by
  induction l generalizing s with
  | nil => exact h
  | cons x l ih =>
    unfold State.tasksOn
    split
    · exact .of_pair ‹_› (.taskOn h)
    · exact .of_pair ‹_› (.taskOn h)
    · split
      · exact .of_pair ‹_› (ih (.of_pair ‹_› (.taskOn h)))
      · exact ih (.of_pair ‹_› (.taskOn h))

theorem launchGo {q c} (h : s.MemOk) : (s.launchGo q c).MemOk := by
  unfold State.launchGo
  dsimp only
  split
  · exact .queueError (.of_pair ‹_› (.tasksOn h))
  · exact .of_pair ‹_› (.tasksOn h)
  · exact .begun (.foldl_fst (.takeTag (.of_pair ‹_› (.tasksOn h))) (fun _ _ hs => .addTask hs))

theorem ended {q d} (h : s.MemOk) : (s.ended q d).MemOk := .setQueue h
theorem failCmd {q d c} (h : s.MemOk) : (s.failCmd q d c).MemOk := .queueError (.ended (.setQueue h))

theorem copyRanges {q c} (h : s.MemOk) : (s.copyRanges q c).1.MemOk := by
  unfold State.copyRanges
  dsimp only
  split
  · exact .resolveRange (.of_pair ‹_› (.resolveRange h))
  · exact .resolveRange h

theorem copyGo {q c} (h : s.MemOk) : (s.copyGo q c).MemOk := by
  unfold State.copyGo
  split
  · exact .begun (.of_pair ‹_› (.copyRanges h))
  · exact .queueError (.of_pair ‹_› (.copyRanges h))
  · exact .of_pair ‹_› (.copyRanges h)

theorem copyStep {q d} (h : s.MemOk) : (s.copyStep q d).MemOk := by
  unfold State.copyStep
  refine .ite (.ite h (.ended h)) ?_
  dsimp only
  split
  · exact .of_pair ‹_› (.agentRead h)
  · exact .failCmd (.of_pair ‹_› (.agentRead h))
  · next e =>
    have h1 := of_pair e (.agentRead h)
    split
    · exact .of_pair ‹_› (.agentWrite h1)
    · exact .failCmd (.of_pair ‹_› (.agentWrite h1))
    · next e =>
      have h2 := of_pair e (.agentWrite h1)
      exact .ite (.ended (.setQueue h2)) (.setQueue h2)

theorem markIrq {c} (h : s.MemOk) : (s.markIrq c).MemOk := .ite (.upd h) h

theorem markGo {q c} (h : s.MemOk) : (s.markGo q c).MemOk := by
  unfold State.markGo
  dsimp only
  split
  · exact .of_pair ‹_› (.agentWrite h)
  · exact .queueError (.of_pair ‹_› (.agentWrite h))
  · exact .ite (.begun (.of_pair ‹_› (.agentWrite h))) (.begun (.markIrq (.of_pair ‹_› (.agentWrite h))))

theorem notifyGo {q c} (h : s.MemOk) : (s.notifyGo q c).MemOk := .begun (.upd h)

theorem startCommand {q op bad go} (h : s.MemOk) (hf : ∀ (a : State) (a_1 : List Byte), a.MemOk → (go a a_1).MemOk) : (s.startCommand q op bad go).MemOk := by
  unfold State.startCommand
  refine .ite h ?_
  dsimp only
  split
  · exact .of_pair ‹_› (.nextCommand h)
  · exact .ite (.queueError (.of_pair ‹_› (.nextCommand h))) h
  · refine .ite h
      (.ite (hf _ _ (.of_pair ‹_› (.nextCommand h))) (.ite h (.ite (.queueError (.of_pair ‹_› (.nextCommand h))) ?_)))
    split
    · exact .queueError (.of_pair ‹_› (.nextCommand h))
    · exact hf _ _ (.of_pair ‹_› (.nextCommand h))

theorem execLaunch {q} (h : s.MemOk) : OutOk (execLaunch q s) := .next (.startCommand h (fun _ _ hs => .launchGo hs))

theorem execWait {q} (h : s.MemOk) : OutOk (execWait q s) := by
  unfold Machine.execWait
  refine .next ?_
  split
  · exact .ended h
  · exact .startCommand h (fun _ _ hs => .begun hs)

theorem execNotifyCommand {q} (h : s.MemOk) : OutOk (execNotifyCommand q s) :=
  .next (.startCommand h (fun _ _ hs => .notifyGo hs))

theorem execCopy {q} (h : s.MemOk) : OutOk (execCopy q s) := by
  unfold Machine.execCopy
  refine .next ?_
  dsimp only
  split
  · exact .startCommand h (fun _ _ hs => .copyGo hs)
  · exact .ite (.startCommand (.upd h) (fun _ _ hs => .copyGo hs)) (.copyStep h)
  · exact .ite (.startCommand (.upd h) (fun _ _ hs => .copyGo hs)) (.copyStep (.upd h))

theorem execMark {q} (h : s.MemOk) : OutOk (execMark q s) := by
  unfold Machine.execMark
  refine .next ?_
  split
  · exact .ended (.markIrq h)
  · exact .startCommand h (fun _ _ hs => .markGo hs)

theorem execQueueDoorbell {q v} (h : s.MemOk) : OutOk (execQueueDoorbell q v s) :=
  .next (.ite h (.ite (.setQueue h) (.setQueue h)))

theorem execQueueControlWrite {q v} (h : s.MemOk) : OutOk (execQueueControlWrite q v s) :=
  .next (.ite h (.ite (.setQueue h) (.setQueue h)))

theorem execQueueBaseWrite {q v} (h : s.MemOk) : OutOk (execQueueBaseWrite q v s) := .next (.ite h (.setQueue h))

/-! Precincts and contexts as the host creates and removes them, owners of host pages, counters (Machine/Host). -/

theorem execPrecinctCreate {p v} (h : s.MemOk) : OutOk (execPrecinctCreate p v s) :=
  .next (.ite h (.ite (.refuse h) (.upd (.clearClusters (.setPrecinct h)))))

theorem execPrecinctFree {p} (h : s.MemOk) : OutOk (execPrecinctFree p s) :=
  .next (.ite h (.ite (.refuse h) (.upd (.setPrecinct (.ite h (.clearClusters h))))))

theorem ctxCommand {p cmd spn act} (h : s.MemOk) (hf : ∀ (a : State), a.MemOk → (act a).1.MemOk) : (s.ctxCommand p cmd spn act).MemOk :=
  .ite h (.ite (.setPrecinct h) (.ite h (.setPrecinct (hf _ h))))

theorem flushSpn {isl spn} (h : s.MemOk) : (s.flushSpn isl spn).MemOk := .upd (.foldl h (fun _ _ hs => .evictL1 hs))

theorem execContextCreate {p} (h : s.MemOk) : OutOk (execContextCreate p s) := by
  unfold Machine.execContextCreate
  refine .next (.ctxCommand h (fun _ hs => ?_))
  dsimp only
  split
  · exact hs
  · exact .ite_fst hs (.setCtx hs)

theorem execContextUpdate {p} (h : s.MemOk) : OutOk (execContextUpdate p s) := by
  unfold Machine.execContextUpdate
  refine .next (.ctxCommand h (fun _ hs => ?_))
  dsimp only
  split
  · exact hs
  · exact .ite_fst hs (.setCtx hs)

theorem execContextDestroy {p spn} (h : s.MemOk) : OutOk (execContextDestroy p spn s) :=
  .next (.ctxCommand h (fun _ hs => .ite_fst hs (.upd (.foldl (.flushSpn hs) (fun _ _ hs1 => .endTask hs1)))))

theorem refuseEngines {isl line} (h : s.MemOk) : (s.refuseEngines isl line).MemOk := .upd h
theorem flushEntries {lk} (h : s.MemOk) : (s.flushEntries lk).MemOk := .upd (.foldl h (fun _ _ hs => .applyEntry hs))

theorem giveUpPage {isl page} (h : s.MemOk) : (s.giveUpPage isl page).1.MemOk := by
  unfold State.giveUpPage
  refine .foldl_fst h (fun _ _ hs => .ite_fst hs ?_)
  split
  · exact .dropL2 (.flushEntries (.of_pair ‹_› (.gatherEvict hs)))
  · exact .of_pair ‹_› (.gatherEvict hs)

theorem execHostPageOwnerChange {v} (h : s.MemOk) : OutOk (execHostPageOwnerChange v s) := by
  unfold Machine.execHostPageOwnerChange
  refine .next ?_
  extract_lets m _ old r of s1 _ _ _
  have hr : r.1.MemOk := .ite_fst h (.giveUpPage h)
  have hs1 : s1.MemOk := .ite hr (.refuseEngines (.repark hr))
  exact .ite h (.ite (.upd h) (.ite (.upd hs1) hr))

theorem execCounterClear {core k} (h : s.MemOk) : OutOk (execCounterClear core k s) := .next (.ite (.upd h) h)

/-! Start-up, attestation, power and cooling (Machine/Boot). -/

theorem bootRecord {reason} (h : s.MemOk) : (s.bootRecord reason).MemOk := .upd h
theorem measure (h : s.MemOk) : s.measure.MemOk := .upd h

theorem trainLinks (h : s.MemOk) : s.trainLinks.MemOk := by
  unfold State.trainLinks
  refine .foldl h (fun _ _ hs => .foldl hs (fun _ _ hs1 => ?_))
  dsimp only
  split
  · exact .setPort hs1
  · exact hs1

theorem ownCharts (h : s.MemOk) : s.ownCharts.MemOk := .foldl h (fun _ _ hs => .setChart hs)
theorem broughtUp {plan} (h : s.MemOk) : (s.broughtUp plan).MemOk := .upd h

theorem attempt {plan} (h : s.MemOk) : (s.attempt plan).MemOk := by
  unfold State.attempt
  dsimp only
  split
  · exact .upd (.ite (.broughtUp h) h)
  · exact .ite (.upd (.broughtUp h)) (.measure (.writeRoutes (.trainLinks (.upd (.broughtUp h)))))

theorem bootMinimal {plan} (h : s.MemOk) : (s.bootMinimal plan).MemOk :=
  .ite (.measure (.ownCharts (.upd (.broughtUp h)))) (.upd h)

theorem execModuleReset {plan} (h : s.MemOk) : OutOk (execModuleReset plan s) := .next (.attempt (.upd (.afterReset h)))

theorem execBootAttemptFailed {reason plan} (h : s.MemOk) : OutOk (execBootAttemptFailed reason plan s) := by
  unfold Machine.execBootAttemptFailed
  refine .next ?_
  extract_lets m _ s1
  have hs1 : s1.MemOk := .bootRecord (.upd h)
  exact .ite h (.ite (.bootMinimal (.afterReset hs1)) (.attempt (.afterReset hs1)))

theorem setClock {isl mhz} (h : s.MemOk) : (s.setClock isl mhz).MemOk := .upd h
theorem setRatio {isl n} (h : s.MemOk) : (s.setRatio isl n).MemOk := .upd h

theorem stopIsland {isl} (h : s.MemOk) : (s.stopIsland isl).MemOk :=
  .postModule (.foldl (.foldl (.upd h) (fun _ _ hs => .failPrecinct hs)) (fun _ _ hs => .ite (.takeDown hs) hs))

theorem execThermalLimit {isl deg} (h : s.MemOk) : OutOk (execThermalLimit isl deg s) :=
  .next (.ite h (.ite (.stopIsland (.ite (.setClock (.upd h)) (.upd h))) (.ite (.setClock (.upd h)) (.upd h))))

theorem execPowerShareAdjust {isl draw} (h : s.MemOk) : OutOk (execPowerShareAdjust isl draw s) :=
  .next
    (.ite h
      (.ite (.ite (.setClock h) (.ite (.setRatio h) (.ite h (.postModule (.upd h)))))
        (.ite (.setRatio (.upd h)) (.ite (.setClock (.upd h)) (.upd h)))))

theorem execPwrcapWrite {v} (h : s.MemOk) : OutOk (execPwrcapWrite v s) := .next (.ite h (.upd h))
theorem answer {a} (h : s.MemOk) : (s.answer a).MemOk := .ite (.upd h) h
theorem execGetVersion (h : s.MemOk) : OutOk (execGetVersion s) := .next (.answer h)
theorem execGetCapabilities (h : s.MemOk) : OutOk (execGetCapabilities s) := .next (.answer h)
theorem execNegotiateAlgorithms (h : s.MemOk) : OutOk (execNegotiateAlgorithms s) := .next (.answer h)
theorem execGetDigests (h : s.MemOk) : OutOk (execGetDigests s) := .next (.answer h)
theorem execGetCertificate {off len} (h : s.MemOk) : OutOk (execGetCertificate off len s) := .next (.answer h)
theorem execChallenge {nonce} (h : s.MemOk) : OutOk (execChallenge nonce s) := .next (.answer h)

theorem execGetMeasurements {index} (h : s.MemOk) : OutOk (execGetMeasurements index s) := by
  unfold Machine.execGetMeasurements
  refine .next (.ite (.answer h) (.ite (.answer h) ?_))
  split
  · exact .answer h
  · exact .answer h

/-! BAR0, the host's register space: writes and reads (Machine/Bar). -/

theorem after {o} (ho : OutOk o) (h : s.MemOk) : (after o s).MemOk := by
  cases o with
  | next t => exact ho t rfl
  | fault r => exact h
  | refused r => exact h

theorem prctlCommand {p v} (h : s.MemOk) : (s.prctlCommand p v).MemOk := by
  unfold State.prctlCommand
  split
  · exact h
  · exact .after (MemOk.execPrecinctHalt h) h
  · exact .after (MemOk.execResume h) h
  · exact .after (MemOk.execExchange h) h
  · exact .after (MemOk.execAbort h) h
  · exact .after (MemOk.execRelease h) h
  · exact .after (MemOk.execWake h) h
  · exact .refuse h

theorem writePrctl {p v} (h : s.MemOk) : (s.writePrctl p v).MemOk :=
  .prctlCommand (.ite (.after (MemOk.execArmbpClear (.setPrecinct h)) (.setPrecinct h)) (.setPrecinct h))

theorem writeCtxcmd {p v} (h : s.MemOk) : (s.writeCtxcmd p v).MemOk := by
  unfold State.writeCtxcmd
  refine .ite h ?_
  dsimp only
  split
  · exact .after (MemOk.execContextCreate h) h
  · exact .after (MemOk.execContextUpdate h) h
  · exact .after (MemOk.execContextDestroy h) h
  · exact .setPrecinct h

theorem writePrecinct {p off v} (h : s.MemOk) : (s.writePrecinct p off v).MemOk := by
  unfold State.writePrecinct
  dsimp only
  split
  · exact .writePrctl h
  · exact .ite (.after (MemOk.execPrecinctCreate h) h) (.ite (.after (MemOk.execPrecinctFree h) h) (.setPrecinct h))
  · exact .ite h (.setPrecinct h)
  · exact .after (MemOk.execPoolDoorbell h) h
  · exact .setPrecinct h
  · exact .setPrecinct h
  · exact .setPrecinct h
  · exact .setPrecinct h
  · exact .writeCtxcmd h
  · exact .after (MemOk.execPfpoolWrite h) h
  · exact .ite (.setPrecinct h) h

theorem writeQueue {q off v} (h : s.MemOk) : (s.writeQueue q off v).MemOk := by
  unfold State.writeQueue
  split
  · exact .after (MemOk.execQueueBaseWrite h) h
  · exact .after (MemOk.execQueueControlWrite h) h
  · exact .after (MemOk.execQueueDoorbell h) h
  · exact h

theorem writeOpstat {isl p v} (h : s.MemOk) : (s.writeOpstat isl p v).MemOk := .setPort h

theorem writeIsland {isl off v} (h : s.MemOk) : (s.writeIsland isl off v).MemOk :=
  .ite h
    (.ite (.ite (.ite h (.after (MemOk.execDebugHalt h) h)) (.after (MemOk.execDebugHaltClear h) h))
      (.ite (.after (MemOk.execSteerWrite h) h)
        (.ite (.writeOpstat h)
          (.ite (.upd h) (.ite (.after (MemOk.execCounterClear h) h) (.ite (.after (MemOk.execColourFaultClear h) h) h))))))

theorem writeModule {off v} (h : s.MemOk) : (s.writeModule off v).MemOk := by
  unfold State.writeModule
  dsimp only
  split
  · exact .after (MemOk.execPwrcapWrite h) h
  · exact .ite h (.after (MemOk.execHostPageOwnerChange h) h)
  · exact .upd h
  · exact .upd h
  · exact .upd h
  · exact h

theorem execRegisterWrite {off v} (h : s.MemOk) : OutOk (execRegisterWrite off v s) := by
  unfold Machine.execRegisterWrite
  refine .next ?_
  split
  · exact .ite h (.writeModule h)
  · exact .ite (.writePrecinct h) h
  · exact .ite (.writeQueue h) h
  · exact .ite (.writeIsland h) h
  · exact .ite h (.ite (.after (MemOk.execChartWrite h) h) (.ite (.after (MemOk.execPeerEntryWrite h) h) h))
  · exact h
  · exact h

/-! The crew instructions (Machine/Collect). -/

theorem wrReg {x m f} (h : s.MemOk) : (wrReg x s m f).MemOk := .ite (.wrV64 h) (.wrV h)
theorem execShfl {x} (h : s.MemOk) : OutOk (execShfl x s) := .next (.perLane h (fun _ _ _ hs => .wrP (.wrReg hs)))
theorem execQswz {x} (h : s.MemOk) : OutOk (execQswz x s) := .next (.perLane h (fun _ _ _ hs => .wrReg hs))

theorem execVote {x} (h : s.MemOk) : OutOk (execVote x s) := by
  refine .next (.perLane h fun _ m s hs => ?_)
  extract_lets con k v
  split
  · exact .wrP hs
  · exact .wrP hs
  · exact .wrP hs
  · exact .wrV hs
  · exact .wrV hs

theorem execMatchEq {x} (h : s.MemOk) : OutOk (execMatchEq x s) := .next (.perLane h (fun _ _ _ hs => .wrV hs))
theorem execElect {x} (h : s.MemOk) : OutOk (execElect x s) := .next (.perLane h (fun _ _ _ hs => .wrP hs))
theorem execRedx {x} (h : s.MemOk) : OutOk (execRedx x s) := .next (.perLane h (fun _ _ _ hs => .raise (.wrReg hs)))
theorem execScanx {x} (h : s.MemOk) : OutOk (execScanx x s) := .next (.perLane h (fun _ _ _ hs => .raise (.wrReg hs)))
theorem execHelp {x} (h : s.MemOk) : OutOk (execHelp x s) := .next (.perLane h (fun _ _ _ hs => .wrP hs))
theorem execMask {x} (h : s.MemOk) : OutOk (execMask x s) := .next (.perLane h (fun _ _ _ hs => .wrV hs))

/-! What a request or a snoop of the host needs of a line, and its effect (Machine/Bridge). -/

theorem setHalf {lk h v} (hm : s.MemOk) : (s.setHalf lk h v).MemOk := .setLine hm

theorem gatherShared {lk} (h : s.MemOk) : (s.gatherShared lk).1.MemOk :=
  .ite_fst h (.ite_fst (.startMerge h) (.ite_fst (.startUnrepl h) (.ite_fst h (.startRecall h))))

theorem gatherMet {lk all tr} (h : s.MemOk) : (s.gatherMet lk all tr).1.MemOk :=
  .ite_fst h (.ite_fst (.startTx h) (.ite_fst h (.ite_fst (.sendFwds h) h)))

theorem hostGather {lk all tr met} (h : s.MemOk) : (s.hostGather lk all tr met).1.MemOk :=
  .ite_fst (.gatherMet h) (.ite_fst (.gatherHome h) (.gatherShared h))

theorem hostAnswer {off} (h : s.MemOk) : (s.hostAnswer off).MemOk := .upd h
theorem hostBytes {off mask data} (h : s.MemOk) : (s.hostBytes off mask data).MemOk := .ofMem (Memory.wf_writeAll h _)

theorem hostDo {i met} (h : s.MemOk) : (s.hostDo i met).1.MemOk := by
  unfold State.hostDo
  dsimp only
  split
  · refine .ite_fst (.hostGather h) ?_
    split
    · exact .setHalf (.hostAnswer (.hostGather h))
    · exact .setHalf (.hostAnswer (.hostGather h))
    · exact .hostAnswer (.hostGather h)
  · exact .ite_fst (.hostGather h) (.setHalf (.hostBytes (.hostGather h)))
  · exact .ite_fst (.hostGather h) (.setHalf (.setLine (.hostGather h)))
  · exact h

theorem sendCxl {ms} (h : s.MemOk) : (s.sendCxl ms).MemOk := .upd h
theorem snoopInv {lk half} (h : s.MemOk) : (s.snoopInv lk half).MemOk := .setLine (.evictMsgs (.sendCxl h))
theorem snoopShare {lk} (h : s.MemOk) : (s.snoopShare lk).MemOk := .setLine (.ite (.sendCxl h) h)

theorem snoopDo {lk half inv} (h : s.MemOk) : (s.snoopDo lk half inv).1.MemOk := by
  unfold State.snoopDo
  refine .ite_fst h (.ite_fst ?_ (.ite_fst h ?_))
  · split
    · exact .snoopInv (.of_pair ‹_› (.gatherEvict h))
    · exact .gatherEvict h
  · split
    · exact .snoopShare (.of_pair ‹_› (.gatherShared h))
    · exact .gatherShared h

theorem hostServe {i} (h : s.MemOk) : (s.hostServe i).MemOk := by
  unfold State.hostServe
  dsimp only
  split
  · split
    · exact .of_pair ‹_› (.snoopDo h)
    · exact .holdFor (.of_pair ‹_› (.snoopDo h))
  · split
    · exact h
    · split
      · exact .of_pair ‹_› (.hostDo h)
      · exact .holdFor (.of_pair ‹_› (.hostDo h))

theorem meetsBi {i lk h} (hm : s.MemOk) : (s.meetsBi i lk h).MemOk := .ite (.ite (.upd hm) (.upd hm)) (.ite (.upd hm) (.upd hm))

/-! Requests at their home slices, tokens, translation invalidation (Machine/Translate). -/

theorem putReq {rid r} (h : s.MemOk) : (s.putReq rid r).MemOk := .upd h

theorem dropReq {rid} (h : s.MemOk) : (s.dropReq rid).MemOk := by
  unfold State.dropReq
  dsimp only
  split
  · exact .freePermit (.upd h)
  · exact h

theorem endReq {rid} (h : s.MemOk) : (s.endReq rid).MemOk := by
  unfold State.endReq
  split
  · exact .ite (.putReq h) (.dropReq h)
  · exact h

theorem notice {rid} (h : s.MemOk) : (s.notice rid).MemOk := by
  unfold State.notice
  split
  · exact .putReq h
  · exact h

theorem answering {rid} (h : s.MemOk) : (s.answering rid).MemOk := by
  unfold State.answering
  split
  · exact .putReq h
  · exact h

theorem grant {lk a n owner} (h : s.MemOk) : (s.grant lk a n owner).MemOk := .ite h (.refreshMesi (.fly (.setLine h)))
theorem forwardTo {lk rid a hs} (h : s.MemOk) : (s.forwardTo lk rid a hs).MemOk := .sendFwds (.setLine h)
theorem refuseHost {rid r} (h : s.MemOk) : (s.refuseHost rid r).MemOk := .endReq (.upd (.repark h))
theorem useRedirect {lk a} (h : s.MemOk) : (s.useRedirect lk a).MemOk := .ite (.setLine (.upd h)) h

theorem helperGrant {rid r} (h : s.MemOk) : SomeOk (s.helperGrant rid r) := by
  unfold State.helperGrant
  refine .ite .none (.ite .none ?_)
  dsimp only
  split
  · exact .ite .none (.some (.answering (.fly (.setLine (.upd h)))))
  · exact .none

theorem serveRead {rid r} (h : s.MemOk) : (s.serveRead rid r).MemOk := .answering (.forwardTo (.grant h))
theorem serveOwn {rid r} (h : s.MemOk) : (s.serveOwn rid r).MemOk := .answering (.forwardTo (.grant h))
theorem serveUpd {rid r k} (h : s.MemOk) : (s.serveUpd rid r k).MemOk := .ite (.endReq h) (.endReq (.upd (.setLine (.upd h))))
theorem queueFor {rid r starved} (h : s.MemOk) : (s.queueFor rid r starved).MemOk := .putReq (.setLine h)

theorem serveNow {rid} (h : s.MemOk) : (s.serveNow rid).MemOk := by
  unfold State.serveNow
  dsimp only
  split
  · exact h
  · split
    · exact .of_some (.ite (MemOk.helperGrant h) .none) ‹_›
    · refine .ite (.queueFor h) (.ite (.hold h) ?_)
      split
      · exact .hold (.of_pair ‹_› (.ownTag h))
      · next e =>
        have h1 := of_pair e (.ownTag h)
        split
        · exact .notice (.of_pair ‹_› (.hostFill h1))
        · exact .refuseHost (.of_pair ‹_› (.hostFill h1))
        · next e =>
          have h2 := of_pair e (.hostFill h1)
          split
          · exact .notice (.of_pair ‹_› (.fillL2 h2))
          · next e =>
            have h3 := of_pair e (.fillL2 h2)
            split
            · exact .ite (.hold (.startMerge h3)) (.ite (.hold (.startBi h3)) (.serveRead h3))
            · exact .ite (.hold (.startMerge h3))
                (.ite (.hold (.startUnrepl h3)) (.ite (.hold (.startBi h3)) (.ite (.hold (.startTx h3)) (.serveOwn h3))))
            · exact .ite (.endReq h3) (.ite (.hold (.startMerge h3)) (.ite (.hold (.startRecall h3)) (.serveUpd h3)))

theorem activate {rid r} (h : s.MemOk) : (s.activate rid r).MemOk :=
  .ite h (.foldl (.setLine (.forwardTo h)) (fun _ _ hs => .fly hs))

theorem serveQueue {lk} (h : s.MemOk) : (s.serveQueue lk).MemOk := by
  unfold State.serveQueue
  dsimp only
  split
  · exact .ite (.grant (.setLine (.ite h (.setLine h)))) (.ite h (.setLine h))
  · exact .ite h (.setLine h)

theorem queueMode {rid r} (h : s.MemOk) : (s.queueMode rid r).MemOk := by
  unfold State.queueMode
  dsimp only
  split
  · exact .of_pair ‹_› (.hostFill h)
  · exact .refuseHost (.of_pair ‹_› (.hostFill h))
  · split
    · exact .holdFor (.of_pair ‹_› (.gatherWrite (.of_pair ‹_› (.hostFill h))))
    · exact .serveQueue (.setLine (.upd (.of_pair ‹_› (.gatherWrite (.of_pair ‹_› (.hostFill h))))))

theorem starved {rid r0} (h : s.MemOk) : (s.starved rid r0).MemOk := by
  unfold State.starved
  extract_lets r s0 pk t _ _ s1
  have hs0 : s0.MemOk := .putReq h
  have hs1 : s1.MemOk := .upd (.putReq h)
  exact .ite (.queueFor hs0) (.ite (.serveNow (.activate hs1)) (.ite hs0 (.queueMode hs0)))

theorem homeServe {rid} (h : s.MemOk) : (s.homeServe rid).MemOk := by
  unfold State.homeServe
  split
  · exact .ite (.starved h) (.ite h (.serveNow h))
  · exact h

theorem serveEntry {lk id} (h : s.MemOk) : (s.serveEntry lk id).MemOk := by
  unfold State.serveEntry
  dsimp only
  split
  · exact h
  · refine .ite h ?_
    split
    · exact .upd (.of_pair ‹_› (.tryEntry h))
    · exact .of_pair ‹_› (.tryEntry h)

theorem serveWalk {lk t a} (h : s.MemOk) : (s.serveWalk lk t a).MemOk := by
  unfold State.serveWalk
  dsimp only
  split
  · exact .upd (.of_pair ‹_› (.readEntry (.givePermit h)))
  · exact .queueAt (.of_pair ‹_› (.readEntry (.givePermit h)))

theorem serveOne {lk x} (h : s.MemOk) : (s.serveOne lk x).MemOk := by
  unfold State.serveOne
  split
  · exact .homeServe h
  · exact .hostServe h
  · exact .serveWalk h
  · exact .givePermit h
  · exact .serveEntry h
  · exact .progressOp h
  · exact .tryArr h
  · split
    · split
      · exact .getReply h
      · exact h
    · exact h
  · exact .granuleDone h

theorem serveGo {lk l} (h : s.MemOk) : (serveGo lk l s).MemOk := by
  induction l generalizing s with
  | nil => exact h
  | cons x l ih =>
    unfold State.serveGo
    exact .ite (ih (.serveOne h)) (.setLine h)

theorem serveHeld {lk} (h : s.MemOk) : (s.serveHeld lk).MemOk := .ite h (.serveGo (.setLine h))

theorem settleLine {lk} {s0 : State} (h : s0.MemOk) : (s0.settleLine lk).MemOk :=
  .ite (.drain (.serveHeld (.refreshMesi (.setLine (.ite (.serveQueue h) h))))) (.ite (.serveQueue h) h)

theorem countRead {rid r} (h : s.MemOk) : (s.countRead rid r).MemOk :=
  .ite h (.ite (.useRedirect h) (.countHot (.useRedirect h)))

theorem execHomeRequest {rid} (h : s.MemOk) : OutOk (execHomeRequest rid s) := by
  unfold Machine.execHomeRequest
  refine .next ?_
  split
  · exact .ite (.drain (.homeServe (.countRead h))) h
  · exact h

theorem answerFwd {isl line holder k} (h : s.MemOk) : (s.answerFwd isl line holder k).MemOk := by
  unfold State.answerFwd
  dsimp only
  split
  · exact .setLine h
  · exact .ite h (.sendTokens h)
  · exact .ite h (.combine h)
  · exact .ite h (.keepOne h)
  · exact .ite h (.sendTokens h)

theorem execForward {isl line holder k} (h : s.MemOk) : OutOk (execForward isl line holder k s) := by
  unfold Machine.execForward
  refine .next ?_
  dsimp only
  split
  · exact h
  · exact .ite h (.settleLine (.refreshMesi (.probed (.answerFwd (.setLine h)))))

theorem takeTokens {isl a line n owner} (h : s.MemOk) : (s.takeTokens isl a line n owner).MemOk := by
  unfold State.takeTokens
  refine .ite ?_ ?_
  · dsimp only
    split
    · exact .ite (.endReq (.setCline h)) (.setCline h)
    · exact .setCline h
  · dsimp only
    split
    · exact .refreshSharers (.fly h)
    · refine .ite (.refreshSharers (.fly (.endReq h))) ?_
      split
      · exact .ite (.endReq (.setCline (.upd h))) (.setCline (.upd h))
      · exact .setCline (.upd h)

theorem homeTokens {lk n owner} (h : s.MemOk) : (s.homeTokens lk n owner).MemOk := by
  unfold State.homeTokens
  dsimp only
  split
  · exact .ite (.homeServe (.settleLine (.refreshMesi (.setLine h)))) (.settleLine (.refreshMesi (.setLine h)))
  · exact .settleLine (.refreshMesi (.setLine h))

theorem helperTokens {lk sl n} (h : s.MemOk) : (s.helperTokens lk sl n).MemOk := by
  unfold State.helperTokens
  dsimp only
  split
  · exact .fly h
  · exact .ite (.fly h) (.setLine h)

theorem execTokenArrival {isl line dest n owner} (h : s.MemOk) : OutOk (execTokenArrival isl line dest n owner s) := by
  unfold Machine.execTokenArrival
  refine .next ?_
  dsimp only
  split
  · exact h
  · refine .ite h (.drain ?_)
    split
    · exact .homeTokens (.setLine h)
    · exact .helperTokens (.setLine h)
    · refine .ite (.refreshSharers (.fly (.setLine h))) ?_
      split
      · exact .ite (.takeTokens (.setLine h)) (.refreshSharers (.fly (.setLine (.setLine h))))
      · exact .takeTokens (.setLine h)

theorem execLineEviction {isl agent line} (h : s.MemOk) : OutOk (execLineEviction isl agent line s) :=
  .next (.ite (.ite (.settleLine (.dropReplica h)) h) (.ite h (.settleLine (.refreshSharers (.evictL1 h)))))

theorem execRequestRetry {rid} (h : s.MemOk) : OutOk (execRequestRetry rid s) := by
  unfold Machine.execRequestRetry
  refine .next ?_
  dsimp only
  split
  · exact .ite h (.ite (.putReq h) (.ite (.putReq (.upd h)) (.putReq (.upd h))))
  · exact h

theorem execPersistentRequest {rid} (h : s.MemOk) : OutOk (execPersistentRequest rid s) := by
  unfold Machine.execPersistentRequest
  refine .next ?_
  split
  · exact h
  · exact .ite h (.drain (.homeServe h))

theorem passLine {lk a n} (h : s.MemOk) : (s.passLine lk a n).MemOk := .ite h (.ite (.sendTokens h) (.sendTokens (.setLine h)))

theorem execPersistentDeactivate {rid} (h : s.MemOk) : OutOk (execPersistentDeactivate rid s) := by
  unfold Machine.execPersistentDeactivate
  refine .next ?_
  dsimp only
  split
  · exact h
  · refine .ite h (.ite ?_ ?_)
    · split
      · exact .settleLine (.passLine (.setLine (.upd (.dropReq h))))
      · exact .settleLine (.setLine (.upd (.dropReq h)))
    · split
      · exact .drain (.homeServe (.activate (.upd (.dropReq h))))
      · exact .upd (.dropReq h)

theorem helperWay {lk sl} (h : s.MemOk) : (s.helperWay lk sl).1.MemOk := by
  unfold State.helperWay
  dsimp only
  split
  · exact .setLine (.of_pair ‹_› (.takeWay h))
  · exact .setLine (.of_pair ‹_› (.takeWay h))
  · exact .setLine (.of_pair ‹_› (.takeWay h))

theorem helperWays {lk l} (h : s.MemOk) : (helperWays lk l s).1.MemOk := by
  induction l generalizing s with
  | nil => exact h
  | cons x l ih =>
    unfold State.helperWays
    exact ih (.helperWay h)

theorem dropRedirect {isl a} (h : s.MemOk) : (s.dropRedirect isl a).MemOk := by
  unfold State.dropRedirect
  refine .ite h ?_
  dsimp only
  split
  · exact .setLine h
  · exact h

theorem replicate {lk share ws} (h : s.MemOk) : (s.replicate lk share ws).MemOk :=
  .foldl (.setLine (.upd (.foldl h (fun _ _ hs => .dropRedirect hs)))) (fun _ _ hs => .fly hs)

theorem execHotLineReplicate {isl line} (h : s.MemOk) : OutOk (execHotLineReplicate isl line s) := by
  unfold Machine.execHotLineReplicate
  refine .next ?_
  extract_lets lk cooled _ r ws share
  have hr : r.1.MemOk := .helperWays h
  exact .ite h (.ite (.upd (.setLine h)) (.ite hr (.ite (.upd hr) (.replicate (.upd hr)))))

theorem execWalk {isl tlb spn va k sup} (h : s.MemOk) : OutOk (execWalk isl tlb spn va k sup s) := .next (.ite h (.translate h))

theorem execTinv {isl tlb line} (h : s.MemOk) : OutOk (execTinv isl tlb line s) :=
  .next (.ite h (.reparkBy (.upd (.foldl (.upd h) (fun _ _ hs => .dropEntry hs)))))

theorem unstick {d} (h : s.MemOk) : (s.unstick d).MemOk := .upd (.reparkBy h)

theorem leaveL2 {lk} (h : s.MemOk) : (s.leaveL2 lk).MemOk := by
  unfold State.leaveL2
  refine .ite h ?_
  split
  · exact .dropL2 (.of_pair ‹_› (.gatherEvict h))
  · exact .of_pair ‹_› (.gatherEvict h)

theorem execTack {isl tlb line} {s0 : State} (h : s0.MemOk) : OutOk (execTack isl tlb line s0) := by
  unfold Machine.execTack
  refine .next ?_
  dsimp only
  split
  · exact h
  · exact .ite (.unstick h)
      (.ite (.setLine (.upd (.unstick h))) (.drain (.serveHeld (.leaveL2 (.setLine (.upd (.unstick h)))))))

/-! The CXL bridge: host requests for island memory, back-invalidation, host-coherent lines (Machine/Cxl). -/

theorem hostArrives {i off} (h : s.MemOk) : (s.hostArrives i off).MemOk :=
  .ite (.upd h) (.ite (.meetsBi h) (.drain (.hostServe h)))

theorem execHostMemrd {off snp} (h : s.MemOk) : OutOk (execHostMemrd off snp s) := .next (.hostArrives h)
theorem execHostMemwr {off mv mask data} (h : s.MemOk) : OutOk (execHostMemwr off mv mask data s) := .next (.hostArrives h)
theorem execHostMeminv {off mv} (h : s.MemOk) : OutOk (execHostMeminv off mv s) := .next (.hostArrives h)
theorem execHostMemspecrd {_off} (h : s.MemOk) : OutOk (execHostMemspecrd _off s) := .next h
theorem execHostM2sUnsupported {opcode} (h : s.MemOk) : OutOk (execHostM2sUnsupported opcode s) := .next (.upd h)
theorem releaseBridge {lk h} (hm : s.MemOk) : (s.releaseBridge lk h).MemOk := .foldl (.upd hm) (fun _ _ hs => .holdFor hs)

theorem execBisnpResponse {isl line half data} (h : s.MemOk) : OutOk (execBisnpResponse isl line half data s) := by
  unfold Machine.execBisnpResponse
  refine .next ?_
  dsimp only
  split
  · refine .ite h (.settleLine (.releaseBridge (.setHalf (.setLine ?_))))
    split
    · exact .ite (.ofMem (Memory.wf_writeBytes h _ _)) h
    · exact h
  · exact h

theorem execBiConflict {isl line half} (h : s.MemOk) : OutOk (execBiConflict isl line half s) := by
  unfold Machine.execBiConflict
  refine .next (.ite h ?_)
  dsimp only
  split
  · exact .upd h
  · split
    · exact .upd (.of_pair ‹_› (.hostDo h))
    · exact .of_pair ‹_› (.hostDo h)

theorem execHostSnoop {isl line half inv} (h : s.MemOk) : OutOk (execHostSnoop isl line half inv s) :=
  .next (.drain (.hostServe h))

theorem execCxlCacheResponse {lk half own data} (h : s.MemOk) : OutOk (execCxlCacheResponse lk half own data s) := by
  unfold Machine.execCxlCacheResponse
  refine .next ?_
  dsimp only
  split
  · split
    · exact .upd h
    · exact h
  · exact .settleLine (.setLine (.ofMem (Memory.wf_writeBytes h _ _)))

/-! The scalar class (Machine/Scalar). -/

theorem execSadd {x} (h : s.MemOk) : OutOk (execSadd x s) := .next (.scalar32 h)
theorem execSsub {x} (h : s.MemOk) : OutOk (execSsub x s) := .next (.scalar32 h)
theorem execSmul {x} (h : s.MemOk) : OutOk (execSmul x s) := .next (.scalar32 h)
theorem execSmulh {x} (h : s.MemOk) : OutOk (execSmulh x s) := .next (.scalar32 h)
theorem execSmad {x} (h : s.MemOk) : OutOk (execSmad x s) := .next (.scalar32 h)
theorem execSdiv {x} (h : s.MemOk) : OutOk (execSdiv x s) := .next (.scalar32 h)
theorem execSrem {x} (h : s.MemOk) : OutOk (execSrem x s) := .next (.scalar32 h)
theorem execSand {x} (h : s.MemOk) : OutOk (execSand x s) := .next (.scalar32 h)
theorem execSor {x} (h : s.MemOk) : OutOk (execSor x s) := .next (.scalar32 h)
theorem execSxor {x} (h : s.MemOk) : OutOk (execSxor x s) := .next (.scalar32 h)
theorem execSandn {x} (h : s.MemOk) : OutOk (execSandn x s) := .next (.scalar32 h)
theorem execSshl {x} (h : s.MemOk) : OutOk (execSshl x s) := .next (.scalar32 h)
theorem execSshr {x} (h : s.MemOk) : OutOk (execSshr x s) := .next (.scalar32 h)
theorem execSsar {x} (h : s.MemOk) : OutOk (execSsar x s) := .next (.scalar32 h)
theorem execSrot {x} (h : s.MemOk) : OutOk (execSrot x s) := .next (.scalar32 h)
theorem execSmin {x} (h : s.MemOk) : OutOk (execSmin x s) := .next (.scalar32 h)
theorem execSmax {x} (h : s.MemOk) : OutOk (execSmax x s) := .next (.scalar32 h)
theorem execSpopc {x} (h : s.MemOk) : OutOk (execSpopc x s) := .next (.uniform h (fun _ _ hs => .wrS hs))
theorem execSclz {x} (h : s.MemOk) : OutOk (execSclz x s) := .next (.uniform h (fun _ _ hs => .wrS hs))
theorem execSbfe {x} (h : s.MemOk) : OutOk (execSbfe x s) := .next (.scalar32 h)
theorem execSbfi {x} (h : s.MemOk) : OutOk (execSbfi x s) := .next (.scalar32 h)
theorem execSadd64 {x} (h : s.MemOk) : OutOk (execSadd64 x s) := .next (.scalar64 h)
theorem execSsub64 {x} (h : s.MemOk) : OutOk (execSsub64 x s) := .next (.scalar64 h)
theorem execSlea {x} (h : s.MemOk) : OutOk (execSlea x s) := .next (.scalar64 h)
theorem execSsel {x} (h : s.MemOk) : OutOk (execSsel x s) := .next (.uniform h (fun _ _ hs => .ite (.wrS64 hs) (.wrS hs)))
theorem execScmp {x} (h : s.MemOk) : OutOk (execScmp x s) := .next (.uniform h (fun _ _ hs => .wrQ hs))
theorem execSmov {x} (h : s.MemOk) : OutOk (execSmov x s) := .next (.uniform h (fun _ _ hs => .ite (.wrS64 hs) (.wrS hs)))
theorem execSli {x} (h : s.MemOk) : OutOk (execSli x s) := .next (.advance (.ite (.ite (.wrS64 h) (.wrS h)) h))

/-! The vector integer class (Machine/VectorInt). -/

theorem bitwise {x f g} (h : s.MemOk) : (bitwise x s f g).MemOk := .ite (.vector64 h) (.vector32 h)
theorem vcount {x f g} (h : s.MemOk) : (vcount x s f g).MemOk := .perLane h (fun _ _ _ hs => .wrV hs)
theorem execVadd {x} (h : s.MemOk) : OutOk (execVadd x s) := .next (.vector32 h)
theorem execVsub {x} (h : s.MemOk) : OutOk (execVsub x s) := .next (.vector32 h)
theorem execVmul {x} (h : s.MemOk) : OutOk (execVmul x s) := .next (.vector32 h)
theorem execVmulh {x} (h : s.MemOk) : OutOk (execVmulh x s) := .next (.vector32 h)
theorem execVmin {x} (h : s.MemOk) : OutOk (execVmin x s) := .next (.vector32 h)
theorem execVmax {x} (h : s.MemOk) : OutOk (execVmax x s) := .next (.vector32 h)
theorem execVshl {x} (h : s.MemOk) : OutOk (execVshl x s) := .next (.vector32 h)
theorem execVshr {x} (h : s.MemOk) : OutOk (execVshr x s) := .next (.vector32 h)
theorem execVsar {x} (h : s.MemOk) : OutOk (execVsar x s) := .next (.vector32 h)
theorem execVrot {x} (h : s.MemOk) : OutOk (execVrot x s) := .next (.vector32 h)
theorem execVbfe {x} (h : s.MemOk) : OutOk (execVbfe x s) := .next (.vector32 h)
theorem execVmad {x} (h : s.MemOk) : OutOk (execVmad x s) := .next (.vector32 h)
theorem execVbfi {x} (h : s.MemOk) : OutOk (execVbfi x s) := .next (.vector32 h)
theorem execVabs {x} (h : s.MemOk) : OutOk (execVabs x s) := .next (.vector32 h)
theorem execVabsd {x} (h : s.MemOk) : OutOk (execVabsd x s) := .next (.vector32 h)
theorem execVand {x} (h : s.MemOk) : OutOk (execVand x s) := .next (.bitwise h)
theorem execVor {x} (h : s.MemOk) : OutOk (execVor x s) := .next (.bitwise h)
theorem execVxor {x} (h : s.MemOk) : OutOk (execVxor x s) := .next (.bitwise h)
theorem execVandn {x} (h : s.MemOk) : OutOk (execVandn x s) := .next (.bitwise h)
theorem execVpopc {x} (h : s.MemOk) : OutOk (execVpopc x s) := .next (.vcount h)
theorem execVclz {x} (h : s.MemOk) : OutOk (execVclz x s) := .next (.vcount h)
theorem execVsel {x} (h : s.MemOk) : OutOk (execVsel x s) := .next (.ite (.vector64 h) (.perLane h (fun _ _ _ hs => .wrV hs)))
theorem execVcmp {x} (h : s.MemOk) : OutOk (execVcmp x s) := .next (.perLane h (fun _ _ _ hs => .wrP hs))
theorem execVmov {x} (h : s.MemOk) : OutOk (execVmov x s) := .next (.ite (.vector64 h) (.vector32 h))
theorem execVli {x} (h : s.MemOk) : OutOk (execVli x s) := .next (.advance (.ite (.wrV64 h) (.wrV h)))
theorem execVdot4 {x} (h : s.MemOk) : OutOk (execVdot4 x s) := .next (.vector32 h)
theorem execVadd64 {x} (h : s.MemOk) : OutOk (execVadd64 x s) := .next (.vector64 h)
theorem execVlea {x} (h : s.MemOk) : OutOk (execVlea x s) := .next (.vector64 h)

/-! The meaning of every step, one arm each (Machine/Dispatch). -/

theorem exec {i} (h : s.MemOk) : OutOk (exec i s) := by
  unfold Machine.exec
  split
  · exact MemOk.execSadd h
  · exact MemOk.execSsub h
  · exact MemOk.execSmul h
  · exact MemOk.execSmulh h
  · exact MemOk.execSmad h
  · exact MemOk.execSdiv h
  · exact MemOk.execSrem h
  · exact MemOk.execSand h
  · exact MemOk.execSor h
  · exact MemOk.execSxor h
  · exact MemOk.execSandn h
  · exact MemOk.execSshl h
  · exact MemOk.execSshr h
  · exact MemOk.execSsar h
  · exact MemOk.execSrot h
  · exact MemOk.execSmin h
  · exact MemOk.execSmax h
  · exact MemOk.execSsel h
  · exact MemOk.execScmp h
  · exact MemOk.execSmov h
  · exact MemOk.execSli h
  · exact MemOk.execSpopc h
  · exact MemOk.execSclz h
  · exact MemOk.execSbfe h
  · exact MemOk.execSbfi h
  · exact MemOk.execSadd64 h
  · exact MemOk.execSsub64 h
  · exact MemOk.execSlea h
  · exact MemOk.execBra h
  · exact MemOk.execBrx h
  · exact MemOk.execBri h
  · exact MemOk.execJoin h
  · exact MemOk.execCall h
  · exact MemOk.execRet h
  · exact MemOk.execExit h
  · exact MemOk.execYield h
  · exact MemOk.execNop h
  · exact MemOk.execBrw h
  · exact MemOk.execWbind h
  · exact MemOk.execWset h
  · exact MemOk.execWget h
  · exact MemOk.execVadd h
  · exact MemOk.execVsub h
  · exact MemOk.execVmul h
  · exact MemOk.execVmulh h
  · exact MemOk.execVmad h
  · exact MemOk.execVmin h
  · exact MemOk.execVmax h
  · exact MemOk.execVabs h
  · exact MemOk.execVabsd h
  · exact MemOk.execVand h
  · exact MemOk.execVor h
  · exact MemOk.execVxor h
  · exact MemOk.execVandn h
  · exact MemOk.execVshl h
  · exact MemOk.execVshr h
  · exact MemOk.execVsar h
  · exact MemOk.execVrot h
  · exact MemOk.execVpopc h
  · exact MemOk.execVclz h
  · exact MemOk.execVbfe h
  · exact MemOk.execVbfi h
  · exact MemOk.execVsel h
  · exact MemOk.execVcmp h
  · exact MemOk.execVmov h
  · exact MemOk.execVli h
  · exact MemOk.execVdot4 h
  · exact MemOk.execVadd64 h
  · exact MemOk.execVlea h
  · exact MemOk.execFadd h
  · exact MemOk.execFsub h
  · exact MemOk.execFmul h
  · exact MemOk.execFfma h
  · exact MemOk.execFmin h
  · exact MemOk.execFmax h
  · exact MemOk.execFcmp h
  · exact MemOk.execFrcp h
  · exact MemOk.execFrsq h
  · exact MemOk.execFsqrt h
  · exact MemOk.execFexp2 h
  · exact MemOk.execFlog2 h
  · exact MemOk.execFsin h
  · exact MemOk.execFcos h
  · exact MemOk.execFtanh h
  · exact MemOk.execFrnd h
  · exact MemOk.execFclass h
  · exact MemOk.execFscale h
  · exact MemOk.execCvt h
  · exact MemOk.execCvtb h
  · exact MemOk.execPack h
  · exact MemOk.execUnpk h
  · exact MemOk.execFdot2 h
  · exact MemOk.execShfl h
  · exact MemOk.execQswz h
  · exact MemOk.execVote h
  · exact MemOk.execMatchEq h
  · exact MemOk.execElect h
  · exact MemOk.execRedx h
  · exact MemOk.execScanx h
  · exact MemOk.execHelp h
  · exact MemOk.execMask h
  · exact MemOk.execBara h
  · exact MemOk.execBarw h
  · exact MemOk.execBars h
  · exact MemOk.execBard h
  · exact MemOk.execBarj h
  · exact MemOk.execBart h
  · exact MemOk.execLd h
  · exact MemOk.execSt h
  · exact MemOk.execLdf h
  · exact MemOk.execAtomArith h
  · exact MemOk.execAtomBitwise h
  · exact MemOk.execRedArith h
  · exact MemOk.execRedBitwise h
  · exact MemOk.execPref h
  · exact MemOk.execCctl h
  · exact MemOk.execFence h
  · exact MemOk.execTwin h
  · exact MemOk.execSetc h
  · exact MemOk.execWaitc h
  · exact MemOk.execTestc h
  · exact MemOk.execPut h
  · exact MemOk.execPuts h
  · exact MemOk.execGet h
  · exact MemOk.execRadd h
  · exact MemOk.execNotify h
  · exact MemOk.execWaitn h
  · exact MemOk.execTestn h
  · exact MemOk.execRfence h
  · exact MemOk.execMma h
  · exact MemOk.execAclr h
  · exact MemOk.execAld h
  · exact MemOk.execAdrn h
  · exact MemOk.execSetfb h
  · exact MemOk.execKick h
  · exact MemOk.execTrap h
  · exact MemOk.execRett h
  · exact MemOk.execSysrd h
  · exact MemOk.execSyswr h
  · exact MemOk.execBkpt h
  · exact MemOk.execPoolpop h
  · exact MemOk.execPoolpush h
  · exact MemOk.execEvpop h
  · exact MemOk.execEvwait h
  · exact MemOk.execTlaunch h
  · exact MemOk.execHalt h
  · exact MemOk.execIdle h
  · exact MemOk.execClauseHeader h
  · exact MemOk.execHandlerEntry h
  · exact MemOk.execFragmentWake h
  · exact MemOk.execLongLatencyComplete h
  · exact MemOk.execGangFree h
  · exact MemOk.execLaunch h
  · exact MemOk.execWait h
  · exact MemOk.execNotifyCommand h
  · exact MemOk.execCopy h
  · exact MemOk.execMark h
  · exact MemOk.execQueueDoorbell h
  · exact MemOk.execQueueControlWrite h
  · exact MemOk.execQueueBaseWrite h
  · exact MemOk.execTaskEnterWindow h
  · exact MemOk.execTaskReady h
  · exact MemOk.execGangPlace h
  · exact MemOk.execPrecinctHalt h
  · exact MemOk.execHaltComplete h
  · exact MemOk.execResume h
  · exact MemOk.execExchange h
  · exact MemOk.execExchangeComplete h
  · exact MemOk.execAbort h
  · exact MemOk.execAbortComplete h
  · exact MemOk.execRelease h
  · exact MemOk.execWake h
  · exact MemOk.execArmbpClear h
  · exact MemOk.execDebugHalt h
  · exact MemOk.execDebugHaltClear h
  · exact MemOk.execPrecinctCreate h
  · exact MemOk.execPrecinctFree h
  · exact MemOk.execPoolDoorbell h
  · exact MemOk.execPfpoolWrite h
  · exact MemOk.execContextCreate h
  · exact MemOk.execContextUpdate h
  · exact MemOk.execContextDestroy h
  · exact MemOk.execHostPageOwnerChange h
  · exact MemOk.execPwrcapWrite h
  · exact MemOk.execSteerWrite h
  · exact MemOk.execChartWrite h
  · exact MemOk.execPeerEntryWrite h
  · exact MemOk.execColourFaultClear h
  · exact MemOk.execCounterClear h
  · exact MemOk.execRegisterWrite h
  · exact MemOk.execModuleReset h
  · exact MemOk.execBootAttemptFailed h
  · exact MemOk.execThermalLimit h
  · exact MemOk.execPowerShareAdjust h
  · exact MemOk.execGetCertificate h
  · exact MemOk.execChallenge h
  · exact MemOk.execGetMeasurements h
  · exact MemOk.execWalk h
  · exact MemOk.execTinv h
  · exact MemOk.execTack h
  · exact MemOk.execHomeRequest h
  · exact MemOk.execForward h
  · exact MemOk.execTokenArrival h
  · exact MemOk.execLineEviction h
  · exact MemOk.execRequestRetry h
  · exact MemOk.execPersistentRequest h
  · exact MemOk.execPersistentDeactivate h
  · exact MemOk.execHotLineReplicate h
  · exact MemOk.execHostMemrd h
  · exact MemOk.execHostMemwr h
  · exact MemOk.execHostMeminv h
  · exact MemOk.execHostMemspecrd h
  · exact MemOk.execHostM2sUnsupported h
  · exact MemOk.execBisnpResponse h
  · exact MemOk.execBiConflict h
  · exact MemOk.execHostSnoop h
  · exact MemOk.execCxlCacheResponse h
  · exact MemOk.execTenderRequestStart h
  · exact MemOk.execTenderGranuleDone h
  · exact MemOk.execPeqPost h
  · exact MemOk.execIslandOpLocalComplete h
  · exact MemOk.execIslandOpArrival h
  · exact MemOk.execHeldArrivalPlace h
  · exact MemOk.execPositiveAcknowledgement h
  · exact MemOk.execNegativeAcknowledgement h
  · exact MemOk.execGetReply h
  · exact MemOk.execFlitReceive h
  · exact MemOk.execRepeatRequest h
  · exact MemOk.execLinkAcknowledgement h
  · exact MemOk.execResendTimeout h
  · exact MemOk.execLinkDown h
  · exact MemOk.execLinkUp h
  · exact MemOk.execOperationTimeout h
  · exact MemOk.execCreditReturn h
  · exact MemOk.execSteerWindow h
  · exact MemOk.execQuadratureAlarm h
  · exact MemOk.execColourRecover h
  · exact MemOk.execCircuitRetry h
  · exact MemOk.execUePacketReceive h
  · exact MemOk.execUePacketAbandon h
  · exact MemOk.execSteeringMessage h
  · exact MemOk.execGetVersion h
  · exact MemOk.execGetCapabilities h
  · exact MemOk.execNegotiateAlgorithms h
  · exact MemOk.execGetDigests h

/-! What the next step may be: an agent's instruction, an event of the machine, an event from outside (Machine/Sched). -/

theorem tick (h : s.MemOk) : s.tick.MemOk := .upd h
theorem forAgent {a} (h : s.MemOk) : (s.forAgent a).MemOk := .tick (.upd h)

/-! One step of the machine (Machine/Step). -/

theorem runAgent (h : s.MemOk) : OutOk (runAgent s) := by
  unfold Machine.runAgent
  split
  · exact .next (.of_pair ‹_› (.issue h))
  · exact MemOk.exec (.of_pair ‹_› (.issue h))

theorem step (h : s.MemOk) : OutOk (step s) := by
  unfold Machine.step
  split
  · exact MemOk.runAgent (.forAgent h)
  · exact MemOk.exec (.tick h)
  · exact MemOk.exec (.tick (.upd h))
  · exact .next (.tick h)

end

end State.MemOk

end Sys2Proof.Machine

namespace Sys2Proof.Proofs

open Sys2Proof Sys2Proof.Machine

/-- Settles O57: a step is the turn of an agent, an event, an input or nothing, and each calls only operations that keep memory canonical. -/
theorem memoryCanonical : Obligations.MemoryCanonical := by
  intro s t h hs
  exact State.MemOk.step h t hs

end Sys2Proof.Proofs

/-! Deleting from a table: what a key holds after it has been deleted. -/

namespace Sys2Proof

/-- The keys after the first lie above it. -/
theorem Tbl.wf_head_lt {α : Type} {k : Nat} {v : α} {t : Tbl α} (h : Tbl.wf ((k, v) :: t) = true) : ∀ x ∈ t, k < x.1 := by
  induction t generalizing k v with
  | nil => simp
  | cons y t ih =>
    obtain ⟨i, w⟩ := y
    simp only [Tbl.wf, Bool.and_eq_true, decide_eq_true_eq] at h
    intro x hx
    rcases List.mem_cons.1 hx with rfl | hx
    · exact h.1
    · exact Nat.lt_trans h.1 (ih h.2 x hx)

/-- A key that is not listed holds the default. -/
theorem Tbl.get_of_not_listed {α : Type} (d : α) {t : Tbl α} {j : Nat} (h : ∀ x ∈ t, x.1 ≠ j) : t.get d j = d := by
  induction t with
  | nil => rfl
  | cons y t ih =>
    obtain ⟨hy, ht⟩ := List.forall_mem_cons.1 h
    rw [Tbl.get, if_neg (Ne.symm hy), ih ht]

theorem Tbl.get_del_same {α : Type} (d : α) {t : Tbl α} (h : Tbl.wf t = true) (k : Nat) : (t.del k).get d k = d := by
  induction t with
  | nil => rfl
  | cons y t ih =>
    obtain ⟨i, w⟩ := y
    rw [Tbl.del]
    split
    · next hk => exact Tbl.get_of_not_listed d fun x hx => hk ▸ Nat.ne_of_gt (Tbl.wf_head_lt h x hx)
    · next hk => rw [Tbl.get, if_neg hk, ih (Tbl.wf_tail h)]

theorem Tbl.get_del_ne {α : Type} (d : α) (t : Tbl α) {j k : Nat} (h : j ≠ k) : (t.del k).get d j = t.get d j := by
  induction t with
  | nil => rfl
  | cons y t ih =>
    obtain ⟨i, w⟩ := y
    rw [Tbl.del]
    split
    · next hk => rw [Tbl.get, if_neg (hk ▸ h)]
    · rw [Tbl.get, Tbl.get, ih]

end Sys2Proof

/-! The host's registers (O45): which register stands at an offset of BAR0, and what a write of it does. -/

namespace Sys2Proof.Machine

open Sys2Proof

/-! Places in BAR0 (R414). -/

theorem regAt_unaligned {off : Nat} (h : off % 8 ≠ 0) : regAt off = .none := if_pos h

theorem regAt_gap {off : Nat} (h : 0x2000 ≤ off) (h' : off < 0x80000) : regAt off = .none := by
  by_cases h8 : off % 8 = 0
  · simp only [regAt, Bool.and_eq_true, decide_eq_true_eq]
    repeat rw [if_neg (by omega)]
  · exact regAt_unaligned h8

theorem regAt_precinct {p off : Nat} (hp : p < 320) (ho : off < 0x100) (h8 : off % 8 = 0) :
    regAt (0x80000 + p * 0x100 + off) = .precinct p off := by
  simp only [regAt, Bool.and_eq_true, decide_eq_true_eq]
  rw [if_neg (by omega), if_neg (by omega), if_neg (by omega), if_pos (by omega)]
  exact congr (congrArg Reg.precinct (by omega)) (by omega)

theorem regAt_queue {p q off : Nat} (hp : p < 320) (hq : q < 64) (ho : off < 0x20) (h8 : off % 8 = 0) :
    regAt (0x100000 + p * 0x1000 + q * 0x20 + off) = .queue (p * 64 + q) off := by
  simp only [regAt, Bool.and_eq_true, decide_eq_true_eq]
  rw [if_neg (by omega), if_neg (by omega), if_neg (by omega), if_neg (by omega), if_pos (by omega), if_pos (by omega)]
  exact congr (congrArg Reg.queue (by omega)) (by omega)

theorem regAt_island {isl off : Nat} (hi : isl < 20) (ho : off < 0x10000) (h8 : off % 8 = 0) :
    regAt (0x1000000 + isl * 0x10000 + off) = .island isl off := by
  simp only [regAt, Bool.and_eq_true, decide_eq_true_eq]
  rw [if_neg (by omega), if_neg (by omega), if_neg (by omega), if_neg (by omega), if_neg (by omega), if_pos (by omega)]
  exact congr (congrArg Reg.island (by omega)) (by omega)

theorem regAt_chart {isl off : Nat} (hi : isl < 20) (ho : off < 0x40000) (h8 : off % 8 = 0) :
    regAt (0x4000000 + isl * 0x40000 + off) = .chart isl off := by
  simp only [regAt, Bool.and_eq_true, decide_eq_true_eq]
  rw [if_neg (by omega), if_neg (by omega), if_neg (by omega), if_neg (by omega), if_neg (by omega), if_neg (by omega), if_pos (by omega)]
  exact congr (congrArg Reg.chart (by omega)) (by omega)

/-! A write goes to the block that its offset lies in. -/

section

variable {s : State} {v : W64}

theorem registerWrite_none {off : Nat} (h : regAt off = .none) : exec (.registerWrite off v) s = .next s := by
  show execRegisterWrite off v s = .next s
  rw [execRegisterWrite, h]

theorem registerWrite_module {off : Nat} (h : regAt off = .module off) (hm : s.mgt.mod.mode ≠ 3) :
    exec (.registerWrite off v) s = .next (s.writeModule off v) := by
  show execRegisterWrite off v s = _
  rw [execRegisterWrite, h]
  exact congrArg _ (if_neg hm)

theorem registerWrite_precinct {off p o : Nat} (h : regAt off = .precinct p o) (hb : s.booted = true) :
    exec (.registerWrite off v) s = .next (s.writePrecinct p o v) := by
  show execRegisterWrite off v s = _
  rw [execRegisterWrite, h]
  exact congrArg _ (if_pos hb)

theorem registerWrite_queue {off q o : Nat} (h : regAt off = .queue q o) (hb : s.booted = true) :
    exec (.registerWrite off v) s = .next (s.writeQueue q o v) := by
  show execRegisterWrite off v s = _
  rw [execRegisterWrite, h]
  exact congrArg _ (if_pos hb)

theorem registerWrite_island {off isl o : Nat} (h : regAt off = .island isl o) (hb : s.booted = true) :
    exec (.registerWrite off v) s = .next (s.writeIsland isl o v) := by
  show execRegisterWrite off v s = _
  rw [execRegisterWrite, h]
  exact congrArg _ (if_pos hb)

theorem registerWrite_chart {isl e : Nat} (hi : isl < 20) (he : e < 4096) (hb : s.booted = true) :
    exec (.registerWrite (0x4000000 + isl * 0x40000 + 8 * e) v) s = execChartWrite isl e v s := by
  show execRegisterWrite _ v s = _
  rw [execRegisterWrite, regAt_chart hi (by omega) (by omega)]
  dsimp only
  rw [if_neg (by simp [hb]), if_pos (by omega), Nat.mul_div_cancel_left _ (by decide)]
  rfl

theorem registerWrite_peer {isl o : Nat} (hi : isl < 20) (ho : o < 0x20000) (h8 : o % 8 = 0) (hb : s.booted = true) :
    exec (.registerWrite (0x4000000 + isl * 0x40000 + 0x10000 + o) v) s = execPeerEntryWrite isl o v s := by
  show execRegisterWrite _ v s = _
  rw [Nat.add_assoc _ 0x10000 o, execRegisterWrite, regAt_chart hi (by omega) (by omega)]
  dsimp only
  rw [if_neg (by simp [hb]), if_neg (by omega), if_pos (by omega), Nat.add_sub_cancel_left]
  rfl

end

end Sys2Proof.Machine

/-! The module's registers, and those of the fabric: what the event of each does. -/

namespace Sys2Proof.Machine

open Sys2Proof

/-- A mask that keeps a field's bits keeps the field. -/
theorem fld_and {v m : W64} {lo n : Nat} (h : fld m lo n = 2 ^ n - 1) : fld (v &&& m) lo n = fld v lo n := by
  unfold fld at *
  rw [BitVec.toNat_and, ← Nat.shiftRight_eq_div_pow, Nat.shiftRight_and_distrib, Nat.and_mod_two_pow, Nat.shiftRight_eq_div_pow,
    Nat.shiftRight_eq_div_pow, h, Nat.and_two_pow_sub_one_eq_mod, Nat.mod_mod]

section

variable {s : State} {v : W64}

theorem execHostPageOwnerChange_failed (hm : s.mgt.mod.mode = 3) : execHostPageOwnerChange v s = .next s := by
  rw [execHostPageOwnerChange, if_pos hm]

theorem execHostPageOwnerChange_request (hm : s.mgt.mod.mode ≠ 3) (hb : s.mgt.mod.hpoBusy = false) :
    execHostPageOwnerChange v s
      = .next { s with mgt.mod := { s.mgt.mod with hpoPage := fld v 0 31, hpoIsl := fld v 32 5, hpoBusy := true } } := by
  simp only [execHostPageOwnerChange, if_neg hm, hb, Bool.not_false, if_true]

/-- A page that no island owns is recorded for its new owner at once. -/
theorem execHostPageOwnerChange_unowned (hm : s.mgt.mod.mode ≠ 3) (hb : s.mgt.mod.hpoBusy = true)
    (ho : s.coh.hostOwner.get 0 s.mgt.mod.hpoPage = 0) (hi : s.mgt.mod.hpoIsl < 20) :
    execHostPageOwnerChange v s = .next { s with
      mgt.mod := { s.mgt.mod with hpoBusy := false }
      coh.hostOwner := s.coh.hostOwner.put s.mgt.mod.hpoPage (s.mgt.mod.hpoIsl + 1) } := by
  simp only [execHostPageOwnerChange, if_neg hm, hb, ho, hi, Bool.not_true, Bool.false_eq_true, if_true, if_false]

theorem execCounterClear_booted {core k : Nat} (hb : s.booted = true) (hk : k < 6) :
    execCounterClear core k s = .next { s with mgt.counters := s.mgt.counters.del (core * 8 + k) } := by
  simp only [execCounterClear, hb, hk, decide_true, Bool.and_self, if_true]

/-- The limits that a write of STEER is held against (R412): it is taken, or bit 1 of FSTAT is set. -/
theorem execSteerWrite_booted {isl p : Nat} (hb : s.booted = true) (hi : isl < 20) (hp : p < 4) :
    execSteerWrite isl p v s = .next (
      if fld v 8 8 < fld v 0 8 ∨ fld v 0 8 < 16 ∨ 160 < fld v 0 8 ∨ fld v 8 8 < 16 ∨ 160 < fld v 8 8
        ∨ (s.workingColours isl).length
          < (((List.range 4).filter fun q => q ≠ p && (s.port isl q).link ≠ 0).map fun q => (s.port isl q).floor + (s.port isl q).res).sum
            + fld v 0 8 + (s.port isl p).res
      then { s with eng.fab.fstat := s.eng.fab.fstat.upd 0 isl (· ||| 2) }
      else s.setPort isl p { s.port isl p with floor := fld v 0 8, ceil := fld v 8 8 }) := by
  simp only [execSteerWrite, hb, Bool.not_true, Bool.false_or, Bool.or_eq_true, decide_eq_true_eq, or_assoc]
  rw [if_neg (by omega)]

/-- A write of the Chart that writes nothing: the island's own entry, and entries of sites that are not populated. -/
theorem execChartWrite_ignored {isl e : Nat} (h : e = isl ∨ (e < 32 ∧ s.populated e = false)) : execChartWrite isl e v s = .next s := by
  have hc : (!s.booted || !s.populated isl || decide (4096 ≤ e) || decide (e = isl) || (decide (e < 32) && !s.populated e)) = true := by
    obtain rfl | ⟨he, hp⟩ := h
    · simp
    · simp [he, hp]
  simp only [execChartWrite, hc, if_true]

/-- A Chart entry of a near id is written as it is asked for where it is not valid or its route is good; else without its V (R394, R397). -/
theorem execChartWrite_near {isl e : Nat} (hb : s.booted = true) (hi : s.populated isl = true) (hne : e ≠ isl) (he : e < 32)
    (hp : s.populated e = true) :
    execChartWrite isl e v s = .next (
      if v.getLsbD 1 = false ∨ (fld v 8 4 ≤ 8 ∧ s.routeOk e (fld v 8 4) (fld v 12 16) isl = true ∧ fld v 8 4 ≠ 0)
      then s.setChart isl e (v &&& 0xFFFFF1B)
      else { s.setChart isl e ((v &&& 0xFFFFF1B) &&& ~~~2#64) with
             eng.fab.fstat := (s.setChart isl e ((v &&& 0xFFFFF1B) &&& ~~~2#64)).eng.fab.fstat.upd 0 isl (· ||| 1) }) := by
  have h8 : fld (v &&& 0xFFFFF1B#64) 8 4 = fld v 8 4 := fld_and (by decide)
  have h12 : fld (v &&& 0xFFFFF1B#64) 12 16 = fld v 12 16 := fld_and (by decide)
  have h32 : ¬ 32 ≤ e := by omega
  have h4096 : ¬ 4096 ≤ e := by omega
  simp only [execChartWrite, hb, hi, hp, he, hne, h32, h4096, h8, h12, if_false, Bool.not_true, Bool.and_false, Bool.false_or, decide_false,
    Bool.or_self, Bool.false_eq_true, Bool.false_and]
  by_cases hc : v.getLsbD 1 = false ∨ (fld v 8 4 ≤ 8 ∧ s.routeOk e (fld v 8 4) (fld v 12 16) isl = true ∧ fld v 8 4 ≠ 0)
  · have hok : (!v.getLsbD 1 || (decide (fld v 8 4 ≤ 8) && s.routeOk e (fld v 8 4) (fld v 12 16) isl && decide (fld v 8 4 ≠ 0))) = true := by
      simpa [and_assoc] using hc
    rw [if_pos hc, if_pos hok, if_pos hok]
    rfl
  · have hok : ¬ (!v.getLsbD 1 || (decide (fld v 8 4 ≤ 8) && s.routeOk e (fld v 8 4) (fld v 12 16) isl && decide (fld v 8 4 ≠ 0))) = true := by
      simpa [and_assoc] using hc
    rw [if_neg hc, if_neg hok, if_neg hok]
    rfl

/-- A Chart entry of a far id with its bit 2 set is written as it is asked for, but in minimal mode. -/
theorem execChartWrite_far {isl e : Nat} (hb : s.booted = true) (hi : s.populated isl = true) (he : 32 ≤ e) (he' : e < 4096)
    (h2 : v.getLsbD 2 = true) (hm : s.mgt.mod.mode ≠ 2) :
    execChartWrite isl e v s = .next (s.setChart isl e (v &&& 0xFFFFF1F)) := by
  have hisl : isl < 20 := by
    simp only [State.populated, Bool.and_eq_true, decide_eq_true_eq] at hi
    exact hi.1.1
  have hne : e ≠ isl := by omega
  have h32 : ¬ e < 32 := by omega
  have h4096 : ¬ 4096 ≤ e := by omega
  simp only [execChartWrite, hb, hi, he, hne, h32, h4096, h2, hm, Bool.not_true, Bool.false_or, decide_false, Bool.false_and, Bool.false_eq_true,
    if_false, if_true, decide_true, ne_eq, not_false_eq_true, Bool.and_self, Bool.true_or]
  rfl

/-- A word of a far id's peer entry is written, its reserved bits zero (R411). -/
theorem execPeerEntryWrite_word {isl e w : Nat} (hb : s.booted = true) (hi : s.populated isl = true) (he : e + 32 < 4096) (hw : w < 4) :
    execPeerEntryWrite isl (e * 32 + w * 8) v s = .next { s with
      eng.fab.peers := s.eng.fab.peers.put ((isl * 4096 + 32 + e) * 4 + w)
        (if w < 2 then v else if w = 2 then v &&& 0xFFF00FFFFFF else 0) } := by
  have h1 : (e * 32 + w * 8) / 32 = e := by omega
  have h2 : (e * 32 + w * 8) / 8 % 4 = w := by omega
  have h3 : (e * 32 + w * 8) % 8 = 0 := by omega
  have h4 : ¬ 4096 ≤ 32 + e := by omega
  simp only [execPeerEntryWrite, hb, hi, h1, h2, h3, h4, Bool.not_true, Bool.false_or, ne_eq, not_true, decide_false, Bool.false_eq_true, if_false,
    ← Nat.add_assoc]
  rfl

theorem execColourFaultClear_booted {isl c : Nat} (hb : s.booted = true) :
    execColourFaultClear isl c s = .next (
      if (s.colour isl c).fault = true then s.setColour isl c { s.colour isl c with fault := false, cleared := some s.clock } else s) := by
  simp only [execColourFaultClear, hb, Bool.true_and]

end

end Sys2Proof.Machine

namespace Sys2Proof.Proofs

open Sys2Proof Sys2Proof.Machine

theorem moduleRegisters : Claims.ModuleRegisters := by
  intro s v core k
  refine ⟨execHostPageOwnerChange_request, fun hm hb ho hi => ?_, fun hm => ?_, fun hm => ?_, fun hb hk hwf => ?_⟩
  · refine ⟨_, execHostPageOwnerChange_unowned hm hb ho hi, rfl, Tbl.get_put_same _ _ _ _, fun j hj => ?_, rfl⟩
    exact Tbl.get_put_ne _ _ _ hj
  · refine ⟨_, congrArg Host.Outcome.next (if_neg hm), rfl, ?_, ?_, fun h1 h2 => ?_⟩
    · exact Nat.le_max_left _ _
    · show max 2000 (min 30100 (fld v 0 16)) ≤ 30100
      omega
    · show max 2000 (min 30100 (fld v 0 16)) = fld v 0 16
      omega
  · exact ⟨execHostPageOwnerChange_failed hm, congrArg Host.Outcome.next (if_pos hm)⟩
  · refine ⟨_, execCounterClear_booted hb hk, rfl, ?_, fun j hj => ?_⟩
    · exact Tbl.get_del_same _ hwf _
    · exact Tbl.get_del_ne _ _ hj

theorem fabricRegisters : Claims.FabricRegisters := by
  intro s isl v hb
  refine ⟨fun p hi hp => ⟨fun h16 hle h160 hroom => ?_, fun hbad => ?_⟩, fun e hi he he' => ?_, fun e hi he hne hp => ?_,
    execChartWrite_ignored (.inl rfl), fun e hi he he' h2 hm => execChartWrite_far hb hi he he' h2 (by omega),
    fun e w hi he hw => ⟨_, execPeerEntryWrite_word hb hi he hw, rfl, Tbl.get_put_same _ _ _ _, fun j hj => Tbl.get_put_ne _ _ _ hj⟩, 
    fun c => ⟨fun hf => ?_, fun hf => ?_⟩⟩
  · refine (execSteerWrite_booted hb hi hp).trans (congrArg _ (if_neg ?_))
    omega
  · refine (execSteerWrite_booted hb hi hp).trans (congrArg _ (if_pos ?_))
    omega
  · refine execChartWrite_ignored (.inr ⟨he', ?_⟩)
    simp only [State.populated, Bool.and_eq_false_iff, decide_eq_false_iff_not]
    omega
  · have he32 : e < 32 := by
      simp only [State.populated, Bool.and_eq_true, decide_eq_true_eq] at hp
      omega
    have hw := execChartWrite_near (v := v) hb hi hne he32 hp
    refine ⟨fun h1 => ?_, fun h1 hpos h8 hr => ?_, fun h1 hr => ?_⟩
    · exact hw.trans (congrArg _ (if_pos (.inl h1)))
    · exact hw.trans (congrArg _ (if_pos (.inr ⟨h8, hr, by omega⟩)))
    · refine ⟨_, hw.trans (congrArg _ (if_neg (by simp [h1, hr]))), ?_, ?_⟩
      · exact (congrArg (BitVec.getLsbD · 1) (Tbl.get_put_same _ _ _ _)).trans (by simp)
      · exact (congrArg (BitVec.getLsbD · 0) (Tbl.get_put_same _ _ _ _)).trans (by simp)
  · exact (execColourFaultClear_booted hb).trans (congrArg _ (if_pos hf))
  · exact (execColourFaultClear_booted hb).trans (congrArg _ (if_neg (by simp [hf])))

end Sys2Proof.Proofs

/-! What a write of a register that stands for a command does: the command's own event. -/

namespace Sys2Proof.Proofs

open Sys2Proof Sys2Proof.Machine Sys2Proof.Claims

/-- The write does what the event `i` does in the state `u`. -/
def Acts (s : State) (v : W64) (off : Nat) (i : Instr) (u : State) : Prop := ∃ t, Gives i u t ∧ Gives (.registerWrite off v) s t

section

variable {s : State} {v : W64}

/-- An event that always completes is done by a write that leaves the state after it. -/
theorem Acts.of_after {off : Nat} {i : Instr} {u t : State} (hi : exec i u = .next t)
    (hw : exec (.registerWrite off v) s = .next (after (exec i u) u)) : Acts s v off i u :=
  ⟨t, hi, by rwa [hi] at hw⟩

/-- A write of PRCTL that leaves ARMBP as it asks: the flags and ARG are stored and then the command is given. -/
theorem writePrctl_of_not_armed {p : Nat} (ha : (s.precinct p).armbp = false) :
    s.writePrctl p v = (s.setPrecinct p { s.precinct p with
      arg := BitVec.ofNat 32 (fld v 32 32), df := (s.precinct p).df && !v.getLsbD 11, err := (s.precinct p).err && !v.getLsbD 10,
      armbp := v.getLsbD 9 }).prctlCommand p v := by
  simp only [State.writePrctl, ha, Bool.false_or, Bool.false_and, Bool.false_eq_true, if_false]

/-- PRCTL's command field names the event (R391). -/
theorem Acts.of_prctlCommand {off p : Nat} {u : State} (h : exec (.registerWrite off v) s = .next (u.prctlCommand p v)) :
    ∀ c ∈ [(1, Instr.precinctHalt p), (2, .resume p), (3, .exchange p), (4, .abort p (BitVec.ofNat 32 (fld v 32 32))),
      (5, .release p (fld v 32 7) (fld v 40 6)), (6, .wake p (fld v 32 4) (BitVec.ofNat 4 (fld v 40 4)))],
      fld v 0 3 = c.1 → Acts s v off c.2 u := by
  simp only [List.forall_mem_cons, List.not_mem_nil, false_imp_iff, implies_true, and_true]
  unfold State.prctlCommand at h
  refine ⟨fun hf => ?_, fun hf => ?_, fun hf => ?_, fun hf => ?_, fun hf => ?_, fun hf => ?_⟩ <;> rw [hf] at h <;> exact .of_after rfl h

/-- CTXCMD's command field names the event (R423). -/
theorem Acts.of_writeCtxcmd {off p : Nat} (hb : (s.precinct p).ctxbusy = false)
    (h : exec (.registerWrite off v) s = .next (s.writeCtxcmd p v)) :
    ∀ c ∈ [(1, Instr.contextCreate p), (2, .contextUpdate p), (3, .contextDestroy p (BitVec.ofNat 12 (fld v 16 12)))],
      fld v 0 2 = c.1 → Acts s v off c.2 s := by
  simp only [List.forall_mem_cons, List.not_mem_nil, false_imp_iff, implies_true, and_true]
  rw [State.writeCtxcmd, hb, if_neg Bool.false_ne_true] at h
  refine ⟨fun hf => ?_, fun hf => ?_, fun hf => ?_⟩ <;> rw [hf] at h <;> exact .of_after rfl h

theorem precinctRegisters (hb : s.booted = true) {p : Nat} (hp : p < 320) :
    let at_ (off : Nat) : Nat := 0x80000 + p * 0x100 + off
    let x := s.precinct p
    Gives (.registerWrite (at_ 0x20) v) s (s.setPrecinct p { x with evbase := v })
    ∧ Gives (.registerWrite (at_ 0x30) v) s (s.setPrecinct p { x with evhead := v.setWidth 32 })
    ∧ Gives (.registerWrite (at_ 0x80) v) s (s.setPrecinct p { x with ctxaddr := v })
    ∧ (v.getLsbD 63 = true → Acts s v (at_ 8) (.precinctCreate p v) s)
    ∧ (v.getLsbD 63 = false → x.valid = true → Acts s v (at_ 8) (.precinctFree p) s)
    ∧ Acts s v (at_ 0x18) (.poolDoorbell p) s
    ∧ Acts s v (at_ 0x98) (.pfpoolWrite p v) s
    ∧ (∀ c ∈ [(1, Instr.precinctHalt p), (2, .resume p), (3, .exchange p), (4, .abort p (BitVec.ofNat 32 (fld v 32 32))),
              (5, .release p (fld v 32 7) (fld v 40 6)), (6, .wake p (fld v 32 4) (BitVec.ofNat 4 (fld v 40 4)))],
        x.armbp = false → fld v 0 3 = c.1 →
          Acts s v (at_ 0) c.2 (s.setPrecinct p { x with arg := BitVec.ofNat 32 (fld v 32 32), df := x.df && !v.getLsbD 11,
                                                         err := x.err && !v.getLsbD 10, armbp := v.getLsbD 9 }))
    ∧ ∀ c ∈ [(1, Instr.contextCreate p), (2, .contextUpdate p), (3, .contextDestroy p (BitVec.ofNat 12 (fld v 16 12)))],
        x.ctxbusy = false → fld v 0 2 = c.1 → Acts s v (at_ 0x88) c.2 s := by
  have hw (o : Nat) (ho : o < 0x100) (h8 : o % 8 = 0) := registerWrite_precinct (v := v) (regAt_precinct hp ho h8) hb
  refine ⟨hw 0x20 (by decide) rfl, hw 0x30 (by decide) rfl, hw 0x80 (by decide) rfl, fun h => .of_after rfl ?_, fun h hx => .of_after rfl ?_,
    .of_after rfl (hw 0x18 (by decide) rfl), .of_after rfl (hw 0x98 (by decide) rfl),
    fun c hc ha => .of_prctlCommand ?_ c hc, fun c hc hx => .of_writeCtxcmd hx (hw 0x88 (by decide) rfl) c hc⟩
  · exact (hw 8 (by decide) rfl).trans (congrArg _ (if_pos h))
  · exact (hw 8 (by decide) rfl).trans (congrArg _ ((if_neg (h ▸ Bool.false_ne_true)).trans (if_pos hx)))
  · exact (hw 0 (by decide) rfl).trans (congrArg _ (writePrctl_of_not_armed ha))

theorem queueRegisters (hb : s.booted = true) {p q : Nat} (hp : p < 320) (hq : q < 64) :
    let at_ (off : Nat) : Nat := 0x100000 + p * 0x1000 + q * 0x20 + off
    Acts s v (at_ 0) (.queueBaseWrite (p * 64 + q) v) s
    ∧ Acts s v (at_ 8) (.queueControlWrite (p * 64 + q) v) s
    ∧ Acts s v (at_ 0x18) (.queueDoorbell (p * 64 + q) v) s := by
  have hw (o : Nat) (ho : o < 0x20) (h8 : o % 8 = 0) := registerWrite_queue (v := v) (regAt_queue hp hq ho h8) hb
  exact ⟨.of_after rfl (hw 0 (by decide) rfl), .of_after rfl (hw 8 (by decide) rfl), .of_after rfl (hw 0x18 (by decide) rfl)⟩

theorem islandRegisters (hb : s.booted = true) {isl : Nat} (hpop : s.populated isl = true) (hi : isl < 20) :
    let island (off : Nat) : Nat := 0x1000000 + isl * 0x10000 + off
    (v.getLsbD 0 = true → s.mgt.dhalt.get false isl = false → Acts s v (island 0) (.debugHalt isl) s)
    ∧ (v.getLsbD 0 = false → Acts s v (island 0) (.debugHaltClear isl) s)
    ∧ (∀ p, p < 4 → Acts s v (island (0x140 + 8 * p)) (.steerWrite isl p v) s)
    ∧ (∀ c k, c < 128 → k < 8 → Acts s v (island (0x400 + c * 0x40 + k * 8)) (.counterClear (isl * 128 + c) k) s)
    ∧ ∀ c, c < 256 → v.getLsbD 4 = true → Acts s v (island (0x4000 + 8 * c)) (.colourFaultClear isl c) s := by
  have hn : ¬ (!s.populated isl) = true := by simp [hpop]
  have hw (o : Nat) (ho : o < 0x10000) (h8 : o % 8 = 0) := registerWrite_island (v := v) (regAt_island hi ho h8) hb
  refine ⟨fun h hd => .of_after rfl ((hw 0 (by decide) rfl).trans (congrArg _ ?_)), fun h => .of_after rfl ((hw 0 (by decide) rfl).trans (congrArg _ ?_)),
    fun p hp => .of_after rfl ((hw _ (by omega) (by omega)).trans (congrArg _ ?_)),
    fun c k hc hk => .of_after rfl ((hw _ (by omega) (by omega)).trans (congrArg _ ?_)),
    fun c hc h => .of_after rfl ((hw _ (by omega) (by omega)).trans (congrArg _ ?_))⟩ <;> rw [State.writeIsland, if_neg hn]
  · rw [if_pos rfl, if_pos h, hd, if_neg Bool.false_ne_true]
    rfl
  · rw [if_pos rfl, h, if_neg Bool.false_ne_true]
    rfl
  · have hp' : (0x140 + 8 * p - 0x140) / 8 = p := by omega
    simp only [Bool.and_eq_true, decide_eq_true_eq]
    rw [if_neg (by omega), if_pos (by omega), hp']
    rfl
  · have hc' : (0x400 + c * 0x40 + k * 8 - 0x400) / 0x40 = c := by omega
    have hk' : (0x400 + c * 0x40 + k * 8 - 0x400) % 0x40 / 8 = k := by omega
    simp only [Bool.and_eq_true, decide_eq_true_eq]
    rw [if_neg (by omega), if_neg (by omega), if_neg (by omega), if_neg (by omega), if_pos (by omega), hc', hk']
    rfl
  · have hc' : (0x4000 + 8 * c - 0x4000) / 8 = c := by omega
    simp only [Bool.and_eq_true, decide_eq_true_eq]
    rw [if_neg (by omega), if_neg (by omega), if_neg (by omega), if_neg (by omega), if_neg (by omega), if_pos ⟨by omega, h⟩, hc']
    rfl

theorem moduleWrites (hm : s.mgt.mod.mode ≠ 3) :
    Acts s v 8 (.pwrcapWrite v) s ∧ (s.mgt.mod.hpoBusy = false → Acts s v 0x18 (.hostPageOwnerChange v) s) := by
  refine ⟨.of_after rfl (registerWrite_module rfl hm), fun h => .of_after (execHostPageOwnerChange_request hm h) ?_⟩
  exact (registerWrite_module rfl hm).trans (congrArg _ (if_neg (h ▸ Bool.false_ne_true)))

end

theorem registerWriteActs : Claims.RegisterWriteActs := by
  intro s v hb
  refine ⟨fun p hp => precinctRegisters hb hp, fun p q hp hq => queueRegisters hb hp hq, fun isl hpop hi => islandRegisters hb hpop hi,
    fun isl hi => ⟨fun e he => ?_, fun o ho h8 => ?_⟩, fun hm => (moduleWrites hm).1, fun hm => (moduleWrites hm).2, fun off h => ?_⟩
  · exact ⟨_, rfl, registerWrite_chart hi he hb⟩
  · exact ⟨_, rfl, registerWrite_peer hi ho h8 hb⟩
  · rcases h with h8 | ⟨hlo, hhi⟩
    · exact registerWrite_none (regAt_unaligned h8)
    · exact registerWrite_none (regAt_gap hlo hhi)

/-- Settles O45: each register's event by its own equation, and a write of BAR0 by the register that stands at its offset. -/
theorem hostRegisters : Obligations.HostRegisters := ⟨moduleRegisters, fabricRegisters, registerWriteActs⟩

end Sys2Proof.Proofs

/-! A step runs the decoded word (O55): what the agent whose turn it is issues, and where a word comes from. -/

namespace Sys2Proof.Memory

open Sys2Proof

/-- Each byte of a number read from memory, lowest first (R13). -/
theorem readN_byte {m : List Host.Cell} {k : Nat} : ∀ {n a : Nat}, k < n → readN m a n / 2 ^ (8 * k) % 256 = (read m (a + k)).toNat := by
  induction k with
  | zero =>
    intro n a h
    obtain ⟨n, rfl⟩ : ∃ j, n = j + 1 := ⟨n - 1, by omega⟩
    have hlt := (read m a).isLt
    rw [readN, Nat.mul_zero, Nat.pow_zero, Nat.div_one, Nat.add_mul_mod_self_left, Nat.mod_eq_of_lt hlt, Nat.add_zero]
  | succ k ih =>
    intro n a h
    obtain ⟨n, rfl⟩ : ∃ j, n = j + 1 := ⟨n - 1, by omega⟩
    have hlt := (read m a).isLt
    have hdiv : readN m a (n + 1) / 256 = readN m (a + 1) n := by
      rw [readN]
      omega
    calc readN m a (n + 1) / 2 ^ (8 * (k + 1)) % 256
        = readN m (a + 1) n / 2 ^ (8 * k) % 256 := by
          rw [Nat.mul_succ, Nat.add_comm (8 * k), Nat.pow_add, ← Nat.div_div_eq_div_mul, ← hdiv]
      _ = (read m (a + (k + 1))).toNat := by rw [ih (by omega), Nat.add_right_comm, Nat.add_assoc]

/-- A word's bytes are those of memory. -/
theorem extract_readN {m : List Host.Cell} {a k : Nat} (h : k < 8) :
    (BitVec.ofNat 64 (readN m a 8)).extractLsb' (8 * k) 8 = read m (a + k) := by
  apply BitVec.eq_of_toNat_eq
  rw [BitVec.extractLsb'_toNat, BitVec.toNat_ofNat, Nat.shiftRight_eq_div_pow, ← readN_byte h]
  have h64 : (2 : Nat) ^ 64 = 2 ^ (8 * k) * 2 ^ (64 - 8 * k) := by rw [← Nat.pow_add]; congr 1; omega
  rw [h64, Nat.mod_mul_right_div_self, Nat.mod_mod_of_dvd]
  exact Nat.pow_dvd_pow 2 (by omega : 8 ≤ 64 - 8 * k)

end Sys2Proof.Memory

namespace Sys2Proof.Machine

open Sys2Proof

section

variable {s s1 s2 : State}

/-! Which step it is. -/

theorem step_agent {a : Agent} (h : s.pick = .agent a) : step s = runAgent (s.forAgent a) := by rw [step, h]

theorem step_event {i : Instr} (h : s.pick = .event i) : step s = exec i s.tick := by rw [step, h]

theorem step_outside {i : Instr} (h : s.pick = .outside i) : step s = exec i { s with inbox := s.inbox.drop 1 }.tick := by rw [step, h]

/-- An agent whose look gives an instruction executes it. -/
theorem runAgent_of_look {i : Instr} (h : s.look = (s1, some i)) : runAgent s = exec i s1.takeBay := by
  rw [runAgent, State.issue, h]

/-- An agent whose look gives none does no more than that. -/
theorem runAgent_of_look_none (h : s.look = (s1, none)) : runAgent s = .next s1 := by
  rw [runAgent, State.issue, h]

namespace State

/-! Within a clause. -/

theorem takeBay_pilot (h : s.pilot = true) : s.takeBay = s := by
  rw [takeBay, h, Bool.true_or, Bool.true_or, if_pos rfl]

theorem noteWindow_closed {i : Instr} (h : s.frag.window = none) : s.noteWindow i = s := by
  unfold noteWindow
  simp only [h]

theorem look_within (hpos : s.ctl.cpos ≠ 0) (hrun : s.pilot = true ∨ s.frag.run ≠ 0) : s.look = s.issueWord := by
  rw [look, if_neg hpos, if_pos (by simpa using hrun)]

/-- A Pilot's word that passes the checks issues. -/
theorem issueWord_pilot {ws : List W64} {i : Instr} (hf : s.fetchHere = (s1, .ok ws))
    (hd : decodeWord s1.pilot (ws.getD s1.ctl.cpos 0) (ws.getD (s1.ctl.cpos + 1) 0) = .ok i) (hp : s1.placed i = true) (hpi : s1.pilot = true) :
    s.issueWord = (s1, some i) := by
  rw [hpi] at hd
  simp only [issueWord, hf, hd, hp, hpi, Bool.not_true, Bool.false_eq_true, if_false, if_true]

/-- A fragment's word that passes the checks issues when no operation and no window holds it back. -/
theorem issueWord_core {ws : List W64} {i : Instr} (hf : s.fetchHere = (s1, .ok ws))
    (hd : decodeWord s1.pilot (ws.getD s1.ctl.cpos 0) (ws.getD (s1.ctl.cpos + 1) 0) = .ok i) (hp : s1.placed i = true) (hpi : s1.pilot = false)
    (ha : s1.frag.acquire = none)
    (hc : conflict s1.crew s1.frag.mask (namedRegs false s1.frag.ctl.sup i).1 (namedRegs false s1.frag.ctl.sup i).2 = false)
    (hw : (s1.frag.window.any fun w => !windowAdmits i || (decide (64 ≤ w.count) && !w.tried)) = false) :
    s.issueWord = (s1.noteWindow i, some i) := by
  rw [hpi] at hd
  simp only [issueWord, hf, hpi, hd, hp, ha, hc, hw, Option.any_none, Bool.not_true, Bool.false_eq_true, if_false]

/-! At a clause boundary. -/

theorem look_header (hpos : s.ctl.cpos = 0) : s.look = s.issueHeader := by rw [look, if_pos hpos]

/-- Outside a window a fault before issue moors the agent. -/
theorem deny_open {c : Byte} {addr fpte : Option W64} (h : s.pilot = true ∨ s.frag.window = none) : s.deny c addr fpte = s.moorAll c addr fpte := by
  rw [deny, if_neg]
  rcases h with h | h <;> simp [h]

theorem issueHeader_past (hpast : s.ctl.past = true) (h : s.pilot = true ∨ s.frag.window = none) :
    s.issueHeader = (s.moorAll 2 (some (BitVec.ofNat 64 (2 ^ 52))) (some 0), none) := by
  rw [issueHeader, if_pos hpast, deny_open h]

/-- A header whose clause is fetched whole issues with the words of its clause (R33). -/
theorem issueHeader_fetched {ws code : List W64} {h : Header} (hpast : s.ctl.past = false) (hwin : s.pilot = true ∨ s.frag.window = none)
    (hf : s.fetchWords s.ctl.pc.toNat 1 = (s1, .ok ws)) (hd : decodeHeader (ws.headD 0) = .ok h) (hh : h.hold = false)
    (hc : s1.fetchClause s.ctl.pc.toNat (ws.headD 0) (h.len.toNat + 1) = (s2, .ok code)) :
    s.issueHeader = (s2.setCtl { s2.ctl with code := code }, some (.clauseHeader h)) := by
  have hj : (!s.pilot && s.frag.window.isSome && s.joinDue) = false := by rcases hwin with h | h <;> simp [h]
  simp only [issueHeader, hpast, hj, hf, hd, hh, hc, Bool.false_and, Bool.false_eq_true, if_false]

/-- A fault of any word of the clause moors the agent at its header (R33). -/
theorem issueHeader_fault {ws : List W64} {h : Header} {c : Byte} {va f : W64} (hpast : s.ctl.past = false)
    (hwin : s.pilot = true ∨ s.frag.window = none)
    (hf : s.fetchWords s.ctl.pc.toNat 1 = (s1, .ok ws)) (hd : decodeHeader (ws.headD 0) = .ok h) (hh : h.hold = false)
    (hc : s1.fetchClause s.ctl.pc.toNat (ws.headD 0) (h.len.toNat + 1) = (s2, .fault c va f)) (hwin2 : s2.pilot = true ∨ s2.frag.window = none) :
    s.issueHeader = (s2.moorAll c (some va) (some f), none) := by
  have hj : (!s.pilot && s.frag.window.isSome && s.joinDue) = false := by rcases hwin with h | h <;> simp [h]
  simp only [issueHeader, hpast, hj, hf, hd, hh, hc, Bool.false_and, Bool.false_eq_true, if_false, deny_open hwin2]

/-! Where a word comes from. -/

/-- A line of code is sixteen words, each the eight bytes of memory at its place (R13). -/
theorem lineOfCode_words {isl l ca : Nat} {ws : List W64} (h : s.lineOfCode isl l ca = (s2, some ws)) :
    ws = (List.range 16).map fun i => BitVec.ofNat 64 (Memory.readN s2.mem (l / 128 * 128 + 8 * i) 8) := by
  unfold lineOfCode at h
  dsimp only at h
  split at h
  · cases h
    rfl
  · cases h

/-- A word fetched anew is taken from the line at its translated address. -/
theorem codeOf_fresh {stamp va l ca : Nat} {ws : List W64} (hp : s.parkWait = false)
    (hr : s.resolve s.me (BitVec.ofNat 64 va) 8 .fetch = (s1, .pa l ca)) (hb : s1.unpark.badLine l = false)
    (hl : s1.unpark.lineOfCode s.me.isl l ca = (s2, some ws)) :
    (s.codeOf true stamp va 1).2 = .ok ((ws.drop (va % 128 / 8)).take 1) := by
  unfold codeOf
  extract_lets w take
  rw [hr, if_neg (hp ▸ Bool.false_ne_true)]
  dsimp only
  rw [Bool.true_or, if_pos rfl]
  dsimp only
  rw [if_neg (hb ▸ Bool.false_ne_true), hl]

end State

end

end Sys2Proof.Machine

namespace Sys2Proof.Proofs

open Sys2Proof Sys2Proof.Machine Sys2Proof.Machine.State

/-- Settles O55: by what the agent whose turn it is issues, and by where a line of code is read. -/
theorem stepRunsTheWord : Obligations.StepRunsTheWord := by
  refine ⟨fun s s1 a ws i hpick hpos hrun hf hd hp => ?_, fun s s1 s2 a ws h hpick hpos hpast hwin hf hd hh => ⟨fun code hc => ?_, fun c va f hc hwin2 => ?_⟩,
    fun s a hpick hpos hpast hwin => ?_, fun s i => step_event, fun s i => step_outside, fun s s1 s2 stamp va l ca ws => codeOf_fresh,
    fun s s2 isl l ca ws h => ?_⟩
  · have hstep := step_agent hpick
    have hlook := look_within hpos hrun
    refine ⟨fun hpi => ?_, fun hpi ha hc => ⟨fun hw => ?_, fun x hw hadm hcount => ?_⟩⟩
    · rw [hstep, runAgent_of_look (hlook.trans (issueWord_pilot hf hd hp hpi)), takeBay_pilot hpi]
    · have hi := issueWord_core hf hd hp hpi ha hc (by rw [hw, Option.any_none])
      rw [hstep, runAgent_of_look (hlook.trans hi), noteWindow_closed hw]
    · have hi := issueWord_core hf hd hp hpi ha hc (by simp [hw, hadm, Nat.not_le.2 hcount])
      rw [hstep, runAgent_of_look (hlook.trans hi)]
  · rw [step_agent hpick, runAgent_of_look ((look_header hpos).trans (issueHeader_fetched hpast hwin hf hd hh hc))]
  · rw [step_agent hpick, runAgent_of_look_none ((look_header hpos).trans (issueHeader_fault hpast hwin hf hd hh hc hwin2))]
  · rw [step_agent hpick, runAgent_of_look_none ((look_header hpos).trans (issueHeader_past hpast hwin))]
  · have hws := lineOfCode_words h
    refine ⟨by rw [hws, List.length_map, List.length_range], fun i k hi hk => ?_⟩
    have hget : ws.getD i 0 = BitVec.ofNat 64 (Memory.readN s2.mem (l / 128 * 128 + 8 * i) 8) := by
      rw [hws, List.getD_eq_getElem?_getD, List.getElem?_map, List.getElem?_range hi]
      rfl
    rw [hget, Memory.extract_readN hk]

end Sys2Proof.Proofs

/-! Addresses (O16): what an address is and the order of its tests. -/

namespace Sys2Proof.Machine

open Sys2Proof

/-- A field of one bit is that bit. -/
theorem fld_one (v : W64) (k : Nat) : fld v k 1 = (v.getLsbD k).toNat := by
  rw [fld, BitVec.getLsbD, Nat.testBit_eq_decide_div_mod_eq]
  have h := Nat.mod_two_eq_zero_or_one (v.toNat / 2 ^ k)
  rcases h with h | h <;> simp [h]

theorem fld_one_eq_zero {v : W64} {k : Nat} : fld v k 1 = 0 ↔ v.getLsbD k = false := by
  rw [fld_one, Bool.toNat_eq_zero]

theorem fld_one_eq_one {v : W64} {k : Nat} : fld v k 1 = 1 ↔ v.getLsbD k = true := by
  rw [fld_one, Bool.toNat_eq_one]

namespace State

section

variable {s : State} {w : Who} {a : W64} {width : Nat} {k : AKind}

/-! The sum that an address is (R285). -/

theorem ea_eq_sum {x : MI} {atom : Bool} {v : W64} {L : Nat} :
    s.ea x atom v L = s.v64 v none x.a L + BitVec.ofInt 64 x.ofs.toInt
      + if x.os && !atom then BitVec.ofInt 64 (s.u32 v none x.x).toInt else 0 := by
  unfold ea v64
  cases x.a <;> rfl

theorem ea_unscaled {x : MI} {v : W64} {L : Nat} (h : x.os = false) :
    s.ea x false v L = s.v64 v none x.a L + BitVec.ofInt 64 x.ofs.toInt := by
  rw [ea_eq_sum, h, Bool.false_and, if_neg Bool.false_ne_true]
  exact BitVec.add_zero _

theorem ea_scaled {x : MI} {v : W64} {L : Nat} (h : x.os = true) :
    s.ea x false v L = s.v64 v none x.a L + BitVec.ofInt 64 x.ofs.toInt + BitVec.ofInt 64 (s.u32 v none x.x).toInt := by
  rw [ea_eq_sum, h, Bool.not_false, Bool.and_self, if_pos rfl]

/-- An atomic's X is no part of its address. -/
theorem ea_atomic {x : MI} {v : W64} {L : Nat} : s.ea x true v L = s.v64 v none x.a L + BitVec.ofInt 64 x.ofs.toInt := by
  rw [ea_eq_sum, Bool.not_true, Bool.and_false, if_neg Bool.false_ne_true]
  exact BitVec.add_zero _

/-! The tests of an address, in their order (R24). -/

theorem resolve_beyond (h : 2 ^ 52 ≤ a.toNat) : s.resolve w a width k = (s, .fault 2 0) := by
  rw [resolve, if_pos h]

theorem resolve_unaligned (hr : a.toNat < 2 ^ 52) (h : a.toNat % width ≠ 0) : s.resolve w a width k = (s, .fault 3 0) := by
  rw [resolve, if_neg (Nat.not_le.2 hr), if_pos h]

theorem resolve_guard (ha : a.toNat % width = 0) (h : a.toNat < 0x10000) : s.resolve w a width k = (s, .fault 1 0) := by
  rw [resolve, if_neg (by omega), if_neg (fun hne => hne ha), if_pos h]

theorem resolve_global (hr : a.toNat < 2 ^ 52) (ha : a.toNat % width = 0) (hg : 0x10000 ≤ a.toNat)
    (h : s.apHit w a.toNat [0, 1, 2, 3, 4, 5] = none) : s.resolve w a width k = s.translate w a.toNat k := by
  rw [resolve, if_neg (Nat.not_le.2 hr), if_neg (fun hne => hne ha), if_neg (Nat.not_lt.2 hg), h]

/-- An access that its aperture admits is held against the aperture's bound. -/
theorem resolve_aperture {p base : Nat} (hr : a.toNat < 2 ^ 52) (ha : a.toNat % width = 0) (hg : 0x10000 ≤ a.toNat)
    (h : s.apHit w a.toNat [0, 1, 2, 3, 4, 5] = some (p, base)) (hu : w.sup = true ∨ (s.apReg w p).getLsbD 1 = true)
    (hk : apAdmits w p k = true) :
    s.resolve w a width k = if a.toNat - base + width ≤ s.apLimit w p then (s, .space p (a.toNat - base) (s.apLimit w p)) else (s, .fault 7 0) := by
  have hmode : (!w.sup && decide (fld (s.apReg w p) 1 1 = 0)) = false := by
    rcases hu with h | h <;> simp [h, fld_one_eq_zero]
  simp only [resolve, if_neg (Nat.not_le.2 hr), if_neg (Nat.not_lt.2 hg), ne_eq, ha, not_true, h, hmode, hk, Bool.not_true,
    Bool.false_eq_true, if_false]
  by_cases hl : a.toNat - base + width ≤ s.apLimit w p
  · rw [if_pos hl, if_neg (Nat.not_lt.2 hl)]
  · rw [if_neg hl, if_pos (Nat.not_le.1 hl)]

end

end State

end Sys2Proof.Machine

namespace Sys2Proof.Proofs

open Sys2Proof Sys2Proof.Machine Sys2Proof.Machine.State

theorem effectiveAddress : Claims.EffectiveAddress := by
  intro x s w L
  refine ⟨fun n ha hos => ?_, fun n ha hos => ?_, fun n ha hos => ?_, fun n m ha hx hos => ?_, ?_⟩
  · rw [ea_unscaled hos, ha]
    rfl
  · rw [ea_unscaled hos, ha]
    rfl
  · rw [ea_unscaled hos, ha]
    rfl
  · rw [ea_scaled hos, ha, hx]
    rfl
  · rw [ea_atomic, ea_unscaled rfl]

theorem addressTests : Claims.AddressTests := fun _ _ _ _ _ _ =>
  ⟨resolve_beyond, resolve_unaligned, resolve_guard, resolve_global, fun _ _ => resolve_aperture⟩

/-- Settles O16: by the value of the address computation for each form of base, and by the tests of an address in their order. -/
theorem addresses : Obligations.Addresses := ⟨effectiveAddress, addressTests⟩

end Sys2Proof.Proofs

/-! Apertures (O17): which aperture takes an address, and a write of an aperture register. -/

namespace Sys2Proof.Machine

open Sys2Proof Sys2Proof.Claims

namespace State

section

variable {s : State} {w : Who} {va : Nat}

/-- The test of an aperture: it is enabled and one of its regions holds the address (R19, R21). -/
def apHolds (s : State) (w : Who) (va k : Nat) : Bool :=
  fld (s.apReg w k) 0 1 = 1 && fld (s.apReg w k) 23 29 ≤ va / 2 ^ 23 && va / 2 ^ 23 < fld (s.apReg w k) 23 29 + apRegions k

/-- The base of an aperture. -/
def apBase (s : State) (w : Who) (k : Nat) : Nat := fld (s.apReg w k) 23 29 * 2 ^ 23

theorem apHit_eq_find (ks : List Nat) : s.apHit w va ks = (ks.find? (s.apHolds w va)).map fun k => (k, s.apBase w k) := by
  induction ks with
  | nil => rfl
  | cons k ks ih =>
    rw [apHit, List.find?_cons]
    cases h : s.apHolds w va k with
    | true => exact if_pos h
    | false => exact (if_neg (Bool.not_eq_true _ ▸ h)).trans ih

theorem apRegions_eq (k : Nat) : apRegions k = InAperture.apRegionCount k := by
  unfold apRegions InAperture.apRegionCount
  split
  · rfl
  · rfl
  · next h3 h4 => rw [if_neg h3, if_neg h4]

theorem apHolds_iff {k : Nat} : s.apHolds w va k = true ↔ InAperture s w k va := by
  simp only [apHolds, InAperture, Bool.and_eq_true, decide_eq_true_eq, fld_one_eq_one, apRegions_eq, and_assoc,
    Nat.le_div_iff_mul_le (Nat.two_pow_pos 23), Nat.div_lt_iff_lt_mul (Nat.two_pow_pos 23), Nat.add_mul]

/-- The first aperture of the order that holds an address takes it (R21). -/
theorem apHit_eq_some {k base : Nat} : s.apHit w va [0, 1, 2, 3, 4, 5] = some (k, base) ↔
    k < 6 ∧ InAperture s w k va ∧ base = s.apBase w k ∧ ∀ j, j < k → ¬ InAperture s w j va := by
  rw [apHit_eq_find, Option.map_eq_some_iff]
  show (∃ i, (List.range 6).find? _ = some i ∧ _) ↔ _
  simp only [List.find?_range_eq_some, Prod.mk.injEq, List.mem_range, Bool.not_eq_true', ← Bool.not_eq_true, apHolds_iff]
  constructor
  · rintro ⟨i, ⟨hi, h6, hlow⟩, rfl, rfl⟩
    exact ⟨h6, hi, rfl, hlow⟩
  · rintro ⟨h6, hk, rfl, hlow⟩
    exact ⟨k, ⟨hk, h6, hlow⟩, rfl, rfl⟩

theorem apHit_eq_none : s.apHit w va [0, 1, 2, 3, 4, 5] = none ↔ ∀ k, k < 6 → ¬ InAperture s w k va := by
  rw [apHit_eq_find, Option.map_eq_none_iff]
  show (List.range 6).find? _ = none ↔ _
  simp only [List.find?_range_eq_none, Bool.not_eq_true', ← Bool.not_eq_true, apHolds_iff]

end

end State

/-! SYSRD and SYSWR (R340). -/

@[simp] theorem State.ctx_setCtx_same (s : State) (i n : Nat) (c : Ctx) : (s.setCtx i n c).ctx i n = c := Tbl.get_put_same _ _ _ _

theorem State.ctx_setCtx_ne {s : State} {i n m : Nat} {c : Ctx} (h : m ≠ n) : (s.setCtx i n c).ctx i m = s.ctx i m :=
  Tbl.get_put_ne _ _ _ (by omega)

section

variable {x : II} {s : State}

/-- An operand that names no walker leaves the state. -/
theorem State.walk_none {os : List Opnd} (h : oneWalker os = none) : s.walk os = (0, s) := by
  rw [State.walk, h]

/-- The value that SYSWR takes from its operand: a 64-bit one, or 32 bits extended with zeros. -/
def syswrValue (x : II) (w : W64) (s : State) : W64 := if x.sub.getLsbD 1 then s.u64 w none x.a else (s.u32 w none x.a).setWidth 64

theorem syswr_skips (hg : (s.walk [x.a]).2.qguard x.guard = false) : exec (.syswr x) s = .next ((s.walk [x.a]).2.advance 1) := by
  show execSyswr x s = _
  simp only [execSyswr, hg, Bool.not_false, if_true]

theorem syswr_denied (hg : (s.walk [x.a]).2.qguard x.guard = true) (hi : State.supOnly (x.imm.extractLsb' 0 10).toNat = true)
    (hu : (s.walk [x.a]).2.sup = false) : exec (.syswr x) s = .next ((s.walk [x.a]).2.moorAll 0x11 none) := by
  show execSyswr x s = _
  simp only [execSyswr, hg, hi, hu, Bool.not_true, Bool.not_false, Bool.and_self, Bool.false_eq_true, if_false, if_true]

theorem supOnly_allowed {i : Nat} (h : State.supOnly i = false ∨ s.sup = true) : (State.supOnly i && !s.sup) = false := by
  rcases h with h | h <;> simp [h]

theorem syswr_writes (hg : (s.walk [x.a]).2.qguard x.guard = true)
    (hu : State.supOnly (x.imm.extractLsb' 0 10).toNat = false ∨ (s.walk [x.a]).2.sup = true) :
    exec (.syswr x) s = .next (((s.walk [x.a]).2.sysWrite (x.imm.extractLsb' 0 10).toNat
      (syswrValue x (s.walk [x.a]).1 (s.walk [x.a]).2)).advance 1) := by
  show execSyswr x s = _
  simp only [execSyswr, hg, supOnly_allowed hu, Bool.not_true, Bool.false_eq_true, if_false]
  rfl

end

/-- A write of an aperture register: the value through its defined bits, whatever the others hold; what it held is kept for accesses of other
crews (R21, R34, R35). -/
theorem State.sysWrite_aperture {s : State} {k : Nat} (v : W64) (h : k < 6) :
    s.sysWrite (0x040 + k) v = s.setCtx s.me.isl s.me.spn
      { keepOld (s.ctx s.me.isl s.me.spn) k s.me.wid ((s.ctx s.me.isl s.me.spn).aps.get 0 k) with
        aps := (s.ctx s.me.isl s.me.spn).aps.put k (v &&& apMask k) } := by
  simp only [State.sysWrite, Bool.and_eq_true, decide_eq_true_eq]
  rw [if_pos (by omega), Nat.add_sub_cancel_left]
  rfl

theorem State.apMask_eq (k : Nat) : apMask k = if k = 3 then 0xFFFFFFC000003 else if k = 4 then 0xFFFFFFE000003 else 0xFFFFFFF800003 := by
  unfold State.apMask
  split
  · rfl
  · rfl
  · next h3 h4 => rw [if_neg h3, if_neg h4]

end Sys2Proof.Machine

namespace Sys2Proof.Proofs

open Sys2Proof Sys2Proof.Machine Sys2Proof.Machine.State

/-- Settles O17: the search of the apertures finds the first that holds the address, and a write of an aperture register changes that one alone. -/
theorem apertureOrder : Obligations.ApertureOrder := by
  refine ⟨fun s w va k base => apHit_eq_some, fun s w va => apHit_eq_none, fun x s k v n hk hg hsup ha hw hi hv => ?_⟩
  have hwalk : s.walk [x.a] = (0, s) := walk_none (by rw [ha]; rfl)
  have hval : syswrValue x 0 s = v := by rw [syswrValue, if_pos hw, ha, hv]; rfl
  have hrun := syswr_writes (x := x) (s := s) (by rw [hwalk]; exact hg) (.inr (by rw [hwalk]; exact hsup))
  rw [hwalk, hval, hi, sysWrite_aperture v hk] at hrun
  refine ⟨_, hrun, ?_, fun j hj => ?_⟩
  · rw [ctx_setCtx_same, ← apMask_eq]
    exact Tbl.get_put_same _ _ _ _
  · rw [ctx_setCtx_same]
    exact Tbl.get_put_ne _ _ _ hj

end Sys2Proof.Proofs

/-! System registers (O29): what SYSRD writes, and what the registers hold. -/

namespace Sys2Proof

/-- A change of a table's entries that leaves the keys and one field of the values alone leaves that field of what each key holds. -/
theorem Tbl.get_map_field {α β : Type} (f : α → β) {g : Nat × α → Nat × α} (hk : ∀ e, (g e).1 = e.1) (hf : ∀ e, f (g e).2 = f e.2) (d : α)
    (t : Tbl α) (k : Nat) : f (Tbl.get d (t.map g) k) = f (t.get d k) := by
  induction t with
  | nil => rfl
  | cons e t ih =>
    rw [List.map_cons, Tbl.get, Tbl.get, hk]
    split
    · exact hf e
    · exact ih

end Sys2Proof

namespace Sys2Proof.Machine

open Sys2Proof

section

variable {x : II} {s : State}

/-- What SYSRD leaves once its destination is written: each lane's free values are used up. -/
def sysrdDone (t : State) : State := { t with choices := t.choices + 32 }.advance 1

theorem sysrd_skips (hg : s.qguard x.guard = false) : exec (.sysrd x) s = .next (s.advance 1) := by
  show execSysrd x s = _
  simp only [execSysrd, hg, Bool.not_false, if_true]

theorem sysrd_denied (hg : s.qguard x.guard = true) (hi : State.supOnly (x.imm.extractLsb' 0 10).toNat = true) (hu : s.sup = false) :
    exec (.sysrd x) s = .next (s.deny 0x11 none) := by
  show execSysrd x s = _
  simp only [execSysrd, hg, hi, hu, Bool.not_true, Bool.not_false, Bool.and_self, Bool.false_eq_true, if_false, if_true]

/-- A fault before issue waits for the window to close (R126, R128). -/
theorem State.deny_window {c : Byte} {addr fpte : Option W64} (hp : s.pilot = false) (hw : s.frag.window ≠ none) :
    s.deny c addr fpte = s.stall 5 .window := by
  rw [State.deny, hp, Option.isSome_iff_ne_none.2 hw]
  rfl

theorem sysrd_scalar {n : BitVec 7} (hg : s.qguard x.guard = true)
    (hu : State.supOnly (x.imm.extractLsb' 0 10).toNat = false ∨ s.sup = true) (hd : x.d = .s n) :
    exec (.sysrd x) s = .next (sysrdDone (
      if x.sub.getLsbD 1 then s.wrS64 x.d (s.sysRead (x.imm.extractLsb' 0 10).toNat 0)
      else s.wrS x.d ((s.sysRead (x.imm.extractLsb' 0 10).toNat 0).extractLsb' 0 32))) := by
  show execSysrd x s = _
  simp only [execSysrd, hg, supOnly_allowed hu, hd, Bool.not_true, Bool.false_eq_true, if_false, sysrdDone]

theorem sysrd_vector {n : BitVec 8} (hg : s.qguard x.guard = true)
    (hu : State.supOnly (x.imm.extractLsb' 0 10).toNat = false ∨ s.sup = true) (hd : x.d = .v n) :
    exec (.sysrd x) s = .next (sysrdDone (
      if x.sub.getLsbD 1 then s.wrV64 n.toNat s.lanes fun L => s.sysRead (x.imm.extractLsb' 0 10).toNat L
      else s.wrV n.toNat s.lanes fun L => (s.sysRead (x.imm.extractLsb' 0 10).toNat L).extractLsb' 0 32)) := by
  show execSysrd x s = _
  simp only [execSysrd, hg, supOnly_allowed hu, hd, Bool.not_true, Bool.false_eq_true, if_false, sysrdDone]

end

namespace State

section

variable {s : State} {L i : Nat} {v : W64}

/-! The current fragment as the maker of an access. -/

theorem cluster_of_core (hp : s.pilot = false) : s.cluster = s.core / 8 := by
  unfold pilot at hp
  unfold cluster core
  cases h : s.cur with
  | frag c e => rfl
  | pilot k t => simp [h] at hp

theorem me_of_crew (hp : s.pilot = false) : s.me = s.crewWho s.ckey s.sup := by
  rw [me, hp, if_neg Bool.false_ne_true]

theorem ckey_div (hc : s.frag.crew < 64) : s.ckey / 64 = s.core := by
  unfold ckey
  omega

theorem me_isl (hp : s.pilot = false) (hc : s.frag.crew < 64) : s.me.isl = s.isl := by
  rw [me_of_crew hp, isl, cluster_of_core hp, Nat.div_div_eq_div_mul]
  exact congrArg (· / 128) (ckey_div hc)

theorem me_spn (hp : s.pilot = false) (hc : s.frag.crew < 64) : s.me.spn = s.spn := by
  rw [me_of_crew hp, spn, hp, if_neg Bool.false_ne_true]
  show s.spnOfGang (s.gangAt (s.ckey / 64 * 16 + s.crew.gang)) = _
  rw [ckey_div hc]
  rfl

/-! Reads (R34). -/

theorem uni_of_crew (hp : s.pilot = false) : s.uni = s.crew.uni := if_neg (hp ▸ Bool.false_ne_true)

/-- A register that only a core has. -/
theorem core_register (hp : s.pilot = false) (w : W64) : (if s.pilot then 0 else w) = w := if_neg (hp ▸ Bool.false_ne_true)

theorem sysRead_astat (hp : s.pilot = false) : s.sysRead 0x080 L = s.crew.astat.setWidth 64 := core_register hp _

theorem sysRead_srseed (hp : s.pilot = false) : s.sysRead 0x081 L = s.crew.srseed.setWidth 64 := core_register hp _

theorem sysRead_faddr (hp : s.pilot = false) : s.sysRead 0x093 L = s.crew.faddr.get 0 L := by
  show (if s.pilot then s.thread.faddr else _) = _
  rw [if_neg (hp ▸ Bool.false_ne_true)]

theorem sysRead_tvec : s.sysRead 0x090 L = (s.ctx s.isl s.spn).tvec := rfl

/-! Writes. -/

/-- A change of fragments that leaves each in its crew leaves the current crew as it is. -/
theorem crew_mapFrags (s : State) {g : Nat × Frag → Nat × Frag} (hk : ∀ e, (g e).1 = e.1) (hc : ∀ e, (g e).2.crew = e.2.crew) :
    ({ s with exe.frags := s.exe.frags.map g } : State).crew = s.crew :=
  congrArg (fun n => s.exe.crews.get {} (s.core * 64 + n)) (Tbl.get_map_field Frag.crew hk hc {} s.exe.frags s.fkey)

theorem putStat_crew (w : BitVec 6) : (s.putStat w).crew = { s.crew with astat := w, firm := w } := by
  rw [putStat]
  split
  · exact crew_setCrew _ _
  · refine (crew_mapFrags _ (fun e => ?_) fun e => ?_).trans (crew_setCrew _ _)
    · dsimp only
      split <;> rfl
    · dsimp only
      split <;> rfl

theorem putStat_pilot (w : BitVec 6) : (s.putStat w).pilot = s.pilot := by
  rw [putStat]
  split <;> rfl

theorem sysWrite_rerr_clear (h : v.getLsbD 63 = true) : s.sysWrite 0x071 v = s.setUni { s.uni with rerr := 0, rerra := 0 } := if_pos h

theorem sysWrite_rerr_keep (h : v.getLsbD 63 = false) : s.sysWrite 0x071 v = s := if_neg (h ▸ Bool.false_ne_true)

theorem sysWrite_astat (hp : s.pilot = false) : s.sysWrite 0x080 v = s.putStat (v.extractLsb' 0 6) := if_pos (by rw [hp]; rfl)

theorem sysWrite_srseed (hp : s.pilot = false) : s.sysWrite 0x081 v = s.setCrew { s.crew with srseed := v.extractLsb' 0 32 } :=
  if_pos (by rw [hp]; rfl)

theorem sysWrite_tvec :
    s.sysWrite 0x090 v = s.setCtx s.me.isl s.me.spn { s.ctx s.me.isl s.me.spn with tvec := v &&& 0xFFFFFFFFFF801 } := rfl

/-- The registers that SYSWR may change (R34, R340). -/
def writable (i : Nat) : Bool := (0x040 ≤ i && i ≤ 0x045) || i = 0x04A || i = 0x071 || i = 0x080 || i = 0x081 || i = 0x090

theorem sysWrite_readOnly (h : writable i = false) : s.sysWrite i v = s := by
  simp only [writable, Bool.or_eq_false_iff, decide_eq_false_iff_not] at h
  obtain ⟨⟨⟨⟨⟨hap, h4A⟩, h71⟩, h80⟩, h81⟩, h90⟩ := h
  simp only [sysWrite, hap, h4A, h71, h80, h81, h90, decide_false, Bool.false_and, Bool.false_eq_true, if_false]

end

end State

end Sys2Proof.Machine

namespace Sys2Proof.Proofs

open Sys2Proof Sys2Proof.Machine Sys2Proof.Machine.State

theorem systemRegisterMoves : Claims.SystemRegisters := by
  refine ⟨fun x s => ⟨sysrd_skips, fun hg hi hu hw => ?_, fun hg hi hu hp hw => ?_, fun hg hu =>
    ⟨fun n hd hb => ?_, fun n hd hb => ?_, fun n hd hb => ?_, fun n hd hb => ?_⟩⟩,
    fun x s0 => ⟨syswr_skips, syswr_denied, fun hg hu => ⟨fun hb => ?_, fun hb => ?_⟩⟩⟩
  · rw [Claims.Gives, sysrd_denied hg hi hu, deny_open]
    cases hp : s.pilot with
    | true => exact .inl rfl
    | false => exact .inr (hw hp)
  · rw [Claims.Gives, sysrd_denied hg hi hu, deny_window hp hw]
  · rw [Claims.Gives, sysrd_scalar hg hu hd, if_pos hb, sysrdDone]
  · rw [Claims.Gives, sysrd_scalar hg hu hd, if_neg (hb ▸ Bool.false_ne_true), sysrdDone]
  · rw [Claims.Gives, sysrd_vector hg hu hd, if_pos hb, sysrdDone]
  · rw [Claims.Gives, sysrd_vector hg hu hd, if_neg (hb ▸ Bool.false_ne_true), sysrdDone]
  · rw [Claims.Gives, syswr_writes hg hu, syswrValue, if_pos hb]
  · rw [Claims.Gives, syswr_writes hg hu, syswrValue, if_neg (hb ▸ Bool.false_ne_true)]

theorem systemRegisterValues : Claims.SystemRegisterValues := by
  intro s L v hp hc
  refine ⟨core_register hp _, core_register hp _, core_register hp _, rfl, rfl, rfl, congrArg Uni.fpc (uni_of_crew hp), congrArg Uni.fcause (uni_of_crew hp),
    (core_register hp _).trans (congrArg Uni.fmask (uni_of_crew hp)), sysRead_faddr hp, ?_, ?_, ?_, fun h => ⟨?_, ?_⟩,
    sysWrite_rerr_keep, fun i hi => sysWrite_readOnly ?_⟩
  · rw [sysWrite_astat hp, sysRead_astat ((putStat_pilot _).trans hp), putStat_crew]
  · rw [sysWrite_srseed hp, sysRead_srseed ((setCrew_pilot _ _).trans hp), crew_setCrew]
  · rw [sysWrite_tvec, me_isl hp hc, me_spn hp hc]
    exact congrArg Ctx.tvec (ctx_setCtx_same _ _ _ _)
  · rw [sysWrite_rerr_clear h]
    exact congrArg Uni.rerr (uni_setUni _ _)
  · rw [sysWrite_rerr_clear h]
    exact congrArg Uni.rerra (uni_setUni _ _)
  · revert i
    decide

/-- Settles O29: by what SYSRD and SYSWR do in each mode, and by what a register reads after a write. -/
theorem systemRegisters : Obligations.SystemRegisters := ⟨systemRegisterMoves, systemRegisterValues⟩

end Sys2Proof.Proofs

/-! Precincts and contexts (O44): how the host creates, frees and changes them. -/

namespace Sys2Proof

/-- What a key holds once the entries of some keys have been dropped. -/
theorem Tbl.get_filter_key {α : Type} (d : α) (q : Nat → Bool) (t : Tbl α) (k : Nat) :
    Tbl.get d (t.filter fun e => q e.1) k = if q k then t.get d k else d := by
  induction t with
  | nil => exact (ite_self d).symm
  | cons e t ih =>
    obtain ⟨j, v⟩ := e
    rw [List.filter_cons, Tbl.get]
    by_cases hkj : k = j
    · subst hkj
      cases hq : q k with
      | true => rw [if_pos rfl, if_pos rfl, if_pos rfl, Tbl.get, if_pos rfl]
      | false => rw [if_neg Bool.false_ne_true, ih, hq]; rfl
    · rw [if_neg hkj, ← ih]
      split
      · rw [Tbl.get, if_neg hkj]
      · rfl

/-- Memory reads as a table whose missing bytes are zero. -/
theorem Memory.read_eq_get (m : List Host.Cell) (a : Nat) : Memory.read m a = Tbl.get 0 m a := by
  induction m with
  | nil => rfl
  | cons c m ih => rw [Memory.read, Tbl.get, ih]

/-- Bytes dropped from memory read as zero. -/
theorem Memory.read_filter (q : Nat → Bool) (m : List Host.Cell) (a : Nat) :
    Memory.read (m.filter fun c => q c.1) a = if q a then Memory.read m a else 0 := by
  rw [Memory.read_eq_get, Memory.read_eq_get, Tbl.get_filter_key]

end Sys2Proof

namespace Sys2Proof.Machine

open Sys2Proof

/-! Precincts (R38, R422). -/

section

variable {s : State} {p : Nat} {v : W64}

theorem State.precinct_setPrecinct_same (x : Precinct) : (s.setPrecinct p x).precinct p = x := Tbl.get_put_same _ _ _ _

theorem State.precinct_setPrecinct_ne {x : Precinct} {j : Nat} (h : j ≠ p) : (s.setPrecinct p x).precinct j = s.precinct j :=
  Tbl.get_put_ne _ _ _ h

/-- The clusters of a precinct that are cleared hold no byte. -/
theorem State.clearClusters_read (a : Nat) :
    Memory.read (s.clearClusters p).mem a = if State.onChip (s.holdsCluster p) a then 0 else Memory.read s.mem a := by
  show Memory.read (s.mem.filter _) a = _
  rw [Memory.read_filter fun b => !State.onChip (s.holdsCluster p) b]
  cases State.onChip (s.holdsCluster p) a <;> rfl

/-- A precinct as PRECINCT_CREATE leaves its registers. -/
def newPrecinct (x : Precinct) (v : W64) : Precinct :=
  { State.withPdesc x v with valid := true, state := .running, image := 0, badImage := false, door := false, aborts := [], ctxbusy := false,
                             served := 63 }

/-- The state after PRECINCT_CREATE: the precinct's clusters and counters are cleared. -/
def afterCreate (s : State) (p : Nat) (v : W64) : State :=
  let t := (s.setPrecinct p (newPrecinct (s.precinct p) v)).clearClusters p
  { t with eng.notify := t.eng.notify.filter fun c => !(p / 16 * 16384 + fld v 8 14 ≤ c.1 && c.1 < p / 16 * 16384 + fld v 8 14 + fld v 22 15)
           mgt.images := t.mgt.images.del p }

theorem precinctCreate_done (hb : s.booted = true) (hp : p < 320) (hx : (s.precinct p).valid = false) (hv : v.getLsbD 63 = true)
    (hc : s.createBad p (State.withPdesc (s.precinct p) v) = false) : exec (.precinctCreate p v) s = .next (afterCreate s p v) := by
  show execPrecinctCreate p v s = _
  simp only [execPrecinctCreate, hb, hx, hv, hc, Nat.not_le.2 hp, Bool.not_true, decide_false, Bool.or_self, Bool.false_eq_true, if_false]
  rfl

theorem precinctCreate_refused (hb : s.booted = true) (hp : p < 320) (hx : (s.precinct p).valid = false) (hv : v.getLsbD 63 = true)
    (hc : s.createBad p (State.withPdesc (s.precinct p) v) = true) : exec (.precinctCreate p v) s = .next (s.refuse p) := by
  show execPrecinctCreate p v s = _
  simp only [execPrecinctCreate, hb, hx, hv, hc, Nat.not_le.2 hp, Bool.not_true, decide_false, Bool.or_self, Bool.false_eq_true, if_false, if_true]

theorem precinctCreate_valid (hx : (s.precinct p).valid = true) : exec (.precinctCreate p v) s = .next s := by
  show execPrecinctCreate p v s = _
  simp only [execPrecinctCreate, hx, Bool.or_true, Bool.true_or, if_true]

theorem afterCreate_precinct : (afterCreate s p v).precinct p = newPrecinct (s.precinct p) v := State.precinct_setPrecinct_same _

theorem afterCreate_precinct_ne {j : Nat} (h : j ≠ p) : (afterCreate s p v).precinct j = s.precinct j := State.precinct_setPrecinct_ne h

theorem afterCreate_read (a : Nat) :
    Memory.read (afterCreate s p v).mem a = if State.onChip ((afterCreate s p v).holdsCluster p) a then 0 else Memory.read s.mem a :=
  State.clearClusters_read a

theorem afterCreate_counter {n : Nat} (h : n < fld v 22 15) : (afterCreate s p v).counter (p / 16 * 16384 + fld v 8 14 + n) = 0 := by
  refine (Tbl.get_filter_key 0 (fun k => !(p / 16 * 16384 + fld v 8 14 ≤ k && k < p / 16 * 16384 + fld v 8 14 + fld v 22 15)) _ _).trans (if_neg ?_)
  simp [h]

/-- The state after PRECINCT_FREE of a precinct that is resident. -/
def afterFree (s : State) (p : Nat) : State :=
  let t := s.clearClusters p
  { t.setPrecinct p { t.precinct p with valid := false, state := .running, image := 0, badImage := false, door := false, aborts := [] } with
    mgt.images := t.mgt.images.del p }

theorem precinctFree_halted (hb : s.booted = true) (hx : (s.precinct p).valid = true) (hh : (s.precinct p).state = .halted)
    (hu : ∀ c ∈ s.trn.ctxs, c.2.live = true → c.2.precinct ≠ p) : exec (.precinctFree p) s = .next (afterFree s p) := by
  have hused : (s.trn.ctxs.any fun c => c.2.live && c.2.precinct = p && c.1 / 4096 = p / 16) = false := by
    rw [List.any_eq_false]
    intro c hc
    cases hl : c.2.live <;> simp [hl, hu c hc]
  show execPrecinctFree p s = _
  simp only [execPrecinctFree, hb, hx, hh, hused]
  rfl

theorem precinctFree_running (hb : s.booted = true) (hx : (s.precinct p).valid = true) (hr : (s.precinct p).state = .running) :
    exec (.precinctFree p) s = .next (s.refuse p) := by
  have hact : ¬ (!s.booted || !(s.precinct p).valid) = true := by simp [hb, hx]
  refine congrArg Host.Outcome.next ((if_neg hact).trans (if_pos ?_))
  simp [hr]

theorem precinctFree_invalid (hx : (s.precinct p).valid = false) : exec (.precinctFree p) s = .next s := by
  show execPrecinctFree p s = _
  simp only [execPrecinctFree, hx, Bool.not_false, Bool.or_true, if_true]

theorem afterFree_precinct_valid : ((afterFree s p).precinct p).valid = false :=
  congrArg Precinct.valid (State.precinct_setPrecinct_same (s := s.clearClusters p) _)

theorem afterFree_precinct_ne {j : Nat} (h : j ≠ p) : (afterFree s p).precinct j = s.precinct j :=
  State.precinct_setPrecinct_ne (s := s.clearClusters p) h

end

/-! Contexts (R423). -/

section

variable {s : State} {p : Nat}

/-- The end of a context command: BUSY is cleared and RESULT is set. -/
def ctxEnd (t : State) (p : Nat) (r : Byte) : State := t.setPrecinct p { t.precinct p with ctxbusy := false, ctxresult := r }

section

variable {cmd spn : Nat} {act : State → State × Byte}

theorem ctxCommand_begins (hb : s.booted = true) (hf : (s.precinct p).ctxbusy = false) :
    s.ctxCommand p cmd spn act = s.setPrecinct p { s.precinct p with ctxbusy := true, ctxcmd := cmd, ctxspn := spn } := by
  simp only [State.ctxCommand, hb, hf, Bool.not_true, Bool.not_false, Bool.false_eq_true, if_false, if_true]

theorem ctxCommand_other (hb : s.booted = true) (hf : (s.precinct p).ctxbusy = true) (hc : (s.precinct p).ctxcmd ≠ cmd) :
    s.ctxCommand p cmd spn act = s := by
  simp only [State.ctxCommand, hb, hf, Bool.not_true, Bool.false_eq_true, if_false, if_pos hc]

theorem ctxCommand_acts {t : State} {r : Byte} (hb : s.booted = true) (hf : (s.precinct p).ctxbusy = true) (hc : (s.precinct p).ctxcmd = cmd)
    (ha : act s = (t, r)) : s.ctxCommand p cmd spn act = ctxEnd t p r := by
  simp only [State.ctxCommand, hb, hf, hc, ha, Bool.not_true, Bool.false_eq_true, if_false, ne_eq, not_true, ctxEnd]

end

theorem ctxEnd_precinct {t : State} {r : Byte} : (ctxEnd t p r).precinct p = { t.precinct p with ctxbusy := false, ctxresult := r } :=
  State.precinct_setPrecinct_same _

/-! The descriptor's place. -/

theorem ctxDescr_unaligned (h : (s.precinct p).ctxaddr.toNat % 128 ≠ 0) : s.ctxDescr p = .error 3 := by
  rw [State.ctxDescr, if_pos h]

theorem ctxDescr_beyond (h : (s.precinct p).ctxaddr.toNat % 128 = 0) (hb : 2 ^ 47 ≤ (s.precinct p).ctxaddr.toNat) : s.ctxDescr p = .error 4 := by
  rw [State.ctxDescr, if_neg (fun hne => hne h), if_pos (by rw [decide_eq_true hb, Bool.true_or])]

section

variable {d : List Byte} {e : Byte}
variable (hb : s.booted = true) (hf : (s.precinct p).ctxbusy = true)
include hb hf

/-! CONTEXT_CREATE. -/

theorem contextCreate_unread (hc : (s.precinct p).ctxcmd = 1) (hd : s.ctxDescr p = .error e) :
    exec (.contextCreate p) s = .next (ctxEnd s p e) :=
  congrArg Host.Outcome.next (ctxCommand_acts hb hf hc (by simp only [hd]))

theorem contextCreate_refused (hc : (s.precinct p).ctxcmd = 1) (hd : s.ctxDescr p = .ok d)
    (h : (s.precinct p).valid = false ∨ recF d 0 2 = 0 ∨ (s.ctx (p / 16) (recF d 0 2)).live = true) :
    exec (.contextCreate p) s = .next (ctxEnd s p 2) := by
  refine congrArg Host.Outcome.next (ctxCommand_acts hb hf hc ?_)
  simp only [hd]
  refine if_pos ?_
  simp only [Bool.or_eq_true, Bool.not_eq_true', decide_eq_true_eq, or_assoc]
  exact h

theorem contextCreate_done (hc : (s.precinct p).ctxcmd = 1) (hd : s.ctxDescr p = .ok d) (hv : (s.precinct p).valid = true)
    (hn : recF d 0 2 ≠ 0) (hl : (s.ctx (p / 16) (recF d 0 2)).live = false) :
    exec (.contextCreate p) s = .next (ctxEnd (s.setCtx (p / 16) (recF d 0 2) (State.ctxOf p d)) p 0) := by
  refine congrArg Host.Outcome.next (ctxCommand_acts hb hf hc ?_)
  simp only [hd]
  exact if_neg (by simp [hv, hn, hl])

/-! CONTEXT_UPDATE. -/

theorem contextUpdate_unread (hc : (s.precinct p).ctxcmd = 2) (hd : s.ctxDescr p = .error e) :
    exec (.contextUpdate p) s = .next (ctxEnd s p e) :=
  congrArg Host.Outcome.next (ctxCommand_acts hb hf hc (by simp only [hd]))

/-- An active context keeps its table root. -/
theorem contextUpdate_active (hc : (s.precinct p).ctxcmd = 2) (hd : s.ctxDescr p = .ok d)
    (ha : s.ctxActive (p / 16) (recF d 0 2) = true) (hr : (s.ctx (p / 16) (recF d 0 2)).ptroot ≠ (State.ctxOf p d).ptroot) :
    exec (.contextUpdate p) s = .next (ctxEnd s p 2) := by
  refine congrArg Host.Outcome.next (ctxCommand_acts hb hf hc ?_)
  simp only [hd]
  exact if_pos (by simp [ha, hr])

theorem contextUpdate_done (hc : (s.precinct p).ctxcmd = 2) (hd : s.ctxDescr p = .ok d) (hv : (s.precinct p).valid = true)
    (hl : (s.ctx (p / 16) (recF d 0 2)).live = true) (hp : (s.ctx (p / 16) (recF d 0 2)).precinct = p)
    (ha : s.ctxActive (p / 16) (recF d 0 2) = false) :
    exec (.contextUpdate p) s = .next (ctxEnd
      (s.setCtx (p / 16) (recF d 0 2) (State.updateCtx (s.ctx (p / 16) (recF d 0 2)) (State.ctxOf p d))) p 0) := by
  refine congrArg Host.Outcome.next (ctxCommand_acts hb hf hc ?_)
  simp only [hd]
  exact if_neg (by simp [hv, hl, hp, ha])

/-! CONTEXT_DESTROY. -/

theorem contextDestroy_refused {n : BitVec 12} (hc : (s.precinct p).ctxcmd = 3)
    (h : (s.ctx (p / 16) (s.precinct p).ctxspn).live = false ∨ (s.ctx (p / 16) (s.precinct p).ctxspn).precinct ≠ p) :
    exec (.contextDestroy p n) s = .next (ctxEnd s p 2) := by
  refine congrArg Host.Outcome.next (ctxCommand_acts hb hf hc (if_pos ?_))
  rcases h with h | h <;> simp [h]

end

/-- A context that no cache holds a line of leaves its TLB entries behind, and nothing else but cached code and walks. -/
theorem flushSpn_uncached {isl n : Nat} (h1 : s.coh.l1 = []) (hp : s.coh.partials = []) :
    ∃ code walks, s.flushSpn isl n = { s with coh.icache := code, trn.wcache := walks,
                                              trn.tlb := s.trn.tlb.filter fun e => !(e.isl = isl && e.spn = n) } := by
  rw [State.flushSpn, h1, hp]
  exact ⟨_, _, rfl⟩

/-- The state after the removal of context `n`: nothing of it stands in the caches and its threads that had halted are unstarted. -/
def ctxRemoved (s : State) (isl n : Nat) : State :=
  let t := s.flushSpn isl n
  { t with trn.ctxs := t.trn.ctxs.del (isl * 4096 + n)
           exe.threads := t.exe.threads.map fun e => if e.1 / 4 / 16 = isl && e.2.spn = n && e.2.state = .halted then (e.1, {}) else e }

theorem contextDestroy_done {n : BitVec 12} (hb : s.booted = true) (hf : (s.precinct p).ctxbusy = true) (hc : (s.precinct p).ctxcmd = 3)
    (hl : (s.ctx (p / 16) (s.precinct p).ctxspn).live = true) (hp : (s.ctx (p / 16) (s.precinct p).ctxspn).precinct = p)
    (hs : (s.precinct p).state ≠ .failed) (hi : s.ctxIdle (p / 16) (s.precinct p).ctxspn = true) :
    exec (.contextDestroy p n) s = .next (ctxEnd (ctxRemoved s (p / 16) (s.precinct p).ctxspn) p 0) := by
  refine congrArg Host.Outcome.next (ctxCommand_acts hb hf hc ((if_neg ?_).trans ?_))
  · simp [hl, hp, hi]
  · simp only [hs, decide_false, Bool.false_and]
    rw [List.filter_eq_nil_iff.2 fun _ _ => Bool.false_ne_true]
    rfl

end

end Sys2Proof.Machine

namespace Sys2Proof.Proofs

open Sys2Proof Sys2Proof.Machine Sys2Proof.Machine.State

theorem precinctLife : Claims.PrecinctLife := by
  intro s p v hb hp
  refine ⟨fun hx hv hc => ⟨_, precinctCreate_done hb hp hx hv hc, ?_⟩, precinctCreate_refused hb hp, precinctCreate_valid,
    fun hx hh hu => ⟨_, precinctFree_halted hb hx hh hu, afterFree_precinct_valid, fun j => afterFree_precinct_ne, clearClusters_read⟩,
    precinctFree_running hb, precinctFree_invalid⟩
  rw [afterCreate_precinct]
  refine ⟨rfl, rfl, rfl, rfl, rfl, rfl, fun j => afterCreate_precinct_ne, fun a ha => ?_, fun a ha => ?_, fun n => afterCreate_counter⟩
  · rw [afterCreate_read, if_pos ha]
  · rw [afterCreate_read, if_neg (ha ▸ Bool.false_ne_true)]

theorem contextLife : Claims.ContextLife := by
  refine ⟨fun s p cmd spn i hb hi => ?_, fun s p hb hf =>
    ⟨fun e hd => ⟨fun hc => contextCreate_unread hb hf hc hd, fun hc => contextUpdate_unread hb hf hc hd⟩,
    fun d hd => ⟨fun hc hv hn hl => ?_, fun hc => contextCreate_refused hb hf hc hd, fun hc hv hl hp ha => ?_,
      fun hc _ _ ha hr => contextUpdate_active hb hf hc hd ha hr⟩,
    fun n hc => ⟨contextDestroy_refused hb hf hc, fun hl hp hs hi h1 hu => ?_⟩⟩, fun s p => ⟨ctxDescr_unaligned, ctxDescr_beyond⟩⟩
  · rcases hi with ⟨rfl, rfl, rfl⟩ | ⟨rfl, rfl, rfl⟩ | ⟨n, rfl, rfl, rfl⟩
    all_goals exact ⟨fun hf => congrArg Host.Outcome.next (ctxCommand_begins hb hf),
      fun hf hc => congrArg Host.Outcome.next (ctxCommand_other hb hf hc)⟩
  · refine ⟨_, contextCreate_done hb hf hc hd hv hn hl, ctx_setCtx_same _ _ _ _, ctxEnd_precinct, rfl, fun j _ hj => ?_⟩
    exact ctx_setCtx_ne hj
  · exact ⟨_, contextUpdate_done hb hf hc hd hv hl hp ha, ctxEnd_precinct, ctx_setCtx_same _ _ _ _⟩
  · obtain ⟨code, walks, hflush⟩ := flushSpn_uncached (isl := p / 16) (n := (s.precinct p).ctxspn) h1 hu
    have hdone := contextDestroy_done (n := n) hb hf hc hl hp hs hi
    rw [ctxRemoved, hflush] at hdone
    refine ⟨_, hdone, ctxEnd_precinct, rfl, rfl, fun e he ⟨hisl, hspn⟩ => ?_⟩
    have hkept := (List.mem_filter.1 he).2
    simp [hisl, hspn] at hkept

/-- Settles O44: each command by what it does in each of its cases. -/
theorem precinctsAndContexts : Obligations.PrecinctsAndContexts := ⟨precinctLife, contextLife⟩

end Sys2Proof.Proofs

/-! The frame pool (O30): POOLPOP and POOLPUSH, and what they leave of the ring. -/

namespace Sys2Proof.Memory

open Sys2Proof

/-- A number is read from its own bytes only. -/
theorem readN_congr {m m' : List Host.Cell} {n a : Nat} (h : ∀ c, a ≤ c → c < a + n → read m c = read m' c) : readN m a n = readN m' a n := by
  induction n generalizing a with
  | zero => rfl
  | succ n ih => rw [readN, readN, h a (Nat.le_refl a) (by omega), ih fun c ha hc => h c (by omega) (by omega)]

/-- A number reads as before when bytes beside its own are written. -/
theorem readN_writeN_beside {m : List Host.Cell} (hm : wf m = true) {a n b k : Nat} (v : Nat) (h : a + n ≤ b ∨ b + k ≤ a) :
    readN (writeN m b v k) a n = readN m a n :=
  readN_congr fun c _ _ => read_writeN_outside hm b v k c (by omega)

end Sys2Proof.Memory

namespace Sys2Proof.Machine

open Sys2Proof

namespace State

section

variable {s s1 : State} {h k : Nat} {go : State → State} {x : RI}

/-! The header and a ring entry at their homes (R82, R342). -/

/-- The pool's header gathered at its home: the state then, and whether it is there whole. -/
def headerHome (s : State) : State × Bool := s.gatherPieces s.isl 0 true [(s.poolLoc, 128)]

/-- The header and the ring entry `k` gathered at their homes: the state then, and whether they are there whole. -/
def slotHome (s : State) (k : Nat) : State × Bool := s.gatherPieces s.isl 0 true [(s.poolLoc, 128), (s.poolSlot s.poolLoc k, 4)]

theorem atPool_present (hu : unbacked s.poolPA = false) (hg : s.headerHome.2 = true) (hr : s.headerHome.1.badRead s.poolLoc 128 = false) :
    s.atPool go = go (s.headerHome.1.countSoft s.me [(s.poolLoc, 128)]) := by
  have hp : s.gatherPieces s.isl 0 true [(s.poolLoc, 128)] = (s.headerHome.1, true) := Prod.ext rfl hg
  rw [atPool, hu, hp, if_neg Bool.false_ne_true]
  exact if_neg (hr ▸ Bool.false_ne_true)

theorem atSlot_present (hl : s.poolLoc = h) (hu : unbacked (s.slotPA h k) = false) (hg : (s.slotHome k).2 = true)
    (hr : (s.slotHome k).1.badRead (s.poolSlot h k) 4 = false) :
    s.atSlot k go = go ((s.slotHome k).1.countSoft s.me [(s.poolSlot s.poolLoc k, 4)]) := by
  subst hl
  have hp : s.gatherPieces s.isl 0 true [(s.poolLoc, 128), (s.poolSlot s.poolLoc k, 4)] = ((s.slotHome k).1, true) := Prod.ext rfl hg
  rw [atSlot, hu, hp, if_neg Bool.false_ne_true]
  exact if_neg (hr ▸ Bool.false_ne_true)

/-! POOLPOP at the header. -/

/-- The agent waits for the pool's doorbell. -/
def awaitDoorbell (u : State) : State :=
  if u.pilot then u.setThread { u.thread with state := .wait, waitFor := .doorbell }
  else u.setFrag { u.frag with state := .moored, wait := 0, waitFor := .doorbell, order := u.exe.orders + 1 }

theorem popFrame_empty_try (hl : s.poolLoc = h) (he : s.poolBad h = true ∨ s.poolCount h = 0) (ht : x.sub.getLsbD 0 = true) :
    popFrame x s = (((s.poolEmpty h).wrQ x.c false).twinAcquire s.me.id 3).advance (RI.len x) := by
  subst hl
  rw [popFrame, if_pos (by simpa using he), if_pos ht]

theorem popFrame_empty_waits (hl : s.poolLoc = h) (he : s.poolBad h = true ∨ s.poolCount h = 0) (ht : x.sub.getLsbD 0 = false) :
    popFrame x s = (s.poolEmpty h).awaitDoorbell := by
  subst hl
  rw [popFrame, if_pos (by simpa using he), if_neg (ht ▸ Bool.false_ne_true)]
  rfl

/-- What POOLPOP leaves once a frame is taken: the frame, the answer under `.try`, and an acquire at island scope. -/
def popDone (x : RI) (id : Nat) (r : State × W32) : State :=
  let u := r.1.wrS x.d r.2
  ((if x.sub.getLsbD 0 then u.wrQ x.c true else u).twinAcquire id 3).advance (RI.len x)

theorem popFrame_takes (hl : s.poolLoc = h) (hb : s.poolBad h = false) (hc : s.poolCount h ≠ 0) :
    popFrame x s = s.atSlot (Memory.readN s.mem (h + 16) 4) fun t => popDone x s.me.id (t.poolTake h) := by
  subst hl
  rw [popFrame, if_neg (by simp [hb, hc])]
  rfl

/-- Fewer frames than LOW are left once one is taken (R83). -/
def lowAfterTake (s : State) (h : Nat) : Bool := s.poolCount h - 1 < Memory.readN s.mem (h + 12) 4

/-- Memory once a frame is taken: HEAD is one on, and of the event flags LOWEV alone stands when the pool runs low (R83). -/
def takenMem (s : State) (h : Nat) : List Host.Cell :=
  Memory.writeN (Memory.writeN s.mem (h + 16) (Memory.readN s.mem (h + 16) 4 + 1) 4) (h + 24) (if s.lowAfterTake h then 2 else 0) 4

theorem poolTake_eq : s.poolTake h =
    (if s.lowAfterTake h && decide (Memory.readN s.mem (h + 24) 4 / 2 % 2 = 0) then ({ s with mem := s.takenMem h } : State).poolEvent 3
      else { s with mem := s.takenMem h }, BitVec.ofNat 32 (Memory.readN s.mem (s.poolSlot h (Memory.readN s.mem (h + 16) 4)) 4)) := by
  simp only [poolTake, takenMem, lowAfterTake, decide_eq_true_eq]

section

variable (hm : Memory.wf s.mem = true)
include hm

theorem takenMem_head : Memory.readN (s.takenMem h) (h + 16) 4 = (Memory.readN s.mem (h + 16) 4 + 1) % 2 ^ 32 :=
  (Memory.readN_writeN_beside (Memory.wf_writeN hm _ _ 4) _ (by omega)).trans (Memory.readN_writeN hm _ _ 4)

theorem takenMem_events : Memory.readN (s.takenMem h) (h + 24) 4 = if s.lowAfterTake h then 2 else 0 := by
  refine (Memory.readN_writeN (Memory.wf_writeN hm _ _ 4) _ _ 4).trans ?_
  cases s.lowAfterTake h <;> rfl

theorem takenMem_read {a : Nat} (ha : a < h + 16 ∨ (h + 20 ≤ a ∧ a < h + 24) ∨ h + 28 ≤ a) :
    Memory.read (s.takenMem h) a = Memory.read s.mem a :=
  (Memory.read_writeN_outside (Memory.wf_writeN hm _ _ 4) _ _ 4 a (by omega)).trans (Memory.read_writeN_outside hm _ _ 4 a (by omega))

end

/-! POOLPUSH at the header. -/

section

variable {f : W32} (hm : Memory.wf s.mem = true)
include hm

theorem poolPut_frame : Memory.readN (s.poolPut h f).mem (s.poolSlot h (s.slotBefore h)) 4 = f.toNat :=
  (Memory.readN_writeN (Memory.wf_writeN hm _ _ 4) _ _ 4).trans (Nat.mod_eq_of_lt f.isLt)

theorem poolPut_head (ho : s.poolSlot h (s.slotBefore h) + 4 ≤ h + 16 ∨ h + 20 ≤ s.poolSlot h (s.slotBefore h)) :
    Memory.readN (s.poolPut h f).mem (h + 16) 4 = s.slotBefore h :=
  (Memory.readN_writeN_beside (Memory.wf_writeN hm _ _ 4) _ (by omega)).trans
    ((Memory.readN_writeN hm _ _ 4).trans (Nat.mod_eq_of_lt (Nat.mod_lt _ (Nat.two_pow_pos 32))))

theorem poolPut_read {a : Nat} (hh : a < h + 16 ∨ h + 20 ≤ a)
    (he : a < s.poolSlot h (s.slotBefore h) ∨ s.poolSlot h (s.slotBefore h) + 4 ≤ a) :
    Memory.read (s.poolPut h f).mem a = Memory.read s.mem a :=
  (Memory.read_writeN_outside (Memory.wf_writeN hm _ _ 4) _ _ 4 a he).trans (Memory.read_writeN_outside hm _ _ 4 a (by omega))

end

theorem pushFrame_full {f : W32} (hl : s.poolLoc = h) (hf : s.poolFull h = true) :
    pushFrame x f s = (s.wrQ x.d false).advance (RI.len x) := by
  subst hl
  exact if_pos hf

theorem pushFrame_puts {f : W32} (hl : s.poolLoc = h) (hf : s.poolFull h = false) :
    pushFrame x f s = s.atSlot (s.slotBefore h) fun t => (((t.poolPut h f).wrQ x.d true).twinRelease s.me.id 3).advance (RI.len x) := by
  subst hl
  exact if_neg (hf ▸ Bool.false_ne_true)

end

end State

/-! Before the header: the privilege, the guard, the pool's presence, and what the write or the release waits for (R118, R342). -/

section

variable {s s0 : State} {x : RI} {w : W64}

/-- The current agent's precinct has a frame pool. -/
abbrev State.poolBit (s : State) : Nat := fld (s.precinct s.myPrecinct).fpool 0 1

theorem poolpop_user (hs : s.sup = false) : exec (.poolpop x) s = .next (s.moorAll 0x11 none) := by
  show execPoolpop x s = _
  rw [execPoolpop, hs]
  rfl

theorem poolpop_skips (hs : s.sup = true) (hq : s.qguard x.guard = false) : exec (.poolpop x) s = .next (s.advance (RI.len x)) := by
  show execPoolpop x s = _
  rw [execPoolpop, hs, hq]
  rfl

theorem poolpop_poolless (hs : s.sup = true) (hq : s.qguard x.guard = true) (hp : s.poolBit = 0) :
    exec (.poolpop x) s = .next (s.moorAll 2 none) := by
  show execPoolpop x s = _
  rw [execPoolpop, hs, hq]
  exact congrArg _ (if_pos hp)

theorem poolpop_goes (hs : s.sup = true) (hq : s.qguard x.guard = true) (hp : s.poolBit = 1) (hr : s.relsLeft = []) :
    exec (.poolpop x) s = .next (s.atPool (State.popFrame x)) := by
  show execPoolpop x s = _
  rw [execPoolpop, hs, hq, hr]
  exact congrArg _ (if_neg (hp ▸ Nat.one_ne_zero))

variable (hw : s0.walk [x.a] = (w, s))
include hw

theorem poolpush_user (hs : s.sup = false) : exec (.poolpush x) s0 = .next (s.moorAll 0x11 none) := by
  show execPoolpush x s0 = _
  simp only [execPoolpush, hw, hs, Bool.not_false, if_true]

theorem poolpush_skips (hs : s.sup = true) (hq : s.qguard x.guard = false) : exec (.poolpush x) s0 = .next (s.advance (RI.len x)) := by
  show execPoolpush x s0 = _
  simp only [execPoolpush, hw, hs, hq, Bool.not_true, Bool.not_false, Bool.false_eq_true, if_false, if_true]

theorem poolpush_refused (hs : s.sup = true) (hq : s.qguard x.guard = true) (h : s.poolBit = 0 ∨ 0x800000 ≤ (s.u32 w x.lit x.a).toNat) :
    exec (.poolpush x) s0 = .next (s.moorAll 2 none) := by
  show execPoolpush x s0 = _
  simp only [execPoolpush, hw, hs, hq, Bool.not_true, Bool.false_eq_true, if_false]
  rcases h with hp | hf
  · rw [if_pos hp]
  · rw [if_pos hf, ite_self]

theorem poolpush_goes (hs : s.sup = true) (hq : s.qguard x.guard = true) (hp : s.poolBit = 1) (hf : (s.u32 w x.lit x.a).toNat < 0x800000)
    (hr : s.relsLeft = []) (hrel : s.released 3 = true) :
    exec (.poolpush x) s0 = .next (s.atPool (State.pushFrame x (s.u32 w x.lit x.a))) := by
  have hp0 : s.poolBit ≠ 0 := by omega
  show execPoolpush x s0 = _
  simp only [execPoolpush, hw, hs, hq, hr, hrel, if_neg hp0, if_neg (Nat.not_le.2 hf), Bool.not_true, Bool.false_eq_true, if_false,
    List.isEmpty_nil]

end

end Sys2Proof.Machine

namespace Sys2Proof.Proofs

open Sys2Proof Sys2Proof.Machine Sys2Proof.Machine.State

theorem poolInstructions : Claims.PoolInstructions := by
  refine ⟨fun x s => ⟨poolpop_user, poolpop_skips, poolpop_poolless, fun hs hq hp hu hr hg hb hl => ?_⟩,
    fun x s0 => ⟨poolpush_user rfl, poolpush_skips rfl, fun hs hq hp => poolpush_refused rfl hs hq (.inl hp),
      fun hs hq _ hf => poolpush_refused rfl hs hq (.inr hf), fun hs hq hp hf hr hrel hu hg hb hl => ?_⟩⟩
  · have hpool := (poolpop_goes hs hq hp hr).trans (congrArg Host.Outcome.next (atPool_present hu hg hb))
    refine ⟨fun he ht => ?_, fun he ht => ?_, fun hbad hc hus hgs hbs => ?_⟩
    · exact hpool.trans (congrArg Host.Outcome.next (popFrame_empty_try hl he ht))
    · exact hpool.trans (congrArg Host.Outcome.next (popFrame_empty_waits hl he ht))
    · exact hpool.trans (congrArg Host.Outcome.next ((popFrame_takes hl hbad hc).trans (atSlot_present hl hus hgs hbs)))
  · have hpool := (poolpush_goes rfl hs hq hp hf hr hrel).trans (congrArg Host.Outcome.next (atPool_present hu hg hb))
    refine ⟨fun hfull => ?_, fun hfull hus hgs hbs => ?_⟩
    · exact hpool.trans (congrArg Host.Outcome.next (pushFrame_full hl hfull))
    · exact hpool.trans (congrArg Host.Outcome.next ((pushFrame_puts hl hfull).trans (atSlot_present hl hus hgs hbs)))

theorem poolRing : Claims.PoolRing := by
  refine ⟨fun s h f hm => ⟨rfl, poolPut_frame hm, poolPut_head hm, fun a hh he => poolPut_read hm hh he⟩,
    fun s h hm => ⟨rfl, { s with mem := takenMem s h }, rfl, takenMem_head hm, takenMem_events hm, fun a ha => takenMem_read hm ha, ?_⟩⟩
  exact congrArg Prod.fst poolTake_eq

/-- Settles O30: by what each instruction does in each case before, at and behind the pool's header, and by the two writes of the ring that each makes. -/
theorem framePool : Obligations.FramePool := ⟨poolInstructions, poolRing⟩

end Sys2Proof.Proofs

/-! Translation (O47): what a translation gives, and how an invalidation runs from its receipt to the release of the line by its home. -/

namespace Sys2Proof.Machine

open Sys2Proof

namespace State

section

variable {s s1 : State} {w : Who} {va : Nat} {k : AKind} {p : W64} {size a level : Nat} {ls : List Nat}

/-! The end of a translation whose access every check admits: D is set before the first write (R71). -/

/-- What an access gets that every check of its page's entry admits. -/
def grantAccess (s : State) (w : Who) (va : Nat) (k : AKind) (p : W64) (size a level : Nat) : State × Res :=
  let pa := Res.pa (locPA w.isl (fld p 16 32 * 65536 + va % size)) (fld p 6 2)
  if needsWrite k && fld p 9 1 = 0 then
    match s.setAD w.isl a level p true with
    | (s2, true) => (s2.tlbSetD w.isl a, pa)
    | (s2, false) => ((match s2.cached w va with | some e => s2.dropEntry e | none => s2), .busy)
  else (s, pa)

theorem grantAccess_plain (h : p.getLsbD 9 = true ∨ needsWrite k = false) :
    s.grantAccess w va k p size a level = (s, .pa (locPA w.isl (fld p 16 32 * 65536 + va % size)) (fld p 6 2)) := by
  refine if_neg ?_
  simp only [fld_one_eq_zero, Bool.and_eq_true, decide_eq_true_eq]
  rintro ⟨hw, h9⟩
  rcases h with h | h
  · exact Bool.false_ne_true (h9.symm.trans h)
  · exact Bool.false_ne_true (h.symm.trans hw)

section

variable (h9 : p.getLsbD 9 = false) (hw : needsWrite k = true)
include h9 hw

theorem grantAccess_setsD (hs : (s.setAD w.isl a level p true).2 = true) : s.grantAccess w va k p size a level
    = ((s.setAD w.isl a level p true).1.tlbSetD w.isl a, .pa (locPA w.isl (fld p 16 32 * 65536 + va % size)) (fld p 6 2)) := by
  have hpair : s.setAD w.isl a level p true = ((s.setAD w.isl a level p true).1, true) := Prod.ext rfl hs
  rw [grantAccess, if_pos (by rw [hw, decide_eq_true (fld_one_eq_zero.2 h9), Bool.and_self]), hpair]

theorem grantAccess_again (hs : (s.setAD w.isl a level p true).2 = false) : (s.grantAccess w va k p size a level).2 = .busy := by
  have hpair : s.setAD w.isl a level p true = ((s.setAD w.isl a level p true).1, false) := Prod.ext rfl hs
  rw [grantAccess, if_pos (by rw [hw, decide_eq_true (fld_one_eq_zero.2 h9), Bool.and_self]), hpair]

end

/-! The checks of a page's entry in their order (R66, R84). -/

/-- The checks of the entry against the kind of the access, and of a host page's owner. -/
def checkKind (s : State) (w : Who) (va : Nat) (k : AKind) (p : W64) (size a level : Nat) : State × Res :=
  if needsRead k = true ∧ p.getLsbD 2 = false then (s, .fault 2 (fpteOf a level))
  else if needsWrite k = true ∧ p.getLsbD 3 = false then (s, .fault 2 (fpteOf a level))
  else if k = .fetch ∧ p.getLsbD 4 = false then (s, .fault 2 (fpteOf a level))
  else if fld p 6 2 = 2 ∧ s.hostAllowed w.isl (fld p 16 32 * 65536 + va % size) = false then (s, .fault 2 0)
  else s.grantAccess w va k p size a level

theorem checkKind_unreadable (h2 : p.getLsbD 2 = false) (hr : needsRead k = true) :
    s.checkKind w va k p size a level = (s, .fault 2 (fpteOf a level)) := if_pos ⟨hr, h2⟩

theorem checkKind_unwritable (h3 : p.getLsbD 3 = false) (hw : needsWrite k = true) (hr : needsRead k = false) :
    s.checkKind w va k p size a level = (s, .fault 2 (fpteOf a level)) := by
  rw [checkKind, if_neg (by simp [hr]), if_pos ⟨hw, h3⟩]

theorem checkKind_open (h2 : p.getLsbD 2 = true) (h3 : p.getLsbD 3 = true) (h4 : p.getLsbD 4 = true) (hca : fld p 6 2 ≠ 2) :
    s.checkKind w va k p size a level = s.grantAccess w va k p size a level := by
  rw [checkKind, if_neg (by simp [h2]), if_neg (by simp [h3]), if_neg (by simp [h4]), if_neg (fun h => hca h.1)]

/-- The checks of the entry in their order, once it is known. -/
theorem translate_entry (hlive : (s.ctx w.isl w.spn).live = true) (hl : s.lookup w va = (s1, .ok p size a level ls)) : s.translate w va k =
    if p.getLsbD 1 = true then (s1, .park)
    else if fld p 12 4 ≠ (s1.precinct (s1.ctx w.isl w.spn).precinct).tag then (s1, .fault 2 (fpteOf a level))
    else if p.getLsbD 5 = true ∧ w.sup = false then (s1, .fault 2 (fpteOf a level))
    else s1.checkKind w va k p size a level := by
  simp only [translate, checkKind, grantAccess, hlive, hl, fld_one_eq_one, fld_one_eq_zero, Bool.not_true, Bool.false_eq_true, if_false,
    Bool.and_eq_true, decide_eq_true_eq, Bool.not_eq_true'] <;> rfl

/-- An entry that stands, of the accessor's precinct and open to its mode, is held against the kind of the access. -/
theorem translate_admitted (hlive : (s.ctx w.isl w.spn).live = true) (hl : s.lookup w va = (s1, .ok p size a level ls)) (hp : p.getLsbD 1 = false)
    (ht : fld p 12 4 = (s1.precinct (s1.ctx w.isl w.spn).precinct).tag) (hu : p.getLsbD 5 = false ∨ w.sup = true) : s.translate w va k
    = s1.checkKind w va k p size a level := by
  have hmode : ¬ (p.getLsbD 5 = true ∧ w.sup = false) := by rcases hu with h | h <;> rw [h] <;> simp
  rw [translate_entry hlive hl, if_neg (hp ▸ Bool.false_ne_true), if_neg (fun hne => hne ht), if_neg hmode]

end

/-! What an invalidation leaves of the translation state (R69, R73). -/

section

variable {s : State}

/-- An update of a state that leaves a part of it alone leaves it when made for each entry of a list. -/
theorem foldl_keeps {α β : Type} {f : State → α → State} (g : State → β) (hf : ∀ s x, g (f s x) = g s) (l : List α) : g (l.foldl f s) = g s := by
  induction l generalizing s with
  | nil => rfl
  | cons x l ih => rw [List.foldl_cons, ih, hf]

theorem refreshSharers_trn {lk : Nat} : (s.refreshSharers lk).trn = s.trn := by
  rw [refreshSharers]
  split <;> rfl

theorem rollback_trn {key : Nat} : (s.rollback key).trn = s.trn := by
  rw [rollback]
  split <;> rfl

theorem rollbackLine_trn {core lk : Nat} {writer : Option Nat} : (s.rollbackLine core lk writer).trn = s.trn :=
  foldl_keeps trn (fun _ _ => rollback_trn) _

theorem rollbackAgent_trn {isl a lk : Nat} : (s.rollbackAgent isl a lk).trn = s.trn := by
  rw [rollbackAgent]
  split
  · exact rollbackLine_trn
  · rfl

theorem fly_trn {lk n : Nat} {src dest : TokDest} {o : Bool} : (s.fly lk src dest n o).trn = s.trn := by
  rw [fly]
  split <;> rfl

theorem sendTokens_trn {isl a ln : Nat} {dest : TokDest} : (s.sendTokens isl a ln dest).trn = s.trn := by
  rw [sendTokens]
  split
  · rfl
  · rw [refreshSharers_trn, fly_trn, setLine_trn, rollbackAgent_trn, setCline_trn]

theorem combine_trn {isl a ln : Nat} : (s.combine isl a ln).trn = s.trn := by
  rw [combine]
  split <;> rfl

theorem evictL1_trn {isl a ln : Nat} : (s.evictL1 isl a ln).trn = s.trn := sendTokens_trn.trans combine_trn

theorem dropPage_trn {isl tlb spn page size : Nat} : (s.dropPage isl tlb spn page size).trn = s.trn :=
  foldl_keeps trn (fun _ _ => evictL1_trn) _

theorem dropEntry_tlb {e : TlbE} : (s.dropEntry e).trn.tlb = s.trn.tlb.erase e := by rw [dropEntry, dropPage_trn]
theorem dropEntry_tinvs {e : TlbE} : (s.dropEntry e).trn.tinvs = s.trn.tinvs := by rw [dropEntry, dropPage_trn]
theorem dropEntry_tacks {e : TlbE} : (s.dropEntry e).trn.tacks = s.trn.tacks := by rw [dropEntry, dropPage_trn]

/-- Entries dropped one after another are taken from the TLBs' list. -/
theorem dropEntries_tlb (l : List TlbE) : (l.foldl dropEntry s).trn.tlb = l.foldl List.erase s.trn.tlb := by
  induction l generalizing s with
  | nil => rfl
  | cons e l ih => rw [List.foldl_cons, List.foldl_cons, ih, dropEntry_tlb]

/-- Accesses translated again leave the TLBs, the invalidations and the acknowledgements as they are. -/
theorem reparkBy_trn {sel : Nat → Nat → LOp → Acc → Bool} : ∃ rs, (s.reparkBy sel).trn = { s.trn with released := s.trn.released ++ rs } := by
  rw [reparkBy]
  dsimp only
  split
  · exact ⟨[], by rw [List.append_nil]⟩
  · exact ⟨_, rfl⟩

end

end State

/-- Entries taken from a list leave its first one, when it is none of them. -/
theorem foldl_erase_cons {α : Type} [BEq α] [LawfulBEq α] {x : α} {r : List α} (h : x ∉ r) (l : List α) :
    r.foldl List.erase (x :: l) = x :: r.foldl List.erase l := by
  induction r generalizing l with
  | nil => rfl
  | cons y r ih =>
    obtain ⟨hy, hr⟩ := List.forall_mem_cons.1 fun z (hz : z ∈ y :: r) => ne_of_mem_of_not_mem hz h
    rw [List.foldl_cons, List.foldl_cons, List.erase_cons_tail (fun hxy => hy (eq_of_beq hxy).symm), ih fun hx => hr x hx rfl]

/-- A list from which the entries that a test holds for are taken one by one. -/
theorem foldl_erase_filter {α : Type} [BEq α] [LawfulBEq α] (q : α → Bool) (l : List α) :
    (l.filter q).foldl List.erase l = l.filter fun x => !q x := by
  induction l with
  | nil => rfl
  | cons x l ih =>
    cases hx : q x with
    | true => rw [List.filter_cons_of_pos hx, List.foldl_cons, List.erase_cons_head, ih, List.filter_cons_of_neg (by rw [hx]; decide)]
    | false =>
      have hout : x ∉ l.filter q := fun h => Bool.false_ne_true (hx.symm.trans (List.mem_filter.1 h).2)
      rw [List.filter_cons_of_neg (by rw [hx]; decide), foldl_erase_cons hout, ih, List.filter_cons_of_pos (by rw [hx]; rfl)]

/-! The three events (R66 to R74). -/

section

variable {s : State} {isl tlb line : Nat}

theorem walk_untranslated {spn : BitVec 12} {va : W64} {k : AKind} {sup : Bool}
    (h : 18 ≤ tlb ∨ 2 ^ 52 ≤ va.toNat ∨ va.toNat < 0x10000
      ∨ s.apHit { isl := isl, tlb := tlb, spn := spn.toNat, sup := sup } va.toNat [0, 1, 2, 3, 4, 5] ≠ none) :
    exec (.walk isl tlb spn va k sup) s = .next s := by
  refine congrArg Host.Outcome.next (if_pos ?_)
  simpa only [Bool.or_eq_true, decide_eq_true_eq, Option.isSome_iff_ne_none, or_assoc] using h

theorem walk_translates {spn : BitVec 12} {va : W64} {k : AKind} {sup : Bool} (ht : tlb < 18) (h52 : va.toNat < 2 ^ 52) (hg : 0x10000 ≤ va.toNat)
    (ha : s.apHit { isl := isl, tlb := tlb, spn := spn.toNat, sup := sup } va.toNat [0, 1, 2, 3, 4, 5] = none) :
    exec (.walk isl tlb spn va k sup) s = .next (s.translate { isl := isl, tlb := tlb, spn := spn.toNat, sup := sup } va.toNat k).1 := by
  refine congrArg Host.Outcome.next (if_neg ?_)
  simp only [Bool.or_eq_true, decide_eq_true_eq, Option.isSome_iff_ne_none, ha, ne_eq, not_true, or_false]
  omega

/-- The invalidation of its slice to a TLB that was sent first and is still on its way. -/
def firstTinv (s : State) (isl tlb lk : Nat) : Option (Nat × Nat × Nat) :=
  s.trn.tinvs.find? fun t => t.1 = isl && t.2.1 = tlb && sliceOf (lineNo t.2.2) = sliceOf (lineNo lk)

/-- An entry of a TLB whose walk read a line. -/
def walkRead (isl tlb lk : Nat) (e : TlbE) : Bool := e.isl = isl && e.tlb = tlb && e.lines.contains lk

theorem walkRead_eq_false {lk : Nat} {e : TlbE} : walkRead isl tlb lk e = false ↔ ¬ (e.isl = isl ∧ e.tlb = tlb ∧ lk ∈ e.lines) := by
  rw [← Bool.not_eq_true, walkRead]
  simp only [Bool.and_eq_true, decide_eq_true_eq, List.contains_iff_mem, and_assoc]

theorem tinv_not_first (h : firstTinv s isl tlb (isl * 2 ^ 41 + line) ≠ some (isl, tlb, isl * 2 ^ 41 + line)) :
    exec (.tinv isl tlb line) s = .next s := congrArg Host.Outcome.next (if_pos h)

/-- The first invalidation is received: the entries go that its line was read for, and an acknowledgement becomes due (R73). -/
theorem tinv_first (h : firstTinv s isl tlb (isl * 2 ^ 41 + line) = some (isl, tlb, isl * 2 ^ 41 + line)) :
    ∃ t : State, exec (.tinv isl tlb line) s = .next t
      ∧ t.trn.tinvs = s.trn.tinvs.erase (isl, tlb, isl * 2 ^ 41 + line)
      ∧ t.trn.tlb = (s.trn.tlb.filter fun e => !walkRead isl tlb (isl * 2 ^ 41 + line) e)
      ∧ ∃ d : TackDue, t.trn.tacks = s.trn.tacks ++ [d] ∧ d.isl = isl ∧ d.tlb = tlb ∧ d.line = isl * 2 ^ 41 + line := by
  refine ⟨_, congrArg Host.Outcome.next (if_neg (fun hne => hne h)), ?_⟩
  obtain ⟨rs, hrs⟩ := State.reparkBy_trn
  rw [hrs]
  exact ⟨State.foldl_keeps (fun u => u.trn.tinvs) (fun _ _ => State.dropEntry_tinvs) _, (State.dropEntries_tlb _).trans (foldl_erase_filter _ _), _,
    congrArg (· ++ _) (State.foldl_keeps (fun u => u.trn.tacks) (fun _ _ => State.dropEntry_tacks) _), rfl, rfl, rfl⟩

/-- The acknowledgement of a line's invalidation that a TLB owes. -/
def tackDue (s : State) (isl tlb lk : Nat) : Option TackDue := s.trn.tacks.find? fun d => d.isl = isl && d.tlb = tlb && d.line = lk

theorem tack_none (h : tackDue s isl tlb (isl * 2 ^ 41 + line) = none) : exec (.tack isl tlb line) s = .next s := by
  show execTack isl tlb line s = _
  unfold tackDue at h
  simp only [execTack, h]

/-- The home's line with its hold ended, the last acknowledgement in (R72). -/
def holdEnded (u : State) (d : TackDue) (lk : Nat) : State :=
  { u with trn.tacks := u.trn.tacks.erase d }.setLine lk { u.line lk with tacksDue := 0, tx := false, trSharers := 0 }

/-- What the home makes of an acknowledgement: it counts it or, the last one in, serves what the line held (R72, R73). -/
def tackHome (u : State) (d : TackDue) (lk : Nat) : State :=
  if 1 < (u.line lk).tacksDue then
    { u with trn.tacks := u.trn.tacks.erase d }.setLine lk { u.line lk with tacksDue := (u.line lk).tacksDue - 1 }
  else (((holdEnded u d lk).leaveL2 lk).serveHeld lk).drain

section

variable {d : TackDue} (h : tackDue s isl tlb (isl * 2 ^ 41 + line) = some d)
include h

theorem tack_waits (hd : (s.unstick d).drained d = false) : exec (.tack isl tlb line) s = .next (s.unstick d) := by
  show execTack isl tlb line s = _
  unfold tackDue at h
  simp only [execTack, h, hd, Bool.not_false, if_true]

theorem tack_reaches (hd : (s.unstick d).drained d = true) :
    exec (.tack isl tlb line) s = .next (tackHome (s.unstick d) d (isl * 2 ^ 41 + line)) := by
  show execTack isl tlb line s = _
  unfold tackDue at h
  simp only [execTack, h, hd, Bool.not_true, Bool.false_eq_true, if_false]
  rfl

end

namespace State

theorem leaveL2_unclaimed {lk : Nat} (h : s.claimed lk lk = false) : s.leaveL2 lk = s := by
  rw [leaveL2, h, Bool.not_false, if_pos rfl]

theorem serveHeld_nothing {lk : Nat} (h : (s.line lk).held = []) : s.serveHeld lk = s := by
  simp only [serveHeld, h, List.isEmpty_nil, Bool.or_true, if_true]

theorem drain_empty (h : s.coh.wbuf = []) : s.drain = s := by
  rw [drain, h]
  dsimp only [drainList]
  rw [← h]

end State

theorem tackHome_last {u : State} {d : TackDue} {lk : Nat} (hx : (u.line lk).tacksDue ≤ 1) :
    tackHome u d lk = (((holdEnded u d lk).leaveL2 lk).serveHeld lk).drain := if_neg (Nat.not_lt.2 hx)

/-- With nothing that waits for the line the end of the hold is all that the last acknowledgement does. -/
theorem tackHome_quiet {u : State} {d : TackDue} {lk : Nat} (hx : (u.line lk).tacksDue ≤ 1) (hcl : (holdEnded u d lk).claimed lk lk = false)
    (hheld : (u.line lk).held = []) (hbuf : u.coh.wbuf = []) : tackHome u d lk = holdEnded u d lk := by
  have hnone : ((holdEnded u d lk).line lk).held = [] := (congrArg Line.held (Tbl.get_put_same _ _ _ _)).trans hheld
  have hempty : (holdEnded u d lk).coh.wbuf = [] := hbuf
  rw [tackHome_last hx, State.leaveL2_unclaimed hcl, State.serveHeld_nothing hnone, State.drain_empty hempty]

end

end Sys2Proof.Machine

namespace Sys2Proof.Proofs

open Sys2Proof Sys2Proof.Machine Sys2Proof.Machine.State

theorem translations : Claims.Translations := by
  refine ⟨fun s isl tlb spn va k sup => ⟨walk_untranslated, walk_translates⟩, fun s s1 w va k p size a level ls hlive hl =>
    ⟨fun hp => ?_, fun hp ht => ?_, fun hp ht h5 hu => ?_, fun hp ht hu => ?_⟩⟩
  · rw [translate_entry hlive hl, if_pos hp]
  · rw [translate_entry hlive hl, if_neg (hp ▸ Bool.false_ne_true), if_pos ht]
  · rw [translate_entry hlive hl, if_neg (hp ▸ Bool.false_ne_true), if_neg (fun hne => hne ht), if_pos ⟨h5, hu⟩]
  rw [translate_admitted hlive hl hp ht hu]
  refine ⟨checkKind_unreadable, checkKind_unwritable, fun h2 h3 h4 hca => ?_⟩
  rw [checkKind_open h2 h3 h4 hca]
  refine ⟨grantAccess_plain, fun h9 hw hs => ?_, fun h9 hw => grantAccess_again h9 hw⟩
  rw [grantAccess_setsD h9 hw hs]
  exact ⟨rfl, rfl⟩

theorem invalidation : Claims.Invalidation := by
  refine ⟨fun s isl tlb line => ⟨tinv_not_first, fun h => ?_⟩, fun s isl tlb line => ⟨tack_none, fun d hd => ?_⟩⟩
  · obtain ⟨t, ht, htinvs, htlb, htacks⟩ := tinv_first h
    refine ⟨t, ht, htinvs, fun e => ?_, htacks⟩
    rw [htlb, List.mem_filter, Bool.not_eq_true', walkRead_eq_false]
  · have hhome (hdr : (s.unstick d).drained d = true) := tack_reaches hd hdr
    refine ⟨tack_waits hd, fun hdr hx => (hhome hdr).trans (congrArg Host.Outcome.next (if_pos hx)),
      fun hdr hx => (hhome hdr).trans (congrArg Host.Outcome.next (tackHome_last hx)), fun hdr hx hcl hheld hbuf => ?_⟩
    exact (hhome hdr).trans (congrArg Host.Outcome.next (tackHome_quiet hx hcl hheld hbuf))

/-- Settles O47: a translation by the checks of the entry in their order, an invalidation by the entries it drops, and an acknowledgement by
what the home does with the last one and with the others. -/
theorem translation : Obligations.Translation := ⟨translations, invalidation⟩

end Sys2Proof.Proofs

/-! The host's commands to a precinct's agents (O43): RELEASE, WAKE, ARMBP, the debug halt and the frame pool's registers. -/

namespace Sys2Proof

/-- What a key holds is the default or an entry of the table. -/
theorem Tbl.get_eq_or_mem {α : Type} (d : α) (t : Tbl α) (k : Nat) : t.get d k = d ∨ (k, t.get d k) ∈ t := by
  induction t with
  | nil => exact .inl rfl
  | cons e t ih =>
    obtain ⟨j, v⟩ := e
    rw [Tbl.get]
    split
    · next hk => exact .inr (hk ▸ List.mem_cons_self)
    · exact ih.imp_right (List.mem_cons_of_mem _)

end Sys2Proof

namespace Sys2Proof.Machine

open Sys2Proof

section

variable {s : State} {p core slot cl : Nat} {i : BitVec 4} {v : W64}

/-! Windows (R129, R389). -/

theorem State.fragAt_no_window (h : ∀ f ∈ s.exe.frags, f.2.window = none) (k : Nat) : (s.fragAt k).window = none := by
  rcases Tbl.get_eq_or_mem {} s.exe.frags k with hk | hk
  · exact congrArg Frag.window hk
  · exact h _ hk

theorem State.discardWindow_none {k : Nat} (h : (s.fragAt k).window = none) : s.discardWindow k = s := by
  rw [State.discardWindow, h]

/-- Where no window stands there is none to discard. -/
theorem State.discardWindows_none {q : Nat → Bool} (h : ∀ f ∈ s.exe.frags, f.2.window = none) : s.discardWindows q = s := by
  rw [State.discardWindows]
  induction s.exe.frags.filter fun f => q f.1 with
  | nil => rfl
  | cons f l ih => rw [List.foldl_cons, State.discardWindow_none (State.fragAt_no_window h f.1), ih]

/-! RELEASE (R390, R391). -/

theorem release_running (hb : s.booted = true) (hv : (s.precinct p).valid = true) (hr : (s.precinct p).state = .running) :
    exec (.release p core slot) s = .next (s.releaseFrags fun k f =>
      k / 320 = p / 16 * 128 + core && s.holdsCore p (p / 16 * 128 + core) && f.crew = slot) := by
  show execRelease p core slot s = _
  simp only [execRelease, hb, hv, hr, Bool.not_true, Bool.false_eq_true, if_false, reduceCtorEq, decide_false, Bool.or_self, ne_eq, not_true]

theorem release_halted (hb : s.booted = true) (hv : (s.precinct p).valid = true) (hh : (s.precinct p).state = .halted) :
    exec (.release p core slot) s = .next (s.later (.release p core slot)) := by
  show execRelease p core slot s = _
  simp only [execRelease, hb, hv, hh, Bool.not_true, Bool.false_eq_true, if_false, reduceCtorEq, decide_false, Bool.or_self, ne_eq, not_false_eq_true,
    if_true]

theorem release_refused (hb : s.booted = true) (hv : (s.precinct p).valid = false) : exec (.release p core slot) s = .next (s.refuse p) := by
  show execRelease p core slot s = _
  simp only [execRelease, hb, hv, Bool.not_true, Bool.not_false, Bool.false_eq_true, if_false, Bool.true_or, if_true]

/-! WAKE (R346, R391). -/

/-- A thread of cluster `c` as WAKE leaves it. -/
def woken (s : State) (p c : Nat) (i : BitVec 4) (t : Nat × PThread) : Nat × PThread :=
  if t.1 / 4 = c && i.getLsbD (t.1 % 4) && t.2.state = .idle then
    (t.1, { t.2 with state := .running, idleDone := true, stop := !s.mayGo p true })
  else t

theorem woken_idle {c k : Nat} {th : PThread} (hk : k / 4 = c) (hi : i.getLsbD (k % 4) = true) (hs : th.state = .idle) :
    woken s p c i (k, th) = (k, { th with state := .running, idleDone := true, stop := !s.mayGo p true }) :=
  if_pos (by simp only [hk, hi, hs, decide_true, Bool.and_self])

theorem wake_running (hb : s.booted = true) (hv : (s.precinct p).valid = true) (hr : (s.precinct p).state = .running)
    (hc : s.holdsCluster p (p / 16 * 16 + cl) = true) :
    exec (.wake p cl i) s = .next { s with exe.threads := s.exe.threads.map (woken s p (p / 16 * 16 + cl) i) } := by
  show execWake p cl i s = _
  simp only [execWake, hb, hv, hr, hc, Bool.not_true, Bool.false_eq_true, if_false, ne_eq, not_true, decide_false, Bool.or_self]
  rfl

theorem wake_refused (hb : s.booted = true) (hr : (s.precinct p).state ≠ .running) : exec (.wake p cl i) s = .next (s.refuse p) := by
  show execWake p cl i s = _
  simp only [execWake, hb, hr, Bool.not_true, Bool.false_eq_true, if_false, ne_eq, not_false_eq_true, decide_true, Bool.or_true, Bool.true_or,
    if_true]

/-! ARMBP (R390). -/

theorem armbpClear_absent (hb : s.booted = true) (hv : (s.precinct p).valid = false) :
    exec (.armbpClear p) s = .next (s.setPrecinct p { s.precinct p with armbp := false }) := by
  show execArmbpClear p s = _
  simp only [execArmbpClear, hb, hv, Bool.not_true, Bool.false_eq_true, if_false, Bool.false_and]

theorem armbpClear_present (hb : s.booted = true) (hv : (s.precinct p).valid = true) (hw : (s.precinct p).state ≠ .swapped) :
    exec (.armbpClear p) s = .next (((s.setPrecinct p { s.precinct p with armbp := false }).releaseFrags
      fun k _ => s.holdsCore p (k / 320)).releaseThreads p) := by
  show execArmbpClear p s = _
  simp only [execArmbpClear, hb, hv, hw, Bool.not_true, Bool.false_eq_true, if_false, ne_eq, not_false_eq_true, decide_true, Bool.and_self, if_true]

/-! The debug halt (R389). -/

theorem debugHalt_quiet (hb : s.booted = true) (hp : s.populated p = true) (hw : ∀ f ∈ s.exe.frags, f.2.window = none) :
    exec (.debugHalt p) s = .next { s with mgt.dhalt := s.mgt.dhalt.put p true } := by
  show execDebugHalt p s = _
  simp only [execDebugHalt, hb, hp, Bool.not_true, Bool.false_eq_true, if_false, Bool.or_self]
  exact congrArg _ (State.discardWindows_none hw)

theorem debugHaltClear_free (hb : s.booted = true) (hd : s.mgt.dhalt.get false p = true) (ha : ∀ a ∈ s.eng.arrivals, a.2.held = false) :
    exec (.debugHaltClear p) s = .next ({ s with mgt.dhalt := s.mgt.dhalt.del p } : State).unstop := by
  have hnone : (s.eng.arrivals.filter fun a => a.2.isl = p && a.2.held) = [] :=
    List.filter_eq_nil_iff.2 fun a hm => by rw [ha a hm, Bool.and_false]; exact Bool.false_ne_true
  have harr : ({ s with mgt.dhalt := s.mgt.dhalt.del p } : State).unstop.eng.arrivals = s.eng.arrivals := rfl
  show execDebugHaltClear p s = _
  simp only [execDebugHaltClear, hb, hd, harr, hnone, Bool.not_true, Bool.false_eq_true, if_false, Bool.or_self, List.foldl_nil]

/-! The frame pool's doorbell and register (R83, R84, R382). -/

theorem poolDoorbell_running (hb : s.booted = true) (hv : (s.precinct p).valid = true) (hr : (s.precinct p).state = .running) :
    exec (.poolDoorbell p) s = .next (s.ringDoor p) := by
  show execPoolDoorbell p s = _
  simp only [execPoolDoorbell, hb, hv, hr, Bool.not_true, Bool.false_eq_true, if_false, Bool.or_self, if_true]

theorem poolDoorbell_recorded (hb : s.booted = true) (hv : (s.precinct p).valid = true) (hr : (s.precinct p).state ≠ .running) :
    exec (.poolDoorbell p) s = .next (s.setPrecinct p { s.precinct p with door := true }) := by
  show execPoolDoorbell p s = _
  simp only [execPoolDoorbell, hb, hv, hr, Bool.not_true, Bool.false_eq_true, if_false, Bool.or_self]

theorem ringDoor_precinct : (s.ringDoor p).precinct p = { s.precinct p with door := false } := Tbl.get_put_same _ _ _ _

/-- A thread that waits on an empty pool goes on when the pool's doorbell rings. -/
theorem ringDoor_thread {k : Nat} {th : PThread} (hm : (k, th) ∈ s.exe.threads) (hc : s.holdsCluster p (k / 4) = true) (hs : th.state = .wait)
    (hw : th.waitFor = .doorbell) :
    (k, { th with state := .running, waitFor := .none, stop := !s.mayGo p true }) ∈ (s.ringDoor p).exe.threads :=
  List.mem_map.2 ⟨_, hm, if_pos (by simp only [hc, hs, hw, decide_true, Bool.and_self])⟩

theorem pfpoolWrite_booted (hb : s.booted = true) :
    exec (.pfpoolWrite p v) s = .next (s.setPrecinct p { s.precinct p with fpool := v &&& 0xFFFFFFFFFF81 }) :=
  congrArg Host.Outcome.next (if_pos hb)

end

end Sys2Proof.Machine

namespace Sys2Proof.Proofs

open Sys2Proof Sys2Proof.Machine

/-- Settles O43: by what each command does to a precinct in the state it meets. -/
theorem debugAndWake : Obligations.DebugAndWake := fun _ _ _ _ _ _ _ hb =>
  ⟨release_running hb, release_halted hb, release_refused hb,
    fun hv hr hc => ⟨_, wake_running hb hv hr hc, rfl, fun _ _ hm hk hi hs => List.mem_map.2 ⟨_, hm, woken_idle hk hi hs⟩⟩,
    wake_refused hb, armbpClear_absent hb, armbpClear_present hb, debugHalt_quiet hb, debugHaltClear_free hb,
    fun hv hr => ⟨_, poolDoorbell_running hb hv hr, ringDoor_precinct, rfl, fun _ _ => ringDoor_thread⟩,
    poolDoorbell_recorded hb, pfpoolWrite_booted hb⟩

end Sys2Proof.Proofs

/-! Words that no code is assigned to, and header words out of place (R216, R231, R233). -/

namespace Sys2Proof

open Machine

/-- R233 names exactly codes that have no format. -/
theorem fmtOf_unassigned : ∀ op ∈ Claims.unassignedCodes, fmtOf op = none := by decide

/-- Code 0xFF is none of them. -/
theorem ne_header_of_unassigned : ∀ op ∈ Claims.unassignedCodes, op ≠ 0xFF := by decide

/-- Check 3 looks at the code alone. -/
theorem decodeWord_unassigned (pilot : Bool) (w lit : W64) (h : (w.extractLsb' 56 8).toNat ∈ Claims.unassignedCodes) :
    decodeWord pilot w lit = .error .unassigned := by
  rw [decodeWord, if_neg (ne_header_of_unassigned _ h), fmtOf_unassigned _ h]

/-- Check 2 refuses a header word in instruction position. -/
theorem decodeWord_headerCode (pilot : Bool) (w lit : W64) (h : w.extractLsb' 56 8 = 0xFF) : decodeWord pilot w lit = .error .placement :=
  if_pos (congrArg BitVec.toNat h)

theorem decodeHeader_code {w : W64} {h : Header} (hd : decodeHeader w = .ok h) : w.extractLsb' 56 8 = 0xFF := by
  unfold decodeHeader at hd
  dsimp only at hd
  split at hd
  case isTrue hc => exact hc.1
  case isFalse => cases hd

end Sys2Proof

namespace Sys2Proof.Machine.State

open Sys2Proof

section

variable {s s1 : State} {ws : List W64}

/-- A word that fails checks 2 to 5 is an illegal instruction (R231). -/
theorem issueWord_illegal {r : Reject} (hf : s.fetchHere = (s1, .ok ws))
    (hd : decodeWord s1.pilot (ws.getD s1.ctl.cpos 0) (ws.getD (s1.ctl.cpos + 1) 0) = .error r) : s.issueWord = (s1.deny 0x10 none, none) := by
  simp only [issueWord, hf, hd]

end

end Sys2Proof.Machine.State

namespace Sys2Proof.Proofs

open Sys2Proof Sys2Proof.Machine Sys2Proof.Machine.State

/-- Settles O52: by the decoder's first check that such a word fails, and by what a fragment does at a word that does not decode. -/
theorem unassignedCodes : Obligations.UnassignedCodes := by
  refine ⟨by decide, decodeWord_unassigned, decodeWord_headerCode, fun w h => decodeHeader_code, fun s s1 ws hf hop => ?_⟩
  have hissue : s.issueWord = (s1.deny 0x10 none, none) := by
    rcases hop with hop | hop
    · exact issueWord_illegal hf (decodeWord_unassigned _ _ _ hop)
    · exact issueWord_illegal hf (decodeWord_headerCode _ _ _ hop)
  exact ⟨fun hopen => by rw [hissue, deny_open hopen], fun hp hw => by rw [hissue, deny_window hp hw]⟩

end Sys2Proof.Proofs
